-- ==== Sys2Proof/Word.lean ====
section
/-! DEFINITION. The word types of the module and their plainest arithmetic (R8, R9): bytes, 32-bit words,
little-endian packing, and finite maps kept as association lists. -/

namespace Sys2Proof

/-- A byte (R9). -/
abbrev Byte := BitVec 8

/-- A 32-bit word, the unit of registers, parity and layouts (R9, R448). -/
abbrev Word := BitVec 32

/-- The little-endian value of a list of bytes: byte 0 holds bits [7:0] (R9). -/
def leNat : List Byte → Nat
  | [] => 0
  | b :: bs => b.toNat + 256 * leNat bs

/-- The `n` little-endian bytes of a value (R9). -/
def leBytes : Nat → Nat → List Byte
  | 0, _ => []
  | n + 1, v => BitVec.ofNat 8 v :: leBytes n (v / 256)

/-- The little-endian field of `len` bytes at byte offset `off` of a structure; bytes beyond its end read 0. -/
def field (bs : List Byte) (off len : Nat) : Nat := leNat ((bs.drop off).take len)

/-- Bits [hi:lo] of a value (the bit-range form of the manual). -/
def bitsOf (v hi lo : Nat) : Nat := (v / 2 ^ lo) % 2 ^ (hi + 1 - lo)

/-- Bit `i` of a value. -/
def bitOf (v i : Nat) : Bool := (v / 2 ^ i) % 2 == 1

/-- Ceiling division. -/
def cdiv (a b : Nat) : Nat := (a + b - 1) / b

/-- A finite map as an association list: the first entry of a key counts. -/
abbrev AL (α β : Type) := List (α × β)

namespace AL

variable {α β : Type} [DecidableEq α]

/-- The value at a key, or the default. -/
def get (d : β) (k : α) : AL α β → β
  | [] => d
  | (k', v) :: m => if k' = k then v else get d k m

/-- The value at a key, if listed. -/
def find? (k : α) : AL α β → Option β
  | [] => none
  | (k', v) :: m => if k' = k then some v else find? k m

/-- The map with `k` at `v`; a listed key keeps its place. -/
def set (k : α) (v : β) : AL α β → AL α β
  | [] => [(k, v)]
  | (k', v') :: m => if k' = k then (k, v) :: m else (k', v') :: set k v m

/-- The map without `k`. -/
def del (k : α) (m : AL α β) : AL α β := m.filter (fun e => !decide (e.1 = k))

/-- The map with the value at `k` changed by `f`. -/
def upd (d : β) (k : α) (f : β → β) (m : AL α β) : AL α β := set k (f (get d k m)) m

end AL

end Sys2Proof
end

