-- ==== Sys2Proof/Syntax.lean ====
section
/-! DEFINITION. The commands of the module: the types of their operands and the one inductive `Instr`, one constructor for
each row of the table of operations and events. Commands come from outside the module's own control flow: host
accesses, descriptors taking effect, packets, timers, pins and the completions of its own engines. What only the
environment decides (bytes fetched from the host, whether a signature verifies, an error injected by a fault) is an
operand. -/

namespace Sys2Proof

/-! ## Identifiers (R8) -/

/-- A context, 4 bits (R8). -/
abbrev CtxId := Fin 16
/-- A ring set: 0–15 for the contexts, 16 for the module ring set (R359). -/
abbrev SetId := Fin 17
/-- A compute die, CD0–CD3 (R14). -/
abbrev Die := Fin 4
/-- A fabric port (R323). -/
abbrev PortId := Fin 40
/-- A 12-bit module number: grove in [11:5], position in [4:0] (R8). -/
abbrev ModNo := Fin 4096

/-- A core: its compute die and its number 0–71 on the die (R8). -/
structure CoreId where
  die : Fin 4
  num : Fin 72
  deriving DecidableEq, Repr

/-- The 9-bit core id: die in [8:7], core in [6:0] (R8). -/
def CoreId.value (c : CoreId) : Nat := c.die.val * 128 + c.num.val

/-- The two CXL host ports (R354). -/
inductive HostPort
  | a | b
  deriving DecidableEq, Repr

/-- The two submission rings of a context (R359). -/
inductive SubRing
  | step | service
  deriving DecidableEq, Repr

/-! ## Formats and exact values (R27) -/

/-- The number formats of the contract (R27). -/
inductive Fmt
  | int2 | int4 | int8 | fp4 | e4m3 | e5m2 | bf16 | fp32 | fp64 | fxr64
  deriving DecidableEq, Repr

/-- An exact value: NaN, an infinity, or a sign with the magnitude `num / den`. -/
inductive XV
  | nan
  | inf (neg : Bool)
  | fin (neg : Bool) (num den : Nat)
  deriving DecidableEq, Repr

/-- The six flags of an element result (R111). -/
structure Flags where
  iv : Bool := false
  dz : Bool := false
  of : Bool := false
  uf : Bool := false
  nx : Bool := false
  cl : Bool := false
  deriving DecidableEq, Repr

/-! ## Records laid down by the manual -/

/-- A scale record, in the fields of R62. `fmt` is the FORMAT code. -/
structure ScaleRec where
  tensor : Nat := 0
  inst   : Nat := 0
  fmt    : Nat := 0xF
  rot    : Bool := false
  smooth : Bool := false
  weight : Bool := false
  step   : Nat := 0
  epoch  : Nat := 0
  zp     : Nat := 0
  scale  : BitVec 32 := 0
  mult   : Nat := 0
  shift  : Nat := 0
  strict : Bool := false
  sealed : Bool := false
  fxrExp : Int := 0
  guard  : Nat := 0
  satT   : Nat := 4
  histN  : Nat := 0
  h0     : BitVec 16 := 0
  h1     : BitVec 16 := 0
  h2     : BitVec 16 := 0
  h3     : BitVec 16 := 0
  deriving DecidableEq, Repr

/-- An update parameter record (R157). -/
structure UpdateRec where
  program   : Nat := 0
  nesterov  : Bool := false
  nonfinite : Bool := false
  alpha     : BitVec 32 := 0
  beta1     : BitVec 32 := 0
  beta2     : BitVec 32 := 0
  eps       : BitVec 32 := 0
  lambda    : BitVec 32 := 0
  tau       : BitVec 32 := 0
  deriving DecidableEq, Repr

/-- A woodpile log tag (R133). -/
structure LogTag where
  tensor : Nat
  inst   : Nat
  ctx    : Nat
  turned : Bool
  last   : Bool
  layer  : Nat
  part   : Nat
  step   : Nat
  epoch  : Nat
  fmt    : Nat
  bytes  : Nat
  deriving DecidableEq, Repr

/-- The identity of a scratchpad block: the ten bytes its tag's CHECK covers (R124). -/
structure BlockIdent where
  tensor : Nat
  inst   : Nat
  ctx    : Nat
  row    : Nat
  col    : Nat
  block  : Nat
  deriving DecidableEq, Repr

/-- The version of a block or tile: (STEP, EPOCH) (R64, R124). -/
structure Version where
  step  : Nat
  epoch : Nat
  deriving DecidableEq, Repr

/-- A reference to one 2 KiB scratchpad block with the identity the sequencer expects of it (R125); the version it expects
follows from the tensor's scale record and the step (R124). -/
structure BlockRef where
  block : Fin 2048
  ident : BlockIdent
  deriving DecidableEq, Repr

/-- A slot in a scratchpad block: the block and the byte it starts at (R89, R115). -/
structure SlotRef where
  ref : BlockRef
  off : Nat
  deriving DecidableEq, Repr

/-- A reference to one 256-lane vector: half 0 or 1 of a block (R107, R121). -/
structure VecRef where
  ref  : BlockRef
  half : Fin 2
  deriving DecidableEq, Repr

/-! ## Step programs, as the loader sees them -/

/-- The kind a step program declares (R97). -/
inductive ProgKind
  | training | rollout
  deriving DecidableEq, Repr

/-- How a quantised copy of a weight is formed (R72, R74–R77): the contraction length, whether the contraction runs down
the columns of the weight (element k × N + n) or along its rows (n × K + k), the smoothing exponents, the rotation block
size (0: none), and the layer id and rotation index of its signs. -/
structure CopySpec where
  k        : Nat
  downCols : Bool
  smooth   : List Int
  rotSize  : Nat
  layer    : Nat
  rotIndex : Nat
  deriving DecidableEq, Repr

/-- What a tensor of a version slot is (R494): a master weight, a moment of one, or a quantised copy of one. -/
inductive SlotRole
  | master | momentM (master : Nat) | momentV (master : Nat) | quantised (master : Nat) (how : CopySpec)
  deriving DecidableEq, Repr

/-- One array of a version slot (R494): its id, format code, element count, role, layer and the no-decay mark (R158). -/
structure SlotTensor where
  tensor  : Nat
  fmt     : Nat
  count   : Nat
  role    : SlotRole
  layer   : Nat
  noDecay : Bool
  deriving DecidableEq, Repr

/-- A matrix product the program declares (R74, R88, R95). -/
structure ProductDecl where
  exact      : Bool                           -- an exact pairing (R34, R36)
  k          : Nat
  rotated    : Bool
  rotSize    : Nat
  transposed : Bool
  deriving DecidableEq, Repr

/-- What a collective does with its elements (R349): exact FXR64 sums; the larger or smaller in the order of FP32, of FXR64 or
of integers; OR and AND of words; placement. -/
inductive CollOp
  | sum
  | maxF32
  | minF32
  | maxFxr
  | minFxr
  | maxInt
  | minInt
  | orWord
  | andWord
  | place
  deriving DecidableEq, Repr

/-- A collective block's schedule (R350): its owner, each node's parent on the way to the owner, the number of
contributions each node expects, and the contributors. -/
structure CollBlock where
  tensor       : Nat                          -- the tensor reduced, with the range of its elements in this block
  first        : Nat
  count        : Nat
  stream       : Nat                          -- its stream, and its place among the collectives of a step there (R351)
  seqIx        : Nat
  owner        : Nat
  parents      : List (Nat × Nat)
  expects      : List (Nat × Nat)
  contributors : List Nat
  guard        : Nat
  op           : CollOp                       -- R349
  deriving DecidableEq, Repr

/-- A tensor a step pushes onto the woodpile for each micro-batch (R132, R133, R135–R137): its layer, stored format and
layout, the bytes of a row, the bytes of one instance, whether its size depends on the data with the size expected, and the
outputs of the products that read its logs. -/
structure PushDecl where
  tensor   : Nat
  layer    : Nat
  fmt      : Nat
  turned   : Bool
  rowBytes : Nat
  bytes    : Nat
  elastic  : Bool
  expected : Nat
  feeds    : List Nat
  deriving DecidableEq, Repr

/-- A tensor marked regrow (R139): the operations of its chain and the tensors it is recomputed from. -/
structure RegrowDecl where
  tensor : Nat
  ops    : Nat
  inputs : List Nat
  deriving DecidableEq, Repr

/-- An output block of a weight gradient (R144): its tensor, its number there, and the elements it holds in logical order. -/
structure GradBlock where
  tensor : Nat
  blk    : Nat
  first  : Nat
  count  : Nat
  deriving DecidableEq, Repr

/-- The output conversion of a pass's drain (R39, R41, R96). -/
inductive DrainOut
  | partialAcc                                   -- not the last K-tile: full-width partial (R89)
  | float (f : Fmt)                              -- FP32, BF16 or FP64 output
  | narrow                                       -- quantised into the output's record (R39, R41)
  | fxr                                          -- FXR64 entry (R45)
  deriving DecidableEq, Repr

/-- The fused drains, in the order of their table (R142). -/
inductive DrainFn
  | none | relu | sqRelu | gelu | silu | swiglu
  | softmax                                      -- first phase: dy in FP32 and the row sums t (R143)
  deriving DecidableEq, Repr

/-- One pass of a matrix product as the step program's placement names it (R88, R489): the tile (i, j) of a product
M × K × N applied to `rowCount` rows, with the blocks its streams read and its drain writes. -/
structure PassOrder where
  ctx       : CtxId
  layer     : Nat                                -- layer of the operation (R129, R152)
  backward  : Bool                               -- an operation of the backward pass (R128)
  regrow    : Bool                               -- recomputes a tensor marked regrow (R139)
  tileFmt   : Fmt
  rowFmt    : Fmt
  rowCount  : Nat                                -- rows of the pass, 0–65,535 (R88)
  kTotal    : Nat                                -- K, or K′ of a rotated product (R74, R88)
  nTotal    : Nat                                -- N (R88)
  i         : Nat                                -- contraction index of the tile (R88)
  j         : Nat                                -- column index of the tile (R88)
  firstK    : Bool                               -- first pass of its output block on this core (R89)
  turn      : Bool                               -- tile loaded through the turn path (R94)
  tileRefs  : List BlockRef                      -- blocks the load stream reads (R125)
  rowRefs   : List BlockRef                      -- blocks the row stream reads
  rowWidth  : Nat := 0                           -- bytes of a row in turned logs the row operand comes from; 0: not from those (R140)
  partRefs  : List BlockRef                      -- accumulator slots of the output block with its sums (R89, R96)
  out       : DrainOut
  fn        : DrainFn
  zFmt      : Fmt                                -- stored format of a fused drain's inputs (R141)
  zRefs     : List BlockRef                      -- stored input z, g or y of a fused drain (R142)
  uRefs     : List BlockRef                      -- stored input u of the SwiGLU drain (R142)
  outTensor : Nat
  outInst   : Nat
  outRow    : Nat                                -- tile coordinates of the output
  outCol    : Nat
  outRefs   : List BlockRef                      -- blocks the drain writes
  out2      : Nat                                -- du of the SwiGLU drain (R142)
  outRefs2  : List BlockRef
  tRefs     : List BlockRef                      -- row sums t of the softmax drain (R143)
  tSplit    : Option Nat                         -- DVA of the chunk sums where a row is split across cores (R116, R143)
  rotSize   : Nat                                -- rotation block size of the product, 0 if none (R74)
  tileNo    : Nat := 0                           -- its logical tile index, which the step program assigns (R50)
  deriving DecidableEq, Repr

/-- A step program as loaded from its image: everything the loader's rules check and the engines read. The compiled
image format is not in the manual, so the image is given by its declared content. -/
structure Program where
  kind           : ProgKind
  acr            : Nat
  headerOk       : Bool                       -- image header well formed (R485)
  imageLen       : Nat                        -- length the image holds (R485)
  formats        : List Nat                   -- format codes named (R27)
  streams        : List Nat                   -- random streams named (R51)
  records        : List ScaleRec              -- initial scale records, in scale-tensor order (R65, R66)
  scaleLen       : Nat                        -- scale-tensor length in records (R66)
  batchSize      : Nat                        -- sequences (R127)
  batchBytes     : Nat                        -- the batch size in bytes, which BATCH_LEN must equal (R471)
  microbatches   : Nat                        -- B (R127)
  products       : List ProductDecl           -- the matrix products (R36, R74, R95)
  rescales       : List (Nat × Nat × Nat)     -- integer product outputs: output, row operand, tile operand tensor (R71, R73)
  fxrTensors     : List (Nat × Nat)           -- FXR64 tensor, no gradient, and the contributions a module enters per element (R46)
  logKiB         : Nat                        -- woodpile log size (R131)
  pushes         : List (Nat × List Nat)      -- per micro-batch, the logs pushed, in order (R132)
  pops           : List (Nat × List Nat)      -- per micro-batch, the logs popped, in order (R132)
  pushDecls      : List PushDecl              -- the tensors pushed (R132–R137)
  regrows        : List RegrowDecl            -- the tensors marked regrow (R139)
  placement      : List (CoreId × PassOrder)  -- the passes of a step, or of a rollout batch, core by core in order (R489)
  gradBlocks     : List GradBlock             -- output blocks of the weight gradients (R144)
  dropP          : List Nat                   -- drop thresholds P (R51)
  scanKeys       : List Nat                   -- K of each histogram and rank (R120)
  hasScan        : Bool                       -- names a scan operation (R118)
  tiedFp32       : List Bool                  -- per tied tensor, whether a slot is FP32 (R147)
  returningOps   : Bool                       -- names a returning cache operation (R191)
  collectives    : List CollBlock             -- schedules (R350)
  destinations   : List Nat                   -- modules it sends to (R343)
  hostWrites     : List (Nat × Nat)           -- offset and length of each host write of a step (R221)
  metricWrites   : List (Nat × Nat)           -- offset and data length of each provisional metric write (R221)
  shards         : List (List Nat)            -- members holding each shard (R306)
  bodyLens       : List Nat                   -- image body length of each shard (R306)
  buddies        : List (Nat × Nat)           -- buddy pairing by routing identity (R165)
  slotTensors    : List SlotTensor            -- arrays of a version slot (R494)
  tensorsPerStep : Nat                        -- logical tensors a step writes (R481)
  dieOrder       : List (Fin 4)               -- dies in placement order (R176)
  slotUnits      : Nat                        -- 2 MiB units of one version slot (R176)
  mirrorUnits    : Nat                        -- 2 MiB units of one slot of the buddy's shard
  workingUnits   : Nat                        -- 2 MiB units of the working need without the save area (R176)
  placementCores : Nat                        -- cores the placement names (R385)
  coreStateUnits : Nat                        -- 2 MiB units of one core's saved state (R385)
  pageTable      : List (Nat × BitVec 64)     -- DVA page and its table entry (R185)
  normTensor     : Nat                        -- norm tensor id (R154)
  gradTensors    : List (Nat × Bool × Nat)    -- gradient tensor, accumulates in FP32 (R145), number of uses (R147)
  masterOf       : List (Nat × Nat)           -- gradient tensor and the master weight it updates (R147, R166)
  arrays0        : List (Nat × List Nat)          -- version 0 of the slot's arrays, as loaded (R5)
  mirror0        : List (Nat × List Nat)          -- version 0 of the buddy's slot, as loaded (R147)
  deriving DecidableEq, Repr

/-- A fetch from host memory: the data, or the byte offset at which translation failed with the bytes delivered before it (R378); a fetch
that resumes delivers the bytes from its saved offset on (R381). -/
inductive Fetch (α : Type)
  | data (x : α)
  | noPage (off : Nat) (got : List Byte)
  deriving DecidableEq, Repr

/-! ## Operands of the data path -/

/-- The vector operations of VX (R107). -/
inductive VxOp
  | add32 | sub32 | mul32 | fma32 | min32 | max32 | abs32 | neg32 | cmpLt32 | cmpLe32 | cmpEq32 | select32
  | addB | subB | mulB | fmaB | minB | maxB | absB | negB | cmpLtB | cmpLeB | cmpEqB | selectB
  | add64 | sub64 | mul64 | fma64 | div64 | sqrt64 | cmpLt64 | cmpLe64 | cmpEq64
  | iadd | isub | imul | ishl | ishr | isar | iand | ior | ixor | icmpLt | icmpEq | iselect
  | div32 | sqrt32 | recip32 | rsqrt32
  | exp | exp2 | log | log2 | sigmaHat
  | siluD | geluD | reluD | sqReluD
  | convert (src dst : Fmt)
  | smooth                                               -- an activation by 2^(-j), j an INT8 element of the second source (R77)
  | butterfly (h : Nat)
  | random (layer tile stream block step : Nat)           -- layer id, logical tile index, step number; 0 for signs (R50, R76)
  | uniform                                              -- (w >> 8) × 2^-24 of random words (R51)
  | dropout (use : Nat)                                  -- values, random words: dropped where w < P of the program (R51)
  | permute (table : List (Fin 256))
  | move
  deriving DecidableEq, Repr

/-- The reductions of the rake (R115). -/
inductive RakeOp
  | sum | sumSq | exactSum | exactSumSq | max | min | argmax | range (threshold : BitVec 32)
  | chunks                                       -- completes a Sum from chunk sums in chunk order (R116)
  deriving DecidableEq, Repr

/-- A tensor with an index of it. -/
structure TensorRef where
  tensor : Nat
  inst   : Nat
  deriving DecidableEq, Repr

/-- The scan operations (R119). -/
inductive ScanOp
  | prefixSum (inclusive : Bool)
  | segmented (inclusive : Bool) (heads : List BlockRef)   -- one head bit per element
  | histogram (k : Nat)
  | rank (k : Nat)
  | compact
  deriving DecidableEq, Repr

/-- The part of a sequence a scan operation works on (R119, R120): the blocks that hold it, its elements, the logical index of its
first, and the blocks with what the earlier parts passed on. -/
structure ScanPart where
  src     : List BlockRef
  count   : Nat
  first   : Nat
  earlier : List BlockRef
  parts   : Nat
  deriving DecidableEq, Repr

/-- A block the core DMA fills, with the version of its descriptor (R123) and the core whose DMA wrote its source (R237). -/
structure FillRef where
  ref     : BlockRef
  version : Version
  source  : CoreId
  deriving DecidableEq, Repr

/-- The blocks a push reads, with the bytes of an instance of a size that depends on the data (R135, R137). -/
structure PushSrc where
  blocks : List (CoreId × BlockRef)
  bytes  : Nat
  deriving DecidableEq, Repr

/-- A pop: the tag it names and the blocks its log goes to (R134). -/
structure LogPop where
  expect : LogTag
  dst    : List BlockRef
  deriving DecidableEq, Repr

/-- A contribution to a gradient (R144–R147): its tensor, use, micro-batch and output block. -/
structure GradPlace where
  tensor : Nat
  use    : Nat
  mb     : Nat
  blk    : Nat
  deriving DecidableEq, Repr

/-- Where the result of a rake reduction goes (R115, R116): more vectors follow; a scratchpad slot; a slot as an FXR64
number entered at a tensor's exponent (R48); or, vector by vector, chunk sums to the shared cache. -/
inductive RakeDest
  | more
  | slot (dst : SlotRef)
  | entered (dst : SlotRef) (tensor inst : Nat)
  | deposit (dva : Nat)
  deriving DecidableEq, Repr

/-- An error a fault injects into a rake operation (R117): into a chunk sum, an exact sum, or one of two compare trees. -/
inductive RakeFault
  | none
  | chunk (i bits : Nat)
  | exact (delta : Int)
  | tree (bits : Nat)
  deriving DecidableEq, Repr

/-- A vector, rake or scan operation as the sequencer issues it, with its operands. -/
inductive VecTile
  | vx (op : VxOp) (srcs : List VecRef) (dst : VecRef) (key : Nat)
  | rake (op : RakeOp) (fmt : Fmt) (src : VecRef) (lanes index : Nat) (entry : TensorRef) (dest : RakeDest)
  | scan (op : ScanOp) (part : ScanPart) (dst : List BlockRef) (tensor : Nat)
  deriving DecidableEq, Repr

/-- The tile operation a sequencer times out (R271): the pass whose rows run, or a vector, rake or scan operation. -/
inductive TimedTile
  | pass
  | vec (v : VecTile)
  deriving DecidableEq, Repr

/-- An error a fault injects into a pass: into a foot accumulator, its class, the checksum path, a zero-point row or column
sum, a partial accumulator, the zero-point correction, the derivative factor, a drain output, or a turned block. -/
inductive PassFault
  | none
  | acc (row col : Nat) (delta : Int)
  | cls (row col : Nat)
  | checksum (row : Nat) (delta : Int)
  | zeroRow (row : Nat) (delta : Int)
  | zeroCol (col : Nat) (delta : Int)
  | partialAcc (row col : Nat) (delta : Int)
  | correction (row col : Nat) (delta : Int)
  | factor (row col : Nat) (bits : Nat)
  | drain (row col : Nat) (bits : Nat)
  | turnBlock (row col : Nat) (delta : Nat)
  deriving DecidableEq, Repr

/-- An error a fault injects into a VX result lane: the bits xored into it. -/
structure LaneFault where
  lane : Nat
  bits : Nat
  deriving DecidableEq, Repr

/-- The step a vote or a message of the buddy speaks of, with the epoch of its issue (R205). -/
structure StepTag where
  step  : Nat
  epoch : BitVec 16
  deriving DecidableEq, Repr

/-- What ends an epoch of a clearing: the steward's ROLLBACK order after a loss (R275, R279), or a member's report that its state is
lost, which stops the clearing without a vote (R183, R204; log 49). -/
structure RollbackOrder where
  epoch     : BitVec 16
  stateLost : Bool := false
  deriving DecidableEq, Repr

/-- Where a memory word lies, for its parity repair (R180). -/
inductive Loc
  | live (ctx : CtxId) (slot : Fin 3) (granule : Nat)
  | mirror (ctx : CtxId) (slot : Fin 3) (granule : Nat)
  | keep (ctx : CtxId) (version : Nat)
  | woodpile (ctx : CtxId) (mb : Nat) (depth : Nat)
  | workDup (ctx : CtxId)                        -- program image, tables, scale-tensor copies
  | workSlice (ctx : CtxId) (slice : Nat)
  | workRecvSlice (ctx : CtxId) (slice : Nat)
  | workBatch (ctx : CtxId) (block : Nat) (match_ : Bool)   -- whether the refetched block has the CRC-64 taken at first fetch
  | workOther (ctx : CtxId) (inputsHeld : Bool)
  | snapshot (ctx : CtxId) (granule : Nat)
  | stripe (seat : Nat) (ctx : Nat) (set row unit : Nat)
  deriving DecidableEq, Repr

/-- A word that a read of a stack finds in doubt (R168, R169, R180): where it lies, its place in the bytes read, the flipped
bits of its data and of its parity bit (bit 32), the severity its stack's on-die ECC reported, and how often the transfer was repeated
for an interface parity error. -/
structure WordFault where
  loc         : Loc
  word        : Nat
  flips       : BitVec 33
  uncorrected : Bool
  retries     : Nat
  corrected   : Bool := false                 -- the stack's on-die ECC reported a corrected error
  deriving DecidableEq, Repr

/-- How a pseudo-channel comes out of PHY training (R168, R188): the lanes that spare lanes replace, and whether it works. -/
structure ChanTraining where
  ch       : Nat
  lanes    : List Nat
  restored : Bool
  deriving DecidableEq, Repr

/-- What a margining run measures (R194): the passing eye of each lane for reads and for writes, width in 1/64 UI and height in
steps of 0.5 % of VDDQ; the lowest passing supply in steps of 0.5 % from nominal; the highest passing rate in steps of 0.8 Gb/s;
the longest passing refresh interval in thousandths of the nominal one (R283); and the lane repair that follows. -/
structure Margins where
  readEye   : List (Nat × Nat)
  writeEye  : List (Nat × Nat)
  supply    : Int
  rate      : Nat
  refresh   : Nat
  repair    : ChanTraining
  deriving DecidableEq, Repr

/-- What a refetch request asks for (R180, R181): a granule of a version slot of the requester, live or mirror; a gradient slice the
requester owns, or one it received for its mirror. -/
inductive RefetchPart
  | live | mirror | landed | received
  deriving DecidableEq, Repr

/-- A refetch request (R181): the shard and the requester's partition. -/
structure RefetchKey where
  shard : Nat
  part  : RefetchPart
  deriving DecidableEq, Repr

/-- Shared-cache reductions (R191). -/
inductive CacheOp
  | add32 | add64 | accInt | accFp | fxrAdd | maxF32 | minF32 | max32 | min32 | max64 | min64 | or32
  | deposit (chunk : Nat)
  deriving DecidableEq, Repr

/-- Returning shared-cache operations (R191). -/
inductive AtomicOp
  | fetchAdd (v : BitVec 64)
  | exchange (v : BitVec 64)
  | cas (expect v : BitVec 64)
  deriving DecidableEq, Repr

/-- An error a fault injects into a shared-cache operation (R180, R231): a failing word of its source, or an error in the sum
the combine forms. -/
inductive CacheFault
  | none
  | parity
  | combine (delta : Int)
  deriving DecidableEq, Repr

/-- A failing case of an acceptance test (R243, R254, R262): its number and the CRC-64 of both outputs. -/
structure CaseFail where
  caseNo : Nat
  ref    : Nat
  tested : Nat
  deriving DecidableEq, Repr

/-- What a referee's recomputation meets (R236, R237): whether its own checks pass; for a tag failure, whether it finds the same
mismatch at the source; and the blocks it read there, in the order of the operation's reads. -/
structure RefereeFinding where
  ownChecks  : Bool
  sameTag    : Bool
  source     : List (List Byte)
  deriving DecidableEq, Repr

/-- The unit a check belongs to, for its class (R226, R199). -/
inductive CheckUnit
  | mx | drain | turn | vx | rake | scan | tileTag | logTag | timeoutMx | timeoutVec
  deriving DecidableEq, Repr

/-! ## Operands of the grove and the fabric -/

/-- A reset domain (R264), with its index (R483). -/
inductive Domain
  | core (c : CoreId)
  | hbm (stack : Fin 20)
  | port (p : PortId)
  | die (d : Die)
  | guest
  | cp
  | mss
  | warm
  | cold
  deriving DecidableEq, Repr

/-- Declarations (R275). -/
inductive DeclKind
  | lost | suspectCleared | replaced | admitted
  deriving DecidableEq, Repr

/-- A packet header (R344). -/
structure PacketHdr where
  dest     : Nat
  src      : Nat
  type     : Nat
  clearing : Nat
  hops     : Nat
  epoch    : BitVec 16
  srcGen   : BitVec 8
  domGen   : BitVec 8
  length   : Nat
  reply    : Bool
  dom      : Nat
  stream   : Nat
  seq      : Nat
  offset   : Nat
  residue  : Nat
  markers  : Nat
  deriving DecidableEq, Repr

/-- A flit (R326). -/
structure Flit where
  vl      : Nat
  kind    : Nat
  sop     : Bool
  eop     : Bool
  seq     : Nat
  ackSeq  : Nat
  nak     : Bool
  crVl    : Nat
  crCount : Nat
  bodyLen : Nat
  body    : List Byte
  crc     : Word
  deriving DecidableEq, Repr

/-- A beacon (R333). -/
structure Beacon where
  port    : Nat
  role    : Nat
  phys    : Nat
  spare   : Bool
  sapling : Bool
  accept  : Bool
  ident   : Nat
  gen     : BitVec 8
  level   : Nat
  fwBuild : Nat
  serial  : Nat
  planId  : Nat
  expPhys : Nat
  expPort : Nat
  deriving DecidableEq, Repr

/-- The stages of a port's bring-up (R332). -/
inductive BringUpStage
  | power | cdr | lock | fec | beacon
  deriving DecidableEq, Repr

/-- Why a port goes down (R327, R328). -/
inductive DownCause
  | lossOfLock | fecErrors (codewords : Nat) | ber (perMillion : Nat) | replays (count : Nat)
  deriving DecidableEq, Repr

/-- A destination of a checkpoint image (R307): seedbank, grove stripes or export. -/
inductive Dest
  | s | g | e
  deriving DecidableEq, Repr

/-- A shard receipt, its signed fields (R482). -/
structure Receipt where
  dest      : Dest
  degraded  : Nat
  step      : Nat
  acr       : Nat
  shard     : Nat
  writer    : Nat
  clearing  : Nat
  serial    : Nat
  digest    : List Byte
  shapeHash : List Byte
  deriving DecidableEq, Repr

/-- The content of a version slot (R147): master weights, optimiser moments and quantised copies by tensor id, the
optimiser count t, and the scale records it carries. -/
structure SlotData where
  arrays  : List (Nat × List Nat) := []
  t       : Nat := 0
  records : List ScaleRec := []
  deriving DecidableEq, Repr

/-- A shard image read back (R304): the header fields and the slot in canonical order. `leavesOk` says whether every
block read equals its leaf digest. -/
structure ShardImage where
  step      : Nat
  acr       : Nat
  writer    : Nat
  shard     : Nat
  shapeHash : List Byte
  data      : SlotData
  digest    : List Byte
  leavesOk  : Bool
  deriving DecidableEq, Repr

/-- A replayed or sapling step's outcome of a comparison of Kiyth records (R289, R290). -/
inductive ReexecResult
  | equalsW
  | equalsFirst (third : Option Bool)            -- third: the other spare agrees with the sapling
  deriving DecidableEq, Repr

/-- What the referee module of a digest mismatch found (R246, R247): the slice CRC it formed; or the granules of a committed
version that differ between the pair, each with whether the receiver's copy is the one that disagrees with the replica, if there
is one; or a gradient slice that differs, and whether the receiver's copy is the wrong one. -/
inductive DigestFinding
  | crc (n : Nat)
  | versionDiffers (granules : List (Nat × Option Bool))
  | gradientDiffers (wrong : Bool)
  deriving DecidableEq, Repr

/-- A takeover record (R278). -/
structure TakeoverRec where
  step       : Nat
  attempt    : Nat
  desc       : List Byte
  upd        : UpdateRec
  cons0      : Nat
  cons1      : Nat
  prod2      : Nat
  provPosted : Bool
  crcs       : List Nat
  deriving DecidableEq, Repr

/-- Where a takeover starts (R279, R314): the epoch of the clearing, and the checkpoint whose completion all-reduce runs. -/
structure TakeoverPoint where
  epoch : BitVec 16
  ckpt  : Option Nat
  seqNo : Nat := 0                              -- the grove's recovery sequence number (R275)
  deriving DecidableEq, Repr

/-- What a module keeps in its buddy's mirror partition beside the mirror slots (R278): the takeover record of a step, by the
descriptor of it, or its program image with its translation tables. -/
inductive RecordBody
  | step (desc : List Byte)
  | image (p : Program)
  deriving DecidableEq, Repr

/-- A message of the command processor to the MSS, or of the MSS to it (R20, R22): a command, or a reply with the generation its
request carried. -/
inductive MailMsg
  | command (n : Nat)
  | reply (n : Nat) (gen : BitVec 8)
  deriving DecidableEq, Repr

/-- Units the wear monitors watch (R283). -/
inductive WearUnit
  | core (c : CoreId)
  | channel (die : Die) (ch : Nat)
  | laser (ld : Fin 2) (ch : Nat)
  | port (p : PortId)
  | hub | linkDie (ld : Fin 2) | mssUnit
  deriving DecidableEq, Repr

/-- The ageing indicators (R283). -/
inductive Indicator
  | slack | ringOsc | eccRate | refreshMargin | laserBias | portBer
  deriving DecidableEq, Repr

/-! ## Operands of management and package -/

/-- The sensors (R391). -/
inductive Sensor
  | junction (die : Fin 7)
  | stackTemp (s : Fin 20)
  | coolantIn | coolantOut
  | mainVolt | mainCurr | mainPower
  | standbyPower
  | vdd (d : Die)
  | governor
  | rxPower (p : PortId)
  | preFecBer (p : PortId)
  | drops (p : PortId)
  deriving DecidableEq, Repr

/-- A debug token (R418). `sigOk`: the signature verifies by a key chaining to an accepted root. -/
structure DebugToken where
  serial   : Nat
  nonce    : Nat
  dies     : Nat                                  -- die bits HD, CD0–CD3, LD0, LD1, GS
  level    : Nat
  logClear : Bool
  sigOk    : Bool
  deriving DecidableEq, Repr

/-- A firmware bundle (R405). Its ACRs are the families from 1 to its contract level, each up to a highest revision (R55). -/
structure Bundle where
  build   : Nat
  secVer  : Nat
  revs    : List Nat                              -- highest revision of each family, family 1 first (R55)
  kinds   : List (Nat × Nat)                      -- descriptor kinds with the level that introduced them (R293)
  sigOk   : Bool
  deriving DecidableEq, Repr

/-- A profile (R393). -/
structure Profile where
  number    : Nat
  secVer    : Nat
  sigOk     : Bool                                -- signature and certificate chain verify (R394)
  acrs      : List Nat
  limitW    : Nat
  brakeW    : Nat
  parts     : List (Nat × Nat × Nat × Nat)        -- die, partition, base, size
  resv      : List Nat                            -- reserve count of each die
  ckpt      : List (Nat × Nat)                    -- mode and interval of each context
  seedSlots : Nat
  ports     : List (Nat × Nat × Nat)              -- role, expected port, expected module, by port
  self      : Nat
  planId    : Nat
  retention : Nat
  bistSigs  : List (BitVec 64)
  deriving DecidableEq, Repr

/-- The component a PLDM update names (R407). -/
inductive Component
  | bundle
  | profile (slot : Fin 4)
  deriving DecidableEq, Repr

/-- What a staged component turned out to hold. -/
inductive Staged
  | bundle (b : Bundle)
  | profile (slot : Fin 4) (p : Profile)
  deriving DecidableEq, Repr

/-- Transports an SPDM request arrives on (R412). -/
inductive SpdmPath
  | mctp | doe (p : HostPort)
  deriving DecidableEq, Repr

/-- The IDE streams (R412, R468). -/
inductive IdeStream
  | io | cachemem
  deriving DecidableEq, Repr

/-- The PLLs of the hub (R424). -/
inductive Pll
  | arith (d : Die) | hbm (d : Die) | trellis | serdes (ld : Fin 2) | hub
  deriving DecidableEq, Repr

/-- Trellis links (module architecture, table of links). -/
inductive TrellisLink
  | dieToLink (d : Die) | dieToDie (a b : Die) | hubToDie (d : Die) | hubToLink (ld : Fin 2)
  deriving DecidableEq, Repr

/-- A trellis link ends at a compute die. -/
def TrellisLink.touches (l : TrellisLink) (d : Die) : Bool :=
  match l with
  | .dieToLink e | .hubToDie e => d == e
  | .dieToDie a b => d == a || d == b
  | .hubToLink _ => false

/-- Failures met during a start (R430): dies or trellis links, pseudo-channels, cores. -/
structure StartFailures where
  dieFails : List Nat := []
  channels : List (Fin 4 × Fin 160) := []
  cores    : List CoreId := []
  seedbank : Bool := false                        -- the seedbank lacks what R308 requires
  lanes    : List (TrellisLink × Nat) := []        -- lane groups in which the training replaced a lane (R421)
  deriving DecidableEq, Repr

/-- The banks of staged registers (R456). -/
inductive Bank
  | hubHedge | cpCtx | cpStep | cxlPri | ring | memPart | memReg | memPol | coreRbatch | coreFt
  | linkPlan | linkPol | linkTmo | rt | ckpt | mssEol | mssSap | pwr
  deriving DecidableEq, Repr

/-- Power states (R431). -/
inductive PowerState
  | active | ready | asleep | dormant | entering | waking
  deriving DecidableEq, Repr

/-- Responses to a page request (R380). -/
inductive PageResp
  | success | invalid | failure
  deriving DecidableEq, Repr

/-- What the host's doorbell line held when the module read it: its 16 words (R362). -/
abbrev DoorbellLine := List Word

/-- A restore's fetched inputs (R317, R319): the receipt, whether its signature verifies, whether the source slot holds a
valid commit block, the units of each stripe row that could be read with their places in it, and the image. -/
structure RestoreInput where
  receipt    : Receipt
  sigOk      : Bool
  sourceOk   : Bool
  rows       : List (List (Nat × List Byte))
  image      : ShardImage
  deriving DecidableEq, Repr

/-- A stripe unit to rebuild (R316): its region, set, row and place in the row, and the units of the row that the grove
could read. -/
structure RebuildUnit where
  seat  : Nat
  wctx  : Nat
  set   : Nat
  row   : Nat
  unit  : Nat
  avail : List (Nat × List Byte)
  deriving DecidableEq, Repr

/-- What a replayed step reads (R223): its batch, its update record and RNG key from its Kiyth record. -/
structure ReplayInput where
  batch  : List (List Byte)
  upd    : UpdateRec
  rngKey : Nat
  deriving DecidableEq, Repr

/-- What SAPLING_STEP_COMPARE brings (R216, R289): to the sapling the compared portion of W's record, in its bytes; to the steward the
outcome of a sapling's comparison. -/
inductive CompareReport
  | ofW (compared : List Byte)
  | verdict (sapling : ModNo) (equal : Bool)
  deriving DecidableEq, Repr

/-- What SAPLING_REEXECUTE_COMPLETE brings (R290): at the sapling the end of its re-execution, with whether the other hot spare's
agrees with the sapling, if one could re-execute the step; to W and the steward the outcome. -/
inductive ReexecReport
  | ended (third : Option Bool)
  | verdict (sapling : ModNo) (result : ReexecResult)
  deriving DecidableEq, Repr

/-- The module a sapling is to shadow, and whether it will replace it in a rolling upgrade (R287, R295). -/
structure ShadowPlan where
  w        : ModNo
  replaces : Bool := false
  deriving DecidableEq, Repr

/-- Where a spare copies the slots of a lost module from (R279, R281): one module for its live slot, one for its mirror slot; the
buddy serves both. -/
structure CopySource where
  live   : ModNo
  mirror : ModNo
  deriving DecidableEq, Repr

/-- A planned swap's order: the steward that gives it, and the clearing (R275, R282). -/
structure SwapOrder where
  issuer   : ModNo
  clearing : Nat
  deriving DecidableEq, Repr

/-- The CRC list a module holds for a slot of its committed version (R163, R245): the update record whose program wrote it, the
slices as tensor, first element and count, and the list. -/
structure CrcsHeld where
  upd    : UpdateRec
  slices : List (Nat × Nat × Nat)
  crcs   : List Nat
  deriving DecidableEq, Repr

/-- The CRC lists a module holds for its live and its mirror slot (R245, R279 step 4). -/
structure CopyLists where
  live   : CrcsHeld
  mirror : CrcsHeld
  deriving DecidableEq, Repr

/-- A sapling's feed from the module it shadows (R288). -/
inductive Feed
  | stepInputs (step : Nat) (desc : List Byte) (batch : List (List Byte)) (upd : UpdateRec)
  | slice (step slice tensor first : Nat) (vals : List Int)
  | clip (step : Nat) (c : Option (BitVec 32))
  | rollback (fromStep : Nat)
  deriving DecidableEq, Repr

/-- Packets of the control trees (R352): what is combined. -/
inductive ControlKind
  | vote (step attempt : Nat)
  | rollbackAck
  | ckptBusy (step : Nat)
  | ckptDone (step : Nat)
  | restoreVote
  | replayVote
  | acrVote
  deriving DecidableEq, Repr

/-! ## The commands -/

/-- One constructor for each row of the table of operations and events. -/
inductive Instr
  -- doorbells, rings and descriptors
  | doorbellSnoop (set : SetId) (line : DoorbellLine)
  | doorbellPeriodicRead (lines : List (SetId × DoorbellLine))
  | descriptorHeadCheck (c : CtxId) (ring : SubRing) (desc : List Byte) (update : List Byte)
  | loadProgram (c : CtxId) (image : Fetch Program)
  | unloadProgram (c : CtxId)
  | step (c : CtxId) (batch : Fetch (List (List Byte)))
  | generate (c : CtxId) (input : Fetch (List Byte))
  | replay (c : CtxId)
  | restore (c : CtxId) (input : Fetch RestoreInput)
  | acrSwitch (c : CtxId) (image : Fetch Program)
  | upload (c : CtxId) (blocks : Fetch (List (List Byte)))
  | checkpoint (c : CtxId)
  | exportSnapshot (c : CtxId) (accepted : Bool)
  | exportRelease (c : CtxId)
  | importSnapshot (c : CtxId)
  | fieldTest (c : CtxId)
  | windowMap (c : CtxId)
  | windowUnmap (c : CtxId)
  | progressRecordWrite (set : SetId)
  | pause (c : CtxId) (w : Word)
  | resume (c : CtxId) (w : Word)
  | restart0 (c : CtxId) (w : Word)
  | restart1 (c : CtxId) (w : Word)
  | pauseResumeMessage (c : CtxId) (src : ModNo) (pause : Bool)
  | coreStateSave (c : CtxId)
  | pageResponse (id : Nat) (resp : PageResp)
  | pagePauseTimeout (id : Nat)
  | pageRequestTimeout (id : Nat)
  | atsInvalidation (p : HostPort) (page : Nat)
  | cxlPortFailover (p : HostPort) (inPlace : List Nat)
  | bothPortsUnusableTimeout
  | perstAssert (p : HostPort)
  | perstDeassert (p : HostPort)
  | cxlLinkTrained (p : HostPort) (width rate : Nat) (ats pasid pri : Bool)
  | windowHostRead (p : HostPort) (line : Nat) (cached : Bool) (parity : Option WordFault)
  | windowHostWrite (p : HostPort) (addr : Nat) (bytes : List Byte)
  | backInvalidateResponse (line : Nat)
  | batchingWindowElapse (c : CtxId)
  | generateOutputWrite (c : CtxId) (outputs : List (List Byte)) (faults : List Bool)
  -- the step
  | stepForwardComplete (c : CtxId)
  | stepReductionsClean (c : CtxId)
  | updateWritten (c : CtxId)
  | nextStepForwardStart (c : CtxId) (layer : Nat)
  | localResultKnown (c : CtxId) (step : Nat)
  | voteReduced (c : CtxId) (step : StepTag) (mask : Word) (duration : Nat) (noPage : List Bool)
  | rollbackAckComplete (c : CtxId)
  | keepCopyComplete (c : CtxId)
  -- the core
  | swapFrontDepart (core : CoreId) (pass : PassOrder) (fault : PassFault)
  | broadcastSwap (core : CoreId) (pass : PassOrder) (fault : PassFault)
  | mxPassComplete (core : CoreId) (fault : PassFault)
  | vxInstruction (core : CoreId) (op : VxOp) (srcs : List VecRef) (dst : VecRef) (ctx : CtxId) (key : Nat) (parityBad : Option (Fin 512))
      (fault : Option LaneFault)
  | rakeReduction (core : CoreId) (op : RakeOp) (fmt : Fmt) (src : VecRef) (lanes : Nat) (index : Nat) (ctx : CtxId)
      (entry : TensorRef) (dest : RakeDest) (fault : RakeFault)
  | scanOperation (core : CoreId) (op : ScanOp) (part : ScanPart) (dst : List BlockRef) (ctx : CtxId) (tensor : Nat) (fault : Option (Nat × Int))
  | coreDmaFill (core : CoreId) (ctx : CtxId) (dva : Nat) (dst : FillRef) (parity : Option WordFault) (hardFault : Option Nat)
  | woodpilePush (c : CtxId) (mb tensor : Nat) (src : PushSrc)
  | woodpilePop (core : CoreId) (c : CtxId) (mb : Nat) (pop : LogPop)
  | logRelease (c : CtxId) (mb tensor part : Nat)
  | gradientContributionEntry (core : CoreId) (c : CtxId) (place : GradPlace) (src acc : List BlockRef)
  | gather (c : CtxId) (tensor : Nat)
  | sliceLand (c : CtxId) (slice tensor first : Nat) (vals : List Int) (residue : Nat)
  | normAllReduceComplete (c : CtxId) (qn : Int)
  | buddySliceReceive (c : CtxId) (step : StepTag) (slice tensor first : Nat) (vals : List Int) (update : Option UpdateRec)
  | scaleReplayDecision (c : CtxId) (tensor inst q : Nat)
  | scaleVersionTimeout (core : CoreId) (c : CtxId) (tensor inst : Nat) (tile : Version)
  | scaleHistoryMerge (c : CtxId) (tensor : Nat)
  | collectiveContributionArrive (c : CtxId) (stream seq block tensor : Nat) (epoch : BitVec 16) (vals : List Int)
      (residue markers : Nat) (amax : BitVec 32) (overflow : Bool) (hopFault : Option (Nat × Int))
  | reductionComplete (c : CtxId) (tensor : Nat) (amax : BitVec 32) (overflow : Bool)
  | cacheReduction (op : CacheOp) (core : CoreId) (c : CtxId) (dva : Nat) (src : SlotRef) (tensor inst : Nat)
      (fault : CacheFault)
  | cacheAtomic (op : AtomicOp) (dpa : Nat) (parityBad : Bool)
  -- arbitration, suspicion, digests, field tests
  | refereeRecomputeComplete (primary : CoreId) (finding : RefereeFinding)
  | strikeExpiry (core : CoreId)
  | acceptanceTestComplete (core : CoreId) (fail : Option CaseFail)
  | graft (d : Die)
  | coreTimeout (core : CoreId) (c : CtxId) (cycles bound : Nat) (tile : TimedTile)
  | digestExchangeReceive (c : CtxId) (step : StepTag) (digest : List Byte) (crcs : List Nat) (mirrorDigest : List Byte)
      (mirrorCrcs : List Nat)
  | digestRecomputeComplete (c : CtxId) (step entry : Nat) (ownShard : Bool) (ownFlip peer : Nat) (rereadFlip peerWritten : Nat)
  | refereeShipmentReceive (c : CtxId) (step entry : Nat) (modA modB : ModNo) (versA versB gradA gradB : List Nat)
      (result : Nat) (replicaCrcs : Option (List Nat)) (aRight : Bool)
  | refereeModuleResult (c : CtxId) (step entry : Nat) (ownShard : Bool) (finding : DigestFinding)
  | moduleStrikeReportReceive (c : CtxId) (m : ModNo)
  | fieldTestCaseComplete (core : CoreId) (caseNo : Nat) (ref tested : Nat) (ownChecksOk refChecksOk : Bool) (temp : Nat) (shape : Nat)
  | rollingTestCoreSwitch
  | conditionalUseBoundary (core : CoreId) (temp : Nat)
  -- memory
  | refetchRequestReceive (c : CtxId) (src : ModNo) (key : RefetchKey) (version granule : Nat) (parityBad : Bool)
  | refetchReplyReceive (c : CtxId) (loc : Loc) (granule : Option (List Byte)) (parityOk secondOk : Bool)
  | patrolScrubRead (d : Die) (ch : Nat) (bad : Option WordFault)
  | mapoutCopyComplete (d : Die) (logical : Nat)
  | mapoutSwitch (d : Die) (logical : Nat)
  -- resets and the mailbox
  | domainResetComplete (d : Domain)
  | resetSpacingRelease (d : Domain)
  | queueLifeExpiry (lane : Nat) (p : PortId)
  | mssWatchdogExpire
  | mssLockstepMismatch
  | mssResumeTimeout
  | cpWatchdogExpire
  | mssMailboxMessage (toMss : Bool) (msg : MailMsg)
  -- the grove
  | peerTimeout (c : CtxId) (peer : ModNo) (bytes elapsed : Nat) (refetch : Option Loc)
  | suspectReceive (c : CtxId) (src peer : ModNo)
  | probeReceive (src : ModNo) (path : Nat)
  | probeReplyReceive (c : CtxId) (peer : ModNo) (paths : List Nat) (progress : Bool)
  | probeTimeout (c : CtxId) (peer : ModNo)
  | moduleSelfFenceReceive (c : CtxId) (peer : ModNo)
  | declarationReceive (c : CtxId) (kind : DeclKind) (issuer : ModNo) (seqNo : Nat) (subject physical : ModNo)
      (gen : BitVec 8) (level : Nat)
  | rollbackOrderReceive (c : CtxId) (issuer : ModNo) (order : RollbackOrder)
  | takeoverOrderReceive (c : CtxId) (issuer lost : ModNo) (source : CopySource) (clearing : Nat)
  | takeoverCopyComplete (c : CtxId) (ver : Nat) (live mirror : SlotData) (prog : Program) (lists : Option CopyLists)
      (again : SlotData × SlotData)
      (cons0 cons1 prod2 : Nat) (start : TakeoverPoint) (recs : List TakeoverRec)
  | routeUpdateReceive (c : CtxId) (issuer ident spare : ModNo) (gateways : List (Nat × Nat))
  | takeoverRecordReceive (c : CtxId) (src : ModNo) (step attempt : Nat) (desc : RecordBody) (upd : UpdateRec)
      (cons0 cons1 prod2 : Nat) (provPosted : Bool) (crcs : List Nat)
  | plannedSwapStart (c : CtxId) (w admitted : ModNo) (step : Nat) (order : SwapOrder)
  | wearSample (u : WearUnit) (i : Indicator) (value : Nat)
  | eolEvaluation
  | saplingStart (c : CtxId) (sapling : ModNo) (w : ShadowPlan) (version acr : Nat) (prog : Program) (slot : SlotData)
  | saplingFeedReceive (c : CtxId) (f : Feed)
  | saplingStepCompare (c : CtxId) (step : Nat) (report : CompareReport)
  | saplingReexecuteComplete (c : CtxId) (step : Nat) (r : ReexecReport) (tensor : Nat)
  -- checkpoint, restore, replay and the export commands
  | checkpointBusyReduced (c : CtxId) (busy : Bool)
  | quickCopyComplete (c : CtxId)
  | seedbankCommandComplete (c : CtxId) (ok : Bool)
  | stripeReservationReceive (writer : ModNo) (wctx : CtxId) (set rows : Nat)
  | stripeUnitReceive (src : ModNo) (wctx : CtxId) (set seat row unit : Nat) (bytes : List Byte) (parityOk : Bool)
  | stripeAckReceive (c : CtxId) (pos row unit : Nat) (crcOk : Bool)
  | checkpointCompletionReduced (c : CtxId) (step : Nat) (s g : Bool)
  | stripeRebuildOrder (issuer : ModNo) (lost : List RebuildUnit)
  | seedbankRestoreBlockReceive (c : CtxId) (src : ModNo) (index : Nat) (bytes : List Byte)
  | restoreMirrorCopyReceive (c : CtxId) (data : SlotData) (leavesOk : Bool)
  | restoreVoteReduced (c : CtxId) (mask : Word)
  | replayAllocationReduced (c : CtxId) (mask : Word) (inputs : List ReplayInput)
  | exportImageReceive (c : CtxId) (src : ModNo) (srcClearing : Nat) (receipt : Receipt) (sigOk : Bool) (image : ShardImage)
  -- links and packets
  | flitReceive (p : PortId) (f : Flit) (fecBad : Bool)
  | idleFlitTimer (p : PortId)
  | linkPortDown (p : PortId) (cause : DownCause)
  | laserLossOfLight (ld : Fin 2) (ch : Fin 24)
  | portHoldOffExpire (p : PortId)
  | portTrainingStageComplete (p : PortId) (stage : BringUpStage)
  | bringUpStageTimeout (p : PortId)
  | beaconTimer (p : PortId)
  | beaconReceive (p : PortId) (b : Beacon)
  | markerReceive (p : PortId) (lane : Nat)
  | packetReceive (p : PortId) (lane : Nat) (h : PacketHdr)
  | dropNoticeReceive (c : CtxId) (src : ModNo) (reason : Nat)
  | generationNoticeReceive (src : ModNo) (gen : BitVec 8)
  | controlTreeContribution (c : CtxId) (k : ControlKind) (sender : ModNo) (fromSteward : Bool) (mask : Word)
  | transitCapWindow (p : PortId)
  | berReport (p : PortId) (ber : Nat)
  -- sensors and the governor
  | sensorSample (s : Sensor) (value : Int)
  | powerLoopEvaluation (averageW : Nat)
  | junctionThrottle (d : Die) (temp : Int)
  | stackThrottle (d : Die) (temps : List Int)
  | brakeValueCompute (predicted : List (List Nat))
  | pwrBrakeAssert
  | pwrBrakeRelease
  | thermalTrip (sensor : Sensor) (temp : Int)
  | thermalTripRelease (junctions stackTemps : List Int)
  -- management
  | profileSelectApply
  | selectProfile (slot : Fin 4)
  | readLog (first count : Nat)
  | clearLog (token : DebugToken)
  | commitSecurityVersion (sigOk : Bool)
  | mapOutChannel (d : Die) (ch : Nat)
  | releasePrunedCore (core : CoreId)
  | startMargining (d : Die) (ch : Nat)
  | debugUnlock (token : Option DebugToken)
  | debugNonceRead (tapDie : Fin 8)
  | debugTokenPresent (token : DebugToken)
  | setTid (tid : Nat)
  | getTid
  | getPldmVersion (type : Nat)
  | getPldmTypes
  | getPldmCommands (type : Nat)
  | getPdrRepositoryInfo
  | getPdr (handle : Nat)
  | getSensorReading (id : Nat)
  | getStateSensorReadings (id : Nat)
  | setEventReceiver (eid : Nat)
  | eventMessageBufferSize (size : Nat)
  | pollForPlatformEventMessage (ack : Option Nat)
  | queryDeviceIdentifiers
  | getFirmwareParameters
  | requestUpdate
  | passComponentTable (ids : List Nat)
  | updateComponent (comp : Component) (size : Nat)
  | firmwareDataResponse (bytes : Nat)
  | transferComplete
  | verifyComplete (staged : Staged)
  | applyComplete
  | activateFirmware
  | getStatus
  | cancelUpdateComponent
  | cancelUpdate
  | getVersion (path : SpdmPath)
  | getCapabilities (path : SpdmPath)
  | negotiateAlgorithms (path : SpdmPath) (supported : Bool)
  | getDigests (path : SpdmPath)
  | getCertificate (path : SpdmPath) (slot off len : Nat)
  | challenge (path : SpdmPath) (slot : Nat) (nonce : Nat)
  | getMeasurements (path : SpdmPath) (index : Nat)
  | keyExchange (path : SpdmPath)
  | finish (session : Nat) (macOk : Bool)
  | heartbeat (session : Nat)
  | keyUpdate (session : Nat)
  | endSession (session : Nat)
  | query (session : Nat) (p : HostPort)
  | keyProg (session : Nat) (p : HostPort) (st : IdeStream) (keySet : Nat) (key : Nat)
  | kSetGo (session : Nat) (p : HostPort) (st : IdeStream) (keySet : Nat)
  | kSetStop (session : Nat) (p : HostPort) (st : IdeStream) (keySet : Nat)
  -- guest, package and power
  | guestRequest (addr : Nat) (write : Bool) (bytes : List Byte) (len : Nat)
  | guestTimeout
  | modResetNAssert (nanoseconds : Nat)
  | modResetNRelease (profileSel : Fin 4)
  | mainPowerLoss
  | mainPowerReturn
  | refclkLost
  | refclkReturn
  | pllUnlock (p : Pll)
  | startupComplete (f : StartFailures)
  | trellisLaneErrors (l : TrellisLink) (group : Nat) (failures : Nat) (halfWorks : Bool)
  | trellisLinkLoss (l : TrellisLink)
  | hbmControllerFault (s : Fin 20) (training : Bool) (channels : List ChanTraining)
  | pwrStateGo (w : Word)
  | powerStateTransitionComplete
  | pwrStateRefusedClear
  | bistGo (w : Word)
  | bistRunComplete (misr : List (BitVec 64))
  -- registers
  | bankCommitGo (b : Bank) (tag : Nat)
  | bankCommitDiscard (b : Bank)
  | bankSafePointApply (b : Bank) (unit : Nat)
  | bstatSupersededClear (b : Bank)
  | profileGo (w : Word)
  | mssRegisterWrite (addr : Nat) (v : Word)
  | hubTimeLoRead
  | registerWrite (p : HostPort) (addr : Nat) (v : Word) (byteEnable : Nat)
  | regulatorWindow (demand : List (Nat × Nat × Nat))
  -- later rows of the table
  | marginingComplete (d : Die) (ch : Nat) (margins : Margins)
  | acrSwitchVoteReduced (c : CtxId) (mask : Word)
  | stripeReservationReplyReceive (c : CtxId) (answers : List (Nat × Bool))
  | stripeRegionReleaseReceive (writer : ModNo) (wctx : CtxId)
  | eolNoSpareReceive (c : CtxId) (m : ModNo)
  | mssFailedReceive (c : CtxId) (m : ModNo)
  deriving DecidableEq, Repr

end Sys2Proof
end

