-- ==== Sys2Proof/Decode.lean ====
section
/-! DEFINITION. The commands that words of the table of operations spell. The table gives none of its rows any bits: a
command comes from a host access, a descriptor, a packet, a timer, a pin or an engine, never from an encoded word. -/

namespace Sys2Proof

/-- The command a word of `nbits` bits spells: none, since no row of the table has bits. -/
def decodeTableWord (_nbits _w : Nat) : Option Instr := none

end Sys2Proof
end

