-- ==== Sys2Proof/Machine/Checksums.lean ====
section
/-! DEFINITION. Checksums: CRC-64/ECMA-182, the CRC-32 of IEEE 802.3, the CRC-12 of tile tags, SHA-512 and residues
modulo 65,535 (R123, R163, R226, R234, R326). The manual names CRC-64/ECMA-182 and SHA-512 and leaves their definition
to the published standards (PRESUMED, log 8). -/

namespace Sys2Proof

/-- One byte into a CRC of `w` bits, most significant bit first, with polynomial `poly`. -/
def crcByteMsb (w poly : Nat) : Nat → Nat → Nat
  | 0, c => c
  | n + 1, c => crcByteMsb w poly n (if c / 2 ^ (w - 1) = 1 then Nat.xor (c * 2 % 2 ^ w) poly else c * 2)

/-- A CRC of `w` bits over bytes, most significant bit first, without reflection or final XOR. -/
def crcMsb (w poly init : Nat) (bs : List Byte) : Nat :=
  bs.foldl (fun c b => crcByteMsb w poly 8 (Nat.xor c (b.toNat * 2 ^ (w - 8)))) init

/-- CRC-64/ECMA-182: polynomial 0x42F0E1EBA9EA3693, initial value 0. -/
def crc64 (bs : List Byte) : Nat := crcMsb 64 0x42F0E1EBA9EA3693 0 bs

/-- The CRC-12 of a tile tag: polynomial 0x80F, initial value 0xFFF (R124). -/
def crc12 (bs : List Byte) : Nat := crcMsb 12 0x80F 0xFFF bs

/-- One byte into the reflected CRC-32. -/
def crc32Byte : Nat → Nat → Nat
  | 0, c => c
  | n + 1, c => crc32Byte n (if c % 2 = 1 then Nat.xor (c / 2) 0xEDB88320 else c / 2)

/-- The CRC-32 of IEEE 802.3 (R326). -/
def crc32 (bs : List Byte) : BitVec 32 :=
  BitVec.ofNat 32 (Nat.xor (bs.foldl (fun c b => crc32Byte 8 (Nat.xor c b.toNat)) 0xFFFFFFFF) 0xFFFFFFFF)

/-- The residue modulo 65,535 of a sum of integers. -/
def residue (xs : List Int) : Nat := ((xs.foldl (· + ·) 0) % 65535).toNat

/-! ## SHA-512 -/

/-- Round constants 0–19. -/
def shaK0 : List (BitVec 64) :=
  [0x428A2F98D728AE22, 0x7137449123EF65CD, 0xB5C0FBCFEC4D3B2F, 0xE9B5DBA58189DBBC,
   0x3956C25BF348B538, 0x59F111F1B605D019, 0x923F82A4AF194F9B, 0xAB1C5ED5DA6D8118,
   0xD807AA98A3030242, 0x12835B0145706FBE, 0x243185BE4EE4B28C, 0x550C7DC3D5FFB4E2,
   0x72BE5D74F27B896F, 0x80DEB1FE3B1696B1, 0x9BDC06A725C71235, 0xC19BF174CF692694,
   0xE49B69C19EF14AD2, 0xEFBE4786384F25E3, 0x0FC19DC68B8CD5B5, 0x240CA1CC77AC9C65]

/-- Round constants 20–39. -/
def shaK1 : List (BitVec 64) :=
  [0x2DE92C6F592B0275, 0x4A7484AA6EA6E483, 0x5CB0A9DCBD41FBD4, 0x76F988DA831153B5,
   0x983E5152EE66DFAB, 0xA831C66D2DB43210, 0xB00327C898FB213F, 0xBF597FC7BEEF0EE4,
   0xC6E00BF33DA88FC2, 0xD5A79147930AA725, 0x06CA6351E003826F, 0x142929670A0E6E70,
   0x27B70A8546D22FFC, 0x2E1B21385C26C926, 0x4D2C6DFC5AC42AED, 0x53380D139D95B3DF,
   0x650A73548BAF63DE, 0x766A0ABB3C77B2A8, 0x81C2C92E47EDAEE6, 0x92722C851482353B]

/-- Round constants 40–59. -/
def shaK2 : List (BitVec 64) :=
  [0xA2BFE8A14CF10364, 0xA81A664BBC423001, 0xC24B8B70D0F89791, 0xC76C51A30654BE30,
   0xD192E819D6EF5218, 0xD69906245565A910, 0xF40E35855771202A, 0x106AA07032BBD1B8,
   0x19A4C116B8D2D0C8, 0x1E376C085141AB53, 0x2748774CDF8EEB99, 0x34B0BCB5E19B48A8,
   0x391C0CB3C5C95A63, 0x4ED8AA4AE3418ACB, 0x5B9CCA4F7763E373, 0x682E6FF3D6B2B8A3,
   0x748F82EE5DEFB2FC, 0x78A5636F43172F60, 0x84C87814A1F0AB72, 0x8CC702081A6439EC]

/-- Round constants 60–79. -/
def shaK3 : List (BitVec 64) :=
  [0x90BEFFFA23631E28, 0xA4506CEBDE82BDE9, 0xBEF9A3F7B2C67915, 0xC67178F2E372532B,
   0xCA273ECEEA26619C, 0xD186B8C721C0C207, 0xEADA7DD6CDE0EB1E, 0xF57D4F7FEE6ED178,
   0x06F067AA72176FBA, 0x0A637DC5A2C898A6, 0x113F9804BEF90DAE, 0x1B710B35131C471B,
   0x28DB77F523047D84, 0x32CAAB7B40C72493, 0x3C9EBE0A15C9BEBC, 0x431D67C49C100D4C,
   0x4CC5D4BECB3E42B6, 0x597F299CFC657E2A, 0x5FCB6FAB3AD6FAEC, 0x6C44198C4A475817]

/-- The initial hash value. -/
def shaH : List (BitVec 64) :=
  [0x6A09E667F3BCC908, 0xBB67AE8584CAA73B, 0x3C6EF372FE94F82B, 0xA54FF53A5F1D36F1,
   0x510E527FADE682D1, 0x9B05688C2B3E6C1F, 0x1F83D9ABFB41BD6B, 0x5BE0CD19137E2179]

/-- The big-endian 64-bit word of eight bytes. -/
def beWord (bs : List Byte) : BitVec 64 := BitVec.ofNat 64 (bs.foldl (fun a b => a * 256 + b.toNat) 0)

/-- Bytes in big-endian order. -/
def beBytes (n v : Nat) : List Byte := (leBytes n v).reverse

/-- The message padded to whole blocks of 128 bytes. -/
def shaPad (m : List Byte) : List Byte :=
  let z := (128 - (m.length + 17) % 128) % 128
  m ++ [0x80] ++ List.replicate z 0 ++ beBytes 16 (8 * m.length)

/-- The next `n` words of the schedule; the words so far newest first. -/
def shaExtend : Nat → List (BitVec 64) → List (BitVec 64)
  | 0, w => w
  | n + 1, w =>
    let x15 := w.getD 14 0
    let x2 := w.getD 1 0
    let s0 := x15.rotateRight 1 ^^^ x15.rotateRight 8 ^^^ (x15 >>> 7)
    let s1 := x2.rotateRight 19 ^^^ x2.rotateRight 61 ^^^ (x2 >>> 6)
    shaExtend n ((w.getD 15 0 + s0 + w.getD 6 0 + s1) :: w)

/-- The eight working words. -/
structure ShaRegs where
  a : BitVec 64
  b : BitVec 64
  c : BitVec 64
  d : BitVec 64
  e : BitVec 64
  f : BitVec 64
  g : BitVec 64
  h : BitVec 64

/-- One round. -/
def shaRound (r : ShaRegs) (kw : BitVec 64) : ShaRegs :=
  let s1 := r.e.rotateRight 14 ^^^ r.e.rotateRight 18 ^^^ r.e.rotateRight 41
  let ch := (r.e &&& r.f) ^^^ (~~~r.e &&& r.g)
  let t1 := r.h + s1 + ch + kw
  let s0 := r.a.rotateRight 28 ^^^ r.a.rotateRight 34 ^^^ r.a.rotateRight 39
  let mj := (r.a &&& r.b) ^^^ (r.a &&& r.c) ^^^ (r.b &&& r.c)
  ⟨t1 + s0 + mj, r.a, r.b, r.c, r.d + t1, r.e, r.f, r.g⟩

/-- One block of 128 bytes into the hash value. -/
def shaBlock (hv : List (BitVec 64)) (blk : List Byte) : List (BitVec 64) :=
  let w0 := (List.range 16).map (fun i => beWord ((blk.drop (8 * i)).take 8))
  let w := (shaExtend 64 w0.reverse).reverse
  let k := shaK0 ++ shaK1 ++ shaK2 ++ shaK3
  let i (n : Nat) : BitVec 64 := hv.getD n 0
  let r := (List.zipWith (· + ·) k w).foldl shaRound ⟨i 0, i 1, i 2, i 3, i 4, i 5, i 6, i 7⟩
  [i 0 + r.a, i 1 + r.b, i 2 + r.c, i 3 + r.d, i 4 + r.e, i 5 + r.f, i 6 + r.g, i 7 + r.h]

/-- Blocks one after the other. -/
def shaBlocks : Nat → List (BitVec 64) → List Byte → List (BitVec 64)
  | 0, hv, _ => hv
  | n + 1, hv, m => shaBlocks n (shaBlock hv (m.take 128)) (m.drop 128)

/-- SHA-512: 64 bytes. -/
def sha512 (m : List Byte) : List Byte :=
  let p := shaPad m
  (shaBlocks (p.length / 128) shaH p).flatMap (fun w => beBytes 8 w.toNat)

end Sys2Proof
end

