-- ==== Sys2Proof/Config.lean ====
section
/-! DEFINITION. What the manual leaves open: free values without a body, so that nothing proved rests on what they are.
Each is named in the assumption log. -/

namespace Sys2Proof.Config

/-- Free values drawn one by one, in the order of the counter the state holds (DRBG nonces, challenge answers and every
other value the manual leaves open at an event). -/
opaque freeNat : Nat → Nat

/-- A free 512-bit value, as bytes by its number: signatures (RSA PSS salts are random) and key-derived values. -/
opaque freeBytes : Nat → List (BitVec 8)

/-- What a VX compare of a width in bits writes for true and for false; the manual gives compares no encoding (R107). -/
opaque vxCompare : Nat → Bool → Nat

/-- Whether a VX select takes its first input on a condition that is neither compare result, by width and value (R107). -/
opaque vxSelect : Nat → Nat → Bool

/-- The result of a VX integer shift by 32 or more (R107 gives none): by value and amount. -/
opaque vxShiftOver : BitVec 32 → BitVec 32 → BitVec 32

/-- The module serial of this part (R462 gives the register, not the number). -/
opaque serial : Nat

/-- Which of the cores left is the next scan-capable one: the manual does not say which ten they are (R19). -/
opaque scanPick : Nat → Nat

/-- `n` cores picked from a list, each once. -/
def scanPicks : Nat → List Nat → List Nat
  | 0, _ => []
  | n + 1, l =>
    let k := l.getD (scanPick n % l.length) 0
    k :: scanPicks n (l.erase k)

/-- Whether a core is scan-capable, by its number on the die: ten of the 72 are, the other 62 are ordinary (R19). -/
def scanCapable (n : Nat) : Bool := (scanPicks 10 (List.range 72)).contains n

/-- The bytes of a clearing's shape record: R306 names what it holds, no rule gives its layout. -/
opaque shapeBytes : List (List Nat) → List (BitVec 8)

/-- The firmware build of a module that announces none to this one (R213, R333). -/
opaque peerBuild : Nat → Nat

/-- Bytes of the seedbank's namespace (R309 divides it; its size belongs to the board). -/
opaque seedbankBytes : Nat

end Sys2Proof.Config
end

