-- ==== Sys2Proof/Machine/Numerics.lean ====
section
/-! DEFINITION. The arithmetic contract: formats, exact values, rounding to nearest with ties to even, the basic
operations, FXR64, the random generator and the non-linear functions (R27–R54, R490–R492). Every result is computed
as an exact rational and rounded once. -/

namespace Sys2Proof

/-! ## Contract levels (R55) -/

/-- The contract level of a firmware: its highest family (R55). -/
def Bundle.level (b : Bundle) : Nat := b.revs.length

/-- The ACRs a firmware implements: every family from 1 to its level, each up to the highest revision it lists (R55). -/
def Bundle.acrs (b : Bundle) : List Nat :=
  b.revs.zipIdx.flatMap (fun e => (List.range (e.1 + 1)).map (fun r => 256 * (e.2 + 1) + r))

/-! ## Integer rounding -/

/-- The rounding right shift of R33. -/
def rshiftRne (x : Int) (s : Nat) : Int :=
  let q := x / (2 ^ s : Nat)
  let r := x % (2 ^ s : Nat)
  if 2 * r > (2 ^ s : Nat) ∨ (2 * r = (2 ^ s : Nat) ∧ s ≠ 0 ∧ q % 2 = 1) then q + 1 else q

/-- RNE of the non-negative quotient `num / den` to an integer (R32). -/
def rneNat (num den : Nat) : Nat :=
  let q := num / den
  let r := num % den
  if 2 * r > den ∨ (2 * r = den ∧ q % 2 = 1) then q + 1 else q

/-- RNE of a signed quotient to an integer (R32). -/
def rneInt (neg : Bool) (num den : Nat) : Int :=
  if neg then -(rneNat num den : Int) else rneNat num den

/-- An integer clamped to `[lo, hi]`. -/
def clampInt (x lo hi : Int) : Int := if x < lo then lo else if x > hi then hi else x

/-- The signed value of a two's complement number of `w` bits. -/
def toSigned (w v : Nat) : Int := if v % 2 ^ w < 2 ^ (w - 1) then (v % 2 ^ w : Nat) else (v % 2 ^ w : Nat) - (2 ^ w : Nat)

/-- The two's complement code of an integer in `w` bits. -/
def ofSigned (w : Nat) (x : Int) : Nat := (x % (2 ^ w : Nat)).toNat

/-! ## Formats (R27) -/

/-- The width of a format in bits (R27). -/
def Fmt.bits : Fmt → Nat
  | .int2 => 2
  | .int4 | .fp4 => 4
  | .int8 | .e4m3 | .e5m2 => 8
  | .bf16 => 16
  | .fp32 => 32
  | .fp64 | .fxr64 => 64

/-- Mantissa bits of a floating-point format. -/
def Fmt.man : Fmt → Nat
  | .fp4 => 1 | .e4m3 => 3 | .e5m2 => 2 | .bf16 => 7 | .fp32 => 23 | .fp64 => 52 | _ => 0

/-- Exponent bias of a floating-point format. -/
def Fmt.bias : Fmt → Nat
  | .fp4 => 1 | .e4m3 => 7 | .e5m2 => 15 | .bf16 => 127 | .fp32 => 127 | .fp64 => 1023 | _ => 0

/-- The code of the largest finite value, without sign. -/
def Fmt.maxCode : Fmt → Nat
  | .fp4 => 0x7 | .e4m3 => 0x7E | .e5m2 => 0x7B | .bf16 => 0x7F7F | .fp32 => 0x7F7FFFFF
  | .fp64 => 0x7FEFFFFFFFFFFFFF | .int2 => 3 | .int4 => 15 | .int8 => 255 | .fxr64 => 0x7FFFFFFFFFFFFFFF

/-- The canonical NaN of a format (R30); FP4 has none and takes +0 (R31). -/
def Fmt.nan : Fmt → Nat
  | .e4m3 => 0x7F | .e5m2 => 0x7F | .bf16 => 0x7FC0 | .fp32 => 0x7FC00000 | .fp64 => 0x7FF8000000000000
  | _ => 0

/-- Integer formats. -/
def Fmt.isInt : Fmt → Bool
  | .int2 | .int4 | .int8 => true
  | _ => false

/-- The narrow floating-point formats, FP4 and FP8. -/
def Fmt.isNarrowFp : Fmt → Bool
  | .fp4 | .e4m3 | .e5m2 => true
  | _ => false

/-- Formats that carry a scale (R28, R60). -/
def Fmt.isNarrow (f : Fmt) : Bool := f.isInt || f.isNarrowFp

/-- Formats whose overflow saturates (R31). -/
def Fmt.saturates : Fmt → Bool := Fmt.isNarrowFp

/-- The FORMAT code of scale records and log tags (R62, R133). -/
def Fmt.code : Fmt → Nat
  | .int2 => 0 | .int4 => 1 | .int8 => 2 | .fp4 => 3 | .e4m3 => 4 | .e5m2 => 5 | .fxr64 => 8 | .bf16 => 9
  | .fp32 => 0xA | .fp64 => 0xB

/-- The format of a FORMAT code, if it is one (R62, R133). -/
def Fmt.ofCode : Nat → Option Fmt
  | 0 => some .int2 | 1 => some .int4 | 2 => some .int8 | 3 => some .fp4 | 4 => some .e4m3 | 5 => some .e5m2
  | 8 => some .fxr64 | 9 => some .bf16 | 0xA => some .fp32 | 0xB => some .fp64
  | _ => none

/-- The exact value of a floating-point code (R27, R29 tables). -/
def decodeFp (f : Fmt) (code : Nat) : XV :=
  let w := f.bits
  let m := f.man
  let neg := bitOf code (w - 1)
  let mag := code % 2 ^ (w - 1)
  let e := mag / 2 ^ m
  let frac := mag % 2 ^ m
  let special := mag > f.maxCode
  if special then
    if f = .e4m3 then .nan
    else if f = .fp4 then .nan
    else if frac = 0 then .inf neg else .nan
  else if e = 0 then .fin neg (frac * 2) (2 ^ (f.bias + m))
  else .fin neg ((2 ^ m + frac) * 2 ^ e) (2 ^ (f.bias + m))

/-- The floor of the base-two logarithm of `num / den` (both positive). -/
def floorLog2 (num den : Nat) : Int :=
  let l : Int := (Nat.log2 num : Int) - Nat.log2 den
  let ge : Bool := if 0 ≤ l then decide (den * 2 ^ l.toNat ≤ num) else decide (den ≤ num * 2 ^ (-l).toNat)
  if ge then l else l - 1

/-- A rounded magnitude: its code with no upper limit on the exponent, and whether it is exact (R490). -/
def roundMag (f : Fmt) (num den : Nat) : Nat × Bool :=
  if num = 0 then (0, true) else
  let emin : Int := 1 - f.bias
  let e := floorLog2 num den
  let ee := if e < emin then emin else e
  let q : Int := ee - f.man
  let n := if 0 ≤ q then rneNat num (den * 2 ^ q.toNat) else rneNat (num * 2 ^ (-q).toNat) den
  let exact : Bool := if 0 ≤ q then decide (n * (den * 2 ^ q.toNat) = num) else decide (n * den = num * 2 ^ (-q).toNat)
  if e < emin then (n, exact)
  else (((ee + f.bias).toNat) * 2 ^ f.man + n - 2 ^ f.man, exact)

/-- An element code of a format together with the flags its rounding raises (R31, R111, R490, R491). -/
def encodeFp (f : Fmt) : XV → Nat × Flags
  | .nan => if f = .fp4 then (0, { iv := true }) else (f.nan, {})
  | .inf neg =>
    let s := if neg then 2 ^ (f.bits - 1) else 0
    if f.saturates then (s + f.maxCode, { of := true, nx := true }) else (s + f.maxCode + 1, {})
  | .fin neg num den =>
    let s := if neg then 2 ^ (f.bits - 1) else 0
    let (c, exact) := roundMag f num den
    if c > f.maxCode then
      (s + (if f.saturates then f.maxCode else f.maxCode + 1), { of := true, nx := true })
    else (s + c, { nx := !exact, uf := !exact && decide (c < 2 ^ f.man) })

/-! ## Exact values -/

/-- The exact value of an integer. -/
def XV.ofInt (x : Int) : XV := .fin (decide (x < 0)) x.natAbs 1

/-- An integer times a power of two, exactly (R44, R47). -/
def XV.ofScaled (x e : Int) : XV :=
  if 0 ≤ e then .fin (decide (x < 0)) (x.natAbs * 2 ^ e.toNat) 1
  else .fin (decide (x < 0)) x.natAbs (2 ^ (-e).toNat)

/-- The signed numerator. -/
def signedNum (neg : Bool) (num : Nat) : Int := if neg then -(num : Int) else num

/-- Whether the value is a NaN. -/
def XV.isNan : XV → Bool
  | .nan => true
  | _ => false

/-- Whether the value is finite. -/
def XV.isFin : XV → Bool
  | .fin .. => true
  | _ => false

/-- Whether the value is a zero. -/
def XV.isZero : XV → Bool
  | .fin _ n _ => n == 0
  | _ => false

/-- The sign of a value; NaN counts as positive. -/
def XV.sign : XV → Bool
  | .nan => false
  | .inf s => s
  | .fin s _ _ => s

/-- Negation. -/
def XV.neg : XV → XV
  | .nan => .nan
  | .inf s => .inf (!s)
  | .fin s n d => .fin (!s) n d

/-- Magnitude. -/
def XV.abs : XV → XV
  | .nan => .nan
  | .inf _ => .inf false
  | .fin _ n d => .fin false n d

/-- Exact sum; the sign of a zero sum follows IEEE 754 in round to nearest (R491). -/
def XV.add : XV → XV → XV
  | .nan, _ => .nan
  | _, .nan => .nan
  | .inf a, .inf b => if a = b then .inf a else .nan
  | .inf a, _ => .inf a
  | _, .inf b => .inf b
  | .fin a n d, .fin b m e =>
    let s : Int := signedNum a n * e + signedNum b m * d
    if s = 0 then .fin (a && b) 0 1 else .fin (decide (s < 0)) s.natAbs (d * e)

/-- Exact product. -/
def XV.mul : XV → XV → XV
  | .nan, _ => .nan
  | _, .nan => .nan
  | .inf a, .inf b => .inf (a != b)
  | .inf a, .fin b m _ => if m = 0 then .nan else .inf (a != b)
  | .fin a n _, .inf b => if n = 0 then .nan else .inf (a != b)
  | .fin a n d, .fin b m e => .fin (a != b) (n * m) (d * e)

/-- Exact quotient; a finite non-zero value over zero is an infinity. -/
def XV.div : XV → XV → XV
  | .nan, _ => .nan
  | _, .nan => .nan
  | .inf _, .inf _ => .nan
  | .inf a, .fin b _ _ => .inf (a != b)
  | .fin a _ _, .inf b => .fin (a != b) 0 1
  | .fin a n d, .fin b m e =>
    if m = 0 then (if n = 0 then .nan else .inf (a != b)) else .fin (a != b) (n * e) (d * m)

/-- Whether `x < y`; false with a NaN. -/
def XV.lt : XV → XV → Bool
  | .nan, _ => false
  | _, .nan => false
  | .inf a, .inf b => a && !b
  | .inf a, _ => a
  | _, .inf b => !b
  | .fin a n d, .fin b m e => decide (signedNum a n * e < signedNum b m * d)

/-- Whether `x = y` as real values; false with a NaN. -/
def XV.eq : XV → XV → Bool
  | .nan, _ => false
  | _, .nan => false
  | .inf a, .inf b => a == b
  | .inf _, _ => false
  | _, .inf _ => false
  | .fin a n d, .fin b m e => decide (signedNum a n * e = signedNum b m * d)

/-- The order of R115 for max and min: real order with −0 below +0. -/
def XV.ltTotal (x y : XV) : Bool := x.lt y || (x.eq y && x.sign && !y.sign)

/-- The integer square root, by bits from `2^k` downward. -/
def isqrtAux (x : Nat) : Nat → Nat → Nat
  | 0, r => r
  | k + 1, r =>
    let r' := r + 2 ^ k
    isqrtAux x k (if r' * r' ≤ x then r' else r)

/-- The floor of the square root. -/
def isqrt (x : Nat) : Nat := isqrtAux x (Nat.log2 x / 2 + 1) 0

/-- The square root of `num / den` as a value that rounds as the real root does: exact, or held strictly between two
neighbours of a grid far finer than any target format. -/
def sqrtFrac (num den : Nat) : Nat × Nat :=
  let k := 128 + Nat.log2 (den + 1)
  let x := num * 4 ^ k
  let s := isqrt (x / den)
  if s * s * den = x then (s, 2 ^ k) else (2 * s + 1, 2 * 2 ^ k)

/-- Square root; −0 gives −0. -/
def XV.sqrt : XV → XV
  | .nan => .nan
  | .inf s => if s then .nan else .inf false
  | .fin s n d =>
    if n = 0 then .fin s 0 1 else if s then .nan else
    let (a, b) := sqrtFrac n d
    .fin false a b

/-! ## Operations on codes -/

/-- FP32 value of a word. -/
def f32 (w : BitVec 32) : XV := decodeFp .fp32 w.toNat

/-- FP32 rounding, with flags; a NaN produced from non-NaN inputs raises IV through `ivIf`. -/
def toF32 (x : XV) : BitVec 32 × Flags :=
  let (c, fl) := encodeFp .fp32 x
  (BitVec.ofNat 32 c, fl)

/-- The union of two flag words (R112). -/
def Flags.or (a b : Flags) : Flags :=
  { iv := a.iv || b.iv, dz := a.dz || b.dz, of := a.of || b.of, uf := a.uf || b.uf, nx := a.nx || b.nx, cl := a.cl || b.cl }

/-- The flag word in the bits of R479. -/
def Flags.word (f : Flags) : Nat :=
  f.iv.toNat + 2 * f.dz.toNat + 4 * f.of.toNat + 8 * f.uf.toNat + 16 * f.nx.toNat + 32 * f.cl.toNat

/-- FP32 operations without flags, as sequences of R53 and R156 use them. -/
def fadd (a b : BitVec 32) : BitVec 32 := (toF32 ((f32 a).add (f32 b))).1
/-- FP32 difference. -/
def fsub (a b : BitVec 32) : BitVec 32 := (toF32 ((f32 a).add (f32 b).neg)).1
/-- FP32 product. -/
def fmul (a b : BitVec 32) : BitVec 32 := (toF32 ((f32 a).mul (f32 b))).1
/-- FP32 fused multiply-add: `a × b + c`, rounded once (R32). -/
def ffma (a b c : BitVec 32) : BitVec 32 := (toF32 (((f32 a).mul (f32 b)).add (f32 c))).1
/-- FP32 quotient. -/
def fdiv (a b : BitVec 32) : BitVec 32 := (toF32 ((f32 a).div (f32 b))).1
/-- FP32 square root. -/
def fsqrt (a : BitVec 32) : BitVec 32 := (toF32 (f32 a).sqrt).1

/-- FP32 one. -/
def one32 : BitVec 32 := 0x3F800000
/-- FP32 canonical NaN (R30). -/
def nan32 : BitVec 32 := 0x7FC00000

/-- FP64 value of a code and rounding to a code. -/
def f64 (c : Nat) : XV := decodeFp .fp64 c
/-- FP64 rounding. -/
def toF64 (x : XV) : Nat := (encodeFp .fp64 x).1

/-- The RNE FP32 word of an exact value. -/
def rneF32 (x : XV) : BitVec 32 := (toF32 x).1

/-! ## Summation in the fixed order (R42, R43) -/

/-- One pairwise level: entry i is entry 2i plus entry 2i + 1. -/
def pairLevel : List (BitVec 32) → List (BitVec 32)
  | a :: b :: xs => fadd a b :: pairLevel xs
  | xs => xs

/-- The sum of a chunk of 64 entries in six pairwise levels (R42 step 3). -/
def chunkSum (xs : List (BitVec 32)) : BitVec 32 :=
  let padded := (xs ++ List.replicate 64 (0 : BitVec 32)).take 64
  (pairLevel (pairLevel (pairLevel (pairLevel (pairLevel (pairLevel padded)))))).headD 0

/-- The chunk sums of a sequence, 64 consecutive indices each, by fuel (R42 step 2). -/
def chunkSums : Nat → List (BitVec 32) → List (BitVec 32)
  | 0, _ => []
  | n + 1, xs => if xs.isEmpty then [] else chunkSum (xs.take 64) :: chunkSums n (xs.drop 64)

/-- The chunk sums added in increasing order onto an accumulator (R42 step 4). -/
def addChunks (acc : BitVec 32) (cs : List (BitVec 32)) : BitVec 32 := cs.foldl fadd acc

/-- The FP32 sum of a sequence (R43); of no terms, +0. -/
def sumFixed (xs : List (BitVec 32)) : BitVec 32 :=
  match chunkSums (xs.length + 1) xs with
  | [] => 0
  | c :: cs => addChunks c cs

/-- A BF16 word as FP32, exactly. -/
def bf16To32 (c : Nat) : BitVec 32 := BitVec.ofNat 32 ((c % 65536) * 65536)

/-- The BF16 product sum of R42 over one row and column: FP32 products, then the fixed order. -/
def bf16Dot (a w : List Nat) : BitVec 32 :=
  sumFixed ((a.zip w).map (fun p => fmul (bf16To32 p.1) (bf16To32 p.2)))

/-! ## FXR64 (R44–R48) -/

/-- The non-finite marker (R44). -/
def fxrMarker : Int := -(2 ^ 63 : Int)

/-- The entry bound L (R45). -/
def fxrBound (g : Nat) : Int := 2 ^ (63 - g) - 1

/-- The exact value over `2^e` rounded to an integer (R45). -/
def rneScaled (neg : Bool) (num den : Nat) (e : Int) : Int :=
  if 0 ≤ e then rneInt neg num (den * 2 ^ e.toNat) else rneInt neg (num * 2 ^ (-e).toNat) den

/-- Entry into FXR64 (R45): the integer or the marker, and whether it overflowed. -/
def fxrEnter (x : XV) (e : Int) (g : Nat) : Int × Bool :=
  match x with
  | .fin neg n d =>
    let v := rneScaled neg n d e
    (v, decide (fxrBound g < v.natAbs))
  | _ => (fxrMarker, false)

/-- Exit to FP32 (R47). -/
def fxrExit (n e : Int) : BitVec 32 :=
  if n = fxrMarker then nan32 else rneF32 (XV.ofScaled n e)

/-- A sum with the marker rule of R47. -/
def fxrAdd (a b : Int) : Int := if a = fxrMarker ∨ b = fxrMarker then fxrMarker else a + b

/-- The guard width ⌈log₂ C⌉ (R46). -/
def guardOf (c : Nat) : Nat := if c ≤ 1 then 0 else Nat.log2 (c - 1) + 1

/-- The derived exponent: `floor (log₂ H0) + 1 + G − off`, clamped (R83, R85). -/
def fxrExpOf (x : XV) (g : Nat) (off : Int) : Int :=
  match x with
  | .fin _ n d => if n = 0 then 0 else clampInt (floorLog2 n d + 1 + g - off) (-1024) 1023
  | _ => 0

/-! ## Random numbers (R49–R51) -/

/-- One Philox round (R49). -/
def philoxRound (c : Nat × Nat × Nat × Nat) (k : Nat × Nat) : Nat × Nat × Nat × Nat :=
  let p0 := 0xD2511F53 * c.1
  let p1 := 0xCD9E8D57 * c.2.2.1
  ((p1 / 2 ^ 32) ^^^ c.2.1 ^^^ k.1, p1 % 2 ^ 32, (p0 / 2 ^ 32) ^^^ c.2.2.2 ^^^ k.2, p0 % 2 ^ 32)

/-- Rounds of Philox with the key increments (R49). -/
def philoxRounds : Nat → Nat × Nat × Nat × Nat → Nat × Nat → Nat × Nat × Nat × Nat
  | 0, c, _ => c
  | n + 1, c, k =>
    philoxRounds n (philoxRound c k) ((k.1 + 0x9E3779B9) % 2 ^ 32, (k.2 + 0xBB67AE85) % 2 ^ 32)

/-- The Philox4x32-10 block of a 64-bit key and four counter words (R49). -/
def philox (key c0 c1 c2 c3 : Nat) : List Nat :=
  let r := philoxRounds 10 (c0, c1, c2, c3) (key % 2 ^ 32, key / 2 ^ 32 % 2 ^ 32)
  [r.1, r.2.1, r.2.2.1, r.2.2.2]

/-! ## The contract function σ̂ (R52) -/

/-- Knots of σ̂ in half units with their values times 10⁸ (R52). -/
def sigmaKnots : List (Nat × Nat) :=
  [(0, 50000000), (1, 62245933), (2, 73105858), (3, 81757448), (4, 88079708), (5, 92414182),
   (6, 95257413), (7, 97068777), (8, 98201379), (9, 98901306), (10, 99330715), (11, 99592986)] ++
  [(12, 99752738), (13, 99849882), (14, 99908895), (15, 99944722), (16, 99966465), (18, 99987661),
   (20, 99995460), (22, 99998330), (24, 99999386), (26, 99999774), (28, 99999917), (30, 99999969), (32, 99999989)]

/-- The FP32 knot value (R52). -/
def knotS (v : Nat) : XV := f32 (rneF32 (.fin false v 100000000))

/-- The exact slope `s(1 − s)`. -/
def knotD (s : XV) : XV := s.mul ((XV.ofInt 1).add s.neg)

/-- The FP32 coefficients of one segment with width `h` (R52). -/
def sigmaCoeffs (h si si1 : XV) : BitVec 32 × BitVec 32 × BitVec 32 × BitVec 32 :=
  let di := knotD si
  let di1 := knotD si1
  let two := XV.ofInt 2
  (rneF32 si,
   rneF32 (h.mul di),
   rneF32 (((XV.ofInt 3).mul (si1.add si.neg)).add (h.mul ((two.mul di).add di1)).neg),
   rneF32 ((two.mul (si.add si1.neg)).add (h.mul (di.add di1))))

/-- The segment of a magnitude below 16: its lower knot, upper knot, found from the table. -/
def sigmaSegment (a : XV) : List (Nat × Nat) → Option ((Nat × Nat) × (Nat × Nat))
  | k0 :: k1 :: ks =>
    if a.lt (.fin false k1.1 2) then some (k0, k1) else sigmaSegment a (k1 :: ks)
  | _ => none

/-- σ̂ in FP32 (R52). -/
def sigmaHat (x : BitVec 32) : BitVec 32 :=
  let v := f32 x
  if v.isNan then nan32 else
  let a := v.abs
  let p : BitVec 32 :=
    match sigmaSegment a sigmaKnots with
    | none => one32
    | some (k0, k1) =>
      let h : XV := .fin false (k1.1 - k0.1) 2
      let t := rneF32 ((a.add (XV.neg (.fin false k0.1 2))).div h)
      let c := sigmaCoeffs h (knotS k0.2) (knotS k1.2)
      ffma (ffma (ffma c.2.2.2 t c.2.2.1) t c.2.1) t c.1
  if v.lt (XV.ofInt 0) then fsub one32 p else p

/-! ## Derivative and forward sequences (R53, R492) -/

/-- The constant c2 = 1.5957691 (R53). -/
def kC2 : BitVec 32 := rneF32 (.fin false 15957691 10000000)
/-- The constant k = 0.044715 (R53). -/
def kK : BitVec 32 := rneF32 (.fin false 44715 1000000)
/-- The constant k3 = 0.134145 (R53). -/
def kK3 : BitVec 32 := rneF32 (.fin false 134145 1000000)

/-- ReLU′ (R53). -/
def reluD (z : BitVec 32) : BitVec 32 :=
  if (f32 z).isNan then nan32 else if (XV.ofInt 0).lt (f32 z) then one32 else 0

/-- max of two FP32 values in the order of R115. -/
def fmax (a b : BitVec 32) : BitVec 32 :=
  if (f32 a).isNan || (f32 b).isNan then nan32 else if (f32 a).ltTotal (f32 b) then b else a

/-- min of two FP32 values in the order of R115. -/
def fmin (a b : BitVec 32) : BitVec 32 :=
  if (f32 a).isNan || (f32 b).isNan then nan32 else if (f32 b).ltTotal (f32 a) then b else a

/-- Squared ReLU′ (R53). -/
def sqReluD (z : BitVec 32) : BitVec 32 := fmul 0x40000000 (fmax z 0)

/-- SiLU′ (R53). -/
def siluD (z : BitVec 32) : BitVec 32 :=
  let s := sigmaHat z
  let d := fmul s (fsub one32 s)
  ffma z d s

/-- The argument v of both GELU sequences (R53, R492). -/
def geluV (z : BitVec 32) : BitVec 32 := fmul (fmul kC2 z) (ffma kK (fmul z z) one32)

/-- GELU′ (R53). -/
def geluD (z : BitVec 32) : BitVec 32 :=
  let s := sigmaHat (geluV z)
  let g := fmul kC2 (ffma kK3 (fmul z z) one32)
  let d := fmul s (fsub one32 s)
  ffma (fmul z g) d s

/-- SiLU (R492). -/
def siluF (z : BitVec 32) : BitVec 32 := fmul z (sigmaHat z)
/-- GELU (R492). -/
def geluF (z : BitVec 32) : BitVec 32 := fmul z (sigmaHat (geluV z))
/-- SwiGLU (R492). -/
def swigluF (g u : BitVec 32) : BitVec 32 := fmul (fmul g (sigmaHat g)) u

/-! ## Correctly rounded transcendental functions (R109) -/

/-- Working precision in bits: far beyond what a single rounding to FP32 can need. -/
def txPrec : Nat := 320

/-- Terms of a fixed-point series: `t` is multiplied by `x / 2^P` and divided by `div k` at each term. -/
def fxSeries (x : Int) (dv : Nat → Nat) : Nat → Nat → Int → Int → Int
  | 0, _, _, acc => acc
  | n + 1, k, t, acc =>
    let t' := t * x / (2 ^ txPrec : Nat) / (dv k : Int)
    fxSeries x dv n (k + 1) t' (acc + t')

/-- Repeated squaring in fixed point. -/
def fxSquare : Nat → Int → Int
  | 0, v => v
  | n + 1, v => fxSquare n (v * v / (2 ^ txPrec : Nat))

/-- exp of a fixed-point argument of magnitude below 256, in fixed point. -/
def fxExp (x : Int) : Int :=
  fxSquare 10 (fxSeries (x / 1024) (fun k => k) 60 1 (2 ^ txPrec : Nat) (2 ^ txPrec : Nat))

/-- Odd-power series of atanh: `2 Σ z^(2k+1) / (2k+1)`. -/
def fxAtanh (z : Int) : Nat → Nat → Int → Int → Int
  | 0, _, _, acc => 2 * acc
  | n + 1, k, p, acc =>
    fxAtanh z n (k + 1) (p * z / (2 ^ txPrec : Nat) * z / (2 ^ txPrec : Nat)) (acc + p / (2 * k + 1 : Nat))

/-- log of `num / den` in [1/2, 2], in fixed point. -/
def fxLogUnit (num den : Nat) : Int :=
  let z : Int := ((num : Int) - den) * (2 ^ txPrec : Nat) / (num + den : Nat)
  fxAtanh z 210 0 z 0

/-- ln 2 in fixed point. -/
def fxLn2 : Int := fxLogUnit 2 1

/-- A fixed-point result that is not itself representable: held between two grid points. -/
def ofFxSticky (v : Int) : XV :=
  let w := 2 * v + 1
  .fin (decide (w < 0)) w.natAbs (2 * 2 ^ txPrec)

/-- A rational as fixed point. -/
def toFx (neg : Bool) (num den : Nat) : Int := signedNum neg num * (2 ^ txPrec : Nat) / (den : Int)

/-- exp (R109): special inputs as its table gives, exactly 1 at zero. -/
def XV.exp : XV → XV
  | .nan => .nan
  | .inf s => if s then .fin false 0 1 else .inf false
  | .fin s n d =>
    if n = 0 then XV.ofInt 1
    else if n ≥ 200 * d then (if s then .fin false 1 (2 ^ 400) else .fin false (2 ^ 400) 1)
    else ofFxSticky (fxExp (toFx s n d))

/-- exp2 (R109): exact at integers. -/
def XV.exp2 : XV → XV
  | .nan => .nan
  | .inf s => if s then .fin false 0 1 else .inf false
  | .fin s n d =>
    if n ≥ 200 * d then (if s then .fin false 1 (2 ^ 400) else .fin false (2 ^ 400) 1)
    else if n % d = 0 then (if s then .fin false 1 (2 ^ (n / d)) else .fin false (2 ^ (n / d)) 1)
    else ofFxSticky (fxExp (toFx s n d * fxLn2 / (2 ^ txPrec : Nat)))

/-- log of a positive rational in fixed point. -/
def fxLog (n d : Nat) : Int :=
  let e := floorLog2 n d
  let u := if 0 ≤ e then fxLogUnit n (d * 2 ^ e.toNat) else fxLogUnit (n * 2 ^ (-e).toNat) d
  u + e * fxLn2

/-- log (R109). -/
def XV.log : XV → XV
  | .nan => .nan
  | .inf s => if s then .nan else .inf false
  | .fin s n d =>
    if n = 0 then .inf true else if s then .nan
    else if n = d then .fin false 0 1 else ofFxSticky (fxLog n d)

/-- log2 (R109): exact at powers of two. -/
def XV.log2 : XV → XV
  | .nan => .nan
  | .inf s => if s then .nan else .inf false
  | .fin s n d =>
    if n = 0 then .inf true else if s then .nan else
    let e := floorLog2 n d
    let pow : Bool := if 0 ≤ e then decide (d * 2 ^ e.toNat = n) else decide (d = n * 2 ^ (-e).toNat)
    if pow then XV.ofInt e else ofFxSticky (fxLog n d * (2 ^ txPrec : Nat) / fxLn2)

/-- rsqrt (R109). -/
def XV.rsqrt : XV → XV
  | .nan => .nan
  | .inf s => if s then .nan else .fin false 0 1
  | .fin s n d =>
    if n = 0 then .inf s else if s then .nan else
    let (a, b) := sqrtFrac d n
    .fin false a b

end Sys2Proof
end

