-- ==== Sys2Proof/Machine/Lists.lean ====
section
/-! DEFINITION. Sorting of lists by structural recursion: what the rules that say "in increasing order" use (R163, R215, R453). -/

namespace Sys2Proof.Machine

/-- An element put into a sorted list, before the first that is not less. -/
def insertBy {α : Type} (le : α → α → Bool) (x : α) : List α → List α
  | [] => [x]
  | y :: ys => if le x y then x :: y :: ys else y :: insertBy le x ys

/-- A list in increasing order; elements that compare equal keep their order. -/
def sortBy {α : Type} (le : α → α → Bool) (l : List α) : List α := l.foldr (insertBy le) []

end Sys2Proof.Machine
end

