-- ==== Sys2Proof/Machine/State.lean ====
section
/-! DEFINITION. The state of one Zeuth Hjelin module as plain data, the reasons a step can stop, and the state right
after a cold reset (R264, R426, R459). Each field names the rule that gives it to the machine. -/

namespace Sys2Proof.Machine

/-! ## Status codes (R484, R486) -/

/-- The status codes of R486, by name. -/
inductive Status
  | success
  | descKindInvalid | descZeroField | descParamInvalid | descSeqMismatch | ringIndexInvalid | stepSequence
  | stepReplayLimit | featureDisabled | restoreRequired | replayBaseAbsent | ctxFailed | descContextKind
  | replayNoSpace | stepPeerStopped
  | loadZeroField | loadKRange | loadFxrGuard | loadScaleInvalid | loadRotationSize | loadTurnMode | loadNoScan
  | loadScanKeys | loadLogSize | loadWoodpileOrder | loadWoodpileSize | loadRegrowDepth | loadTiedFormat
  | loadTranslation | loadAtomicKind | loadKeepSize | loadRouteAbsent | loadCollectiveSchedule | loadSeedbankSize
  | loadSnapshotSize | loadSaveArea | loadFormat | loadRngStream | loadRecordSize | loadImageInvalid | acrUnsupported
  | loadMicrobatch | loadPartitionFull | loadBuddyPlan
  | woodpileFull | gradNonfinite | devTranslationFault | batchRefetchMismatch | scaleVersionTimeout | scaleSaturation
  | scaleUnderuse | fxrOverflow | hostPageFault | hostPageTimeout | hostWriteFault
  | abftMismatch | drainCheck | turnCheck | checkerLaneMismatch | rakeCheck | scanCheck | tagMismatch
  | woodpileTagMismatch | digestMismatch | reductionCheck | coreTimeout | fieldTestFail | scratchpadParity | corePruned
  | spareRejected | ftModeBusy | shadowDiverged
  | memParityRefetched | cacheParity | memStateLost | memMapout | memReserveLow | memReserveExhausted
  | moduleLost | moduleSelfFence | mssFailed | noSpare | guestFenced | eolPredicted | eolNoSpare | saplingAdmitted
  | saplingRejected | thermalTrip
  | ckptStepPast | ckptPostponed | checkpointDone | ckptSnapshotLost | ckptSeedbankError | ckptStripeDegraded
  | ckptAbandoned | ckptNoIdentity | restoreReceiptInvalid | restoreStepMismatch | restoreShapeMismatch
  | restoreAcrMismatch | restoreSourceAbsent | restoreStripeLost | restoreDigestMismatch | restorePeerFailed
  | exportStepAbsent | exportBusy | exportRefused
  | linkPortDown | linkPortFenced | linkLaserExhausted | linkPlanMismatch | linkLevelLow | linkWiringMismatch
  | linkSwapAccepted | linkSwapFound | fabHopLimit | fabGroveDenied | fabClearingDenied | transitDenied | routeDenied
  | cxlPortDegraded | cxlPortFailover | eventsLost | windowAccessDenied | bankInvalid
  | profileInvalid | profileInUse | powerBrake | fwFallback | fwNone | fwVerifyFailed | fwRollbackRefused
  | fwActivateBusy | hedgeViolation | secDebugState | debugTokenInvalid | debugBusy
  | pllUnlock | refclkLost | trellisLaneRepaired | trellisDegraded | startupDone | startupFailed | pwrStateBusy
  | bistPass | bistFail | bistBusy | bistWindow | bistNoSignature | bistAborted
  deriving DecidableEq, Repr

/-- Severities (R260, R392). -/
inductive Severity
  | recoverable | fatal | corrected | informational
  deriving DecidableEq, Repr

/-! ## Rings (R359–R364, R470–R477) -/

/-- Descriptor kinds (R471). -/
inductive DescKind
  | nop | loadProgram | unloadProgram | step | generate | replay | restore | acrSwitch | upload
  | checkpoint | exportSnapshot | exportRelease | importSnapshot | fieldTest | windowMap | windowUnmap
  deriving DecidableEq, Repr

/-- Completion kinds (R370, R473). -/
inductive CKind
  | done | provisional | rolledBack | committed | stopped
  deriving DecidableEq, Repr

/-- A completion record without its SEQ, which is its ring index plus 1 (R473). -/
structure Completion where
  kind      : CKind
  attempt   : Nat
  status    : Status
  descIndex : BitVec 32
  detail    : Nat
  step      : Nat
  userTag   : Nat
  deriving DecidableEq, Repr

/-- A descriptor read at the head of its ring and checked: waiting for its condition (R366, R368). -/
structure QDesc where
  index : BitVec 32
  kind  : DescKind
  bytes : List Byte
  upd   : UpdateRec
  deriving DecidableEq, Repr

/-- A descriptor that has taken effect, until its final completion is posted in ring order (R218, R370). -/
structure Flow where
  index   : BitVec 32
  kind    : DescKind
  userTag : Nat
  done    : Option Completion
  deriving DecidableEq, Repr

/-- A submission ring (R359, R364, R369). -/
structure SubSt where
  /-- PRODUCER last read: 32; R362, R364 (13); reset DESIGN CHOICE 0, log 2 -/
  producer : BitVec 32 := 0
  /-- Consumer index C: 32; R364 (13); reset DESIGN CHOICE 0, log 2 -/
  consumer : BitVec 32 := 0
  /-- The checked descriptor waiting at the head: one descriptor; R366, R368 (13); reset none (log 2) -/
  head     : Option QDesc := none
  /-- Descriptors in effect in ring order: list; R218, R370 (08, 13); reset empty (log 2) -/
  flow     : List Flow := []
  /-- The cause of a stop: STOP0/STOP1 of R358, with R369 (13); reset none, from STOP0 = STOP1 = 0 -/
  stop     : Option Status := none
  deriving DecidableEq, Repr

/-- A ring the module writes (R359, R364): entries held while the ring is full, and entries visible to the host. -/
structure WRing (α : Type) where
  /-- Index of the next entry: 32-bit free-running; R360 (13); reset DESIGN CHOICE 0, log 2 -/
  next     : Nat := 0
  /-- CONSUMER last accepted: 32; R362, R364 (13); reset DESIGN CHOICE 0, log 2 -/
  consumer : Nat := 0
  /-- Entries whose posting waits: list; R372 (13); reset empty (log 2) -/
  held     : List α := []
  /-- Entries visible in host memory, with their index: list; R364, R372 (13); reset empty (log 2) -/
  posted   : List (Nat × α) := []
  deriving DecidableEq, Repr

/-- A failure signature: the vendor section of R261. -/
structure Signature where
  kind     : Nat
  outcome  : Nat
  unitType : Nat
  ctx      : Nat
  modNo    : Nat
  count    : Nat
  unit     : Nat
  referee  : Nat
  strikes  : Nat
  checksumPath : Bool
  step     : Nat
  attempt  : Nat
  temp     : Int
  vdd      : Int
  clock    : Nat
  pattern  : Nat
  seed     : Nat
  tensor   : Nat
  inst     : Nat
  tileRow  : Nat
  tileCol  : Nat
  tile     : Nat
  expected : Nat
  observed : Nat
  severity : Severity
  recordNo : Nat
  deriving DecidableEq, Repr

/-- A declaration payload (R476): kind 1 LOST, 2 SUSPECT_CLEARED, 3 REPLACED, 4 ADMITTED, 5 ROLLBACK, 6 TAKEOVER. -/
structure Decl where
  kind     : Nat
  issuer   : Nat
  seqNo    : Nat
  subject  : Nat
  physical : Nat
  epoch    : BitVec 16
  gen      : BitVec 8
  deriving DecidableEq, Repr

/-- The operation of a refused device access (R187). -/
inductive Access
  | read | write | reduction
  deriving DecidableEq, Repr

/-- Event payloads (R476); a refused device access names its DVA and its operation (R187, log 110). -/
inductive Payload
  | none
  | cper (s : Signature)
  | decl (d : Decl)
  | receipt (r : Receipt) (signature : List Byte)
  | link (own : Beacon) (peer : Beacon)
  | count (n : Nat)
  | bank (b : Bank) (offset : Nat)
  | access (dva : Nat) (op : Access)
  deriving DecidableEq, Repr

/-- An event entry (R476). -/
structure Event where
  status   : Status
  severity : Severity
  payload  : Payload
  set      : Nat
  time     : Nat
  step     : Nat
  attempt  : Nat
  deriving DecidableEq, Repr

/-! ## Steps and Kiyth records (R197–R216, R478–R480) -/

/-- The fingerprint of a logical tensor in a step with its flag word (R112, R215). -/
structure TensorEntry where
  scale  : Option ScaleRec
  tensor : Nat
  fmt    : Nat
  flags  : Flags
  amax   : BitVec 32
  sumSq  : Nat
  crc    : Nat
  deriving DecidableEq, Repr

/-- A replay entry (R480). -/
structure ReplayEntry where
  record : ScaleRec
  cause  : Status
  farOut : Nat
  deriving DecidableEq, Repr

/-- A cause entry (R480). -/
structure CauseEntry where
  attempt : Nat
  status  : Status
  mask    : BitVec 32
  deriving DecidableEq, Repr

/-- A Kiyth record (R478). -/
structure Kiyth where
  acr           : Nat
  replay        : Bool
  skipped       : Bool
  profile       : Nat
  step          : Nat
  attempt       : Nat
  modNo         : Nat
  clearing      : Nat
  ctx           : Nat
  replayUnlisted : Nat
  arbitrations  : Nat
  tileReplays   : Nat
  parityRepairs : Nat
  batchDigest   : List Byte
  updateDigest  : List Byte
  update        : UpdateRec
  builds        : List (Nat × Nat)                   -- firmware build by module
  rngKey        : Nat
  causes        : List CauseEntry
  nCause        : Nat
  tensors       : List TensorEntry
  replays       : List ReplayEntry
  totalLen      : Nat
  deriving DecidableEq, Repr

/-- One entry of a record ring: a part of a Kiyth record (R477). -/
structure KiythPart where
  part  : Nat
  parts : Nat
  bytes : Nat
  record : Kiyth
  deriving DecidableEq, Repr

/-- A commit whose deferred host writes are not all done (R202, R383): its completion, its record, and the writes left in program
order: address, length, and whether the page is absent. The first write of the oldest such commit has its page request out. -/
structure HeldCommit where
  step   : Nat
  cpl    : Completion
  record : Kiyth
  todo   : List (Nat × Nat × Bool)
  deriving DecidableEq, Repr

/-- A record of the step ledger while the host has not consumed it (R214). -/
structure LedgerRec where
  step   : Nat
  lastIx : Option Nat                 -- index of its last part once streamed
  deriving DecidableEq, Repr

/-- States of a provisional step (R198). -/
inductive StepState
  | forward | backward | update | checking | voting | discarded
  deriving DecidableEq, Repr

/-- The measured range of an attempt of a tensor instance (R78). -/
structure Measure where
  lo     : BitVec 32 := 0
  hi     : BitVec 32 := 0
  finite : Nat := 0
  far    : Nat := 0
  deriving DecidableEq, Repr

/-- A collective block's accumulator at this node (R350, R351). -/
structure Accum where
  tensor  : Nat := 0
  vals    : List Int := []
  got     : Nat := 0
  amax    : BitVec 32 := 0
  ovf    : Bool := false
  done    : Bool := false
  deriving DecidableEq, Repr

/-- A landed or received gradient slice (R144, R154, R164). -/
structure Slice where
  tensor  : Nat
  first   : Nat
  vals    : List Int
  sumSq   : Nat
  marker  : Bool
  residue : Nat
  deriving DecidableEq, Repr

/-- An entry of the CRC lists under arbitration with the buddy (R246): of this module's shard or of its mirror, and, once
shipped to the referee module, the CRCs this module and its buddy wrote. -/
structure DigestArb where
  entry    : Nat
  ownShard : Bool
  written  : Option (Nat × Nat)
  deriving DecidableEq, Repr

/-- The full-width accumulators of one use of an output block of a gradient (R144, R145): the core whose scratchpad holds
them, their slots, the micro-batches entered. -/
structure GradSlot where
  core : CoreId
  acc  : List BlockRef
  mbs  : List Nat
  deriving DecidableEq, Repr

/-- An FP32 contribution waiting for those of earlier micro-batches (R145): its accumulator, its micro-batch, the blocks
that hold it. -/
structure GradWait where
  tensor : Nat
  use    : Nat
  blk    : Nat
  mb     : Nat
  core   : CoreId
  src    : List BlockRef
  acc    : List BlockRef
  deriving DecidableEq, Repr

/-- A step from its taking effect to its decision (R197, R198). -/
structure Step where
  number       : Nat
  attempt      : Nat
  state        : StepState
  desc         : QDesc                               -- the descriptor copy (R197)
  upd          : UpdateRec                           -- the update record copy (R197)
  replay       : Bool                                -- a replayed step (R223)
  rngKey       : Nat                                 -- RNG key (R49)
  rollbacks    : Nat                                 -- counted rollbacks without a commit (R210)
  batch        : List (List Byte)                    -- batch buffers, in 2 MiB blocks (R208)
  batchWait    : Bool                                -- the batch fetch waits for a page (R378)
  batchCrcs    : List Nat                            -- CRC-64 of each block at first fetch (R180)
  records      : List ScaleRec                       -- scale tensor copy of the step (R69)
  startRecords : List ScaleRec                       -- the records in force at step start (R70, R71)
  measures     : AL (Nat × Nat) Measure              -- first-attempt ranges by tensor and its index (R78)
  merged       : AL Nat Measure                      -- merged ranges by tensor (R82)
  flagWords    : AL (Nat × Nat) Flags                -- flags by tensor and its index (R112)
  outTiles     : AL (Nat × Nat × Nat × Nat) (List (List Nat))  -- drained output tiles by tensor, its index, row, column
  outFmt       : AL Nat Nat                          -- FORMAT code of each drained tensor
  fillFailed   : Bool
  failed       : BitVec 7                            -- failed check classes (R199, R200)
  stopCause    : Option Status                       -- a stopping cause met here (R210)
  failCause    : Status                              -- status of the first failure
  outstanding  : Nat                                 -- checks not yet resolved (R199)
  grads        : AL (Nat × Nat × Nat) GradSlot        -- accumulators by tensor, use and output block (R144, R145)
  handed       : List (Nat × Nat)                    -- gradient blocks gone to the collective engine (R144)
  waitGrads    : List GradWait                       -- FP32 contributions waiting for their order (R145)
  gathered     : List Nat                            -- tied tensors gathered (R147)
  slices       : AL Nat Slice                        -- landed slices (R144)
  recvSlices   : AL Nat Slice                        -- slices received for the mirror (R164)
  recvUpdate   : Option UpdateRec                    -- the buddy's update record (R164)
  updSent      : Bool                                -- its update record has gone to the buddy (R164)
  clean        : List Nat                            -- FXR64 tensors reduced clean (R166)
  fxrReplayed  : List Nat                            -- tensors replayed for overflow (R86)
  amags        : AL Nat (BitVec 32)                  -- reduced magnitudes (R84)
  overs        : List Nat                            -- tensors with an entry that overflowed here (R84)
  qLocal       : Int                                 -- local norm contribution q (R154)
  normSent     : Bool                                -- its norm contribution has gone out (R155)
  qNorm        : Option Int                          -- the reduced norm Q_n (R155, R156)
  ran          : List (CoreId × PassOrder)           -- passes begun in this attempt, newest first (R81, R85, R102)
  clip         : Option (BitVec 32)                  -- c (R156)
  clipFlags    : Flags                               -- flags of the clip factor's operations (R112)
  nonfinite    : Bool                                -- R156, R161
  skipped      : Bool                                -- update skipped (R161)
  crcs         : List Nat                            -- own CRC list (R163)
  digest       : List Byte                           -- own update digest (R163)
  mirrorCrcs   : List Nat                            -- CRC list over the mirror
  mirrorDigest : List Byte
  ownCompared  : Bool                                -- own digest compared equal (R245)
  mirCompared  : Bool                                -- mirror digest compared equal
  peerOwn      : List Nat                            -- the buddy's CRC list over its mirror of this shard (R245)
  peerMir      : List Nat                            -- the buddy's CRC list over its own shard
  digestArb    : List DigestArb                      -- entries under arbitration (R246)
  forwardLayers : List Nat                           -- layers whose forward has begun (R152)
  layersReady  : List Nat                            -- layers this step's update has written (R152)
  voted        : Option (BitVec 32)                  -- its vote of this attempt (R200)
  reduced      : Option (BitVec 32)                  -- reduced mask, held until the order allows (R201)
  late         : List (Nat × Status)                 -- classes that failed after the vote (R200)
  provPosted   : Bool                                -- PROVISIONAL posted in this attempt (R218)
  replays      : List ReplayEntry                    -- R480
  causes       : List CauseEntry                     -- causes of discarded attempts (R214)
  nArb         : Nat                                 -- arbitrations (R478)
  disturbs     : Nat                                 -- arbitrations of its discarded attempts, and its rollbacks (R253)
  nTile        : Nat                                 -- tile replays (R478)
  nParity      : Nat                                 -- parity repairs (R478)
  nTimeout     : Nat                                 -- SCALE_VERSION_TIMEOUT reports (R466)
  writeFault   : Bool                                -- a deferred write was abandoned (R383)
  placeExcl    : List (CoreId × Nat)                 -- cores excluded for the failing operation's output tensor (R237)
  started      : Bool                                -- its records have been derived (R71)
  duration     : Nat                                 -- time it took, as its decision reports it (R253)
  streamAt     : AL Nat Nat                          -- next collective of each stream at its start (R220)
  deriving DecidableEq, Repr

/-! ## Version slots, checkpoints and contexts -/

/-- Slot states (R149). -/
inductive SlotState
  | free | writing | provisional | committed | retained
  deriving DecidableEq, Repr

/-- A version slot (R147–R150). -/
structure Slot where
  /-- Slot state: R149 (06); reset FREE, DESIGN CHOICE (log 2) -/
  state   : SlotState := .free
  /-- Version held: 48; R148 (06); reset DESIGN CHOICE 0 (log 2) -/
  version : Nat := 0
  /-- Reader count: R150 (06); reset DESIGN CHOICE 0 (log 2) -/
  readers : Nat := 0
  /-- A snapshot copy's reference: R151 (06); reset DESIGN CHOICE false (log 2) -/
  snapRef : Bool := false
  /-- Content: R147 (06); reset empty, DESIGN CHOICE (log 2) -/
  data    : SlotData := {}
  deriving DecidableEq, Repr

/-- A drain of the snapshot (R309, R312). -/
structure Drain where
  step      : Nat
  sSlot     : Option Nat                    -- seedbank slot being written
  sStage    : Nat                           -- 0 deallocate, 1 write, 2 flush, 3 commit block, 4 ended
  sErrors   : Nat                           -- failures of the present command
  sDone     : Option Bool                   -- receipt issued, or abandoned
  gRows     : Nat
  gSet      : Nat
  gBad      : List Nat                      -- positions that count as degraded (R313)
  gWait     : List (Nat × Nat)              -- rows and units whose acknowledgement is still due
  gDone     : Option Bool
  contributed : Bool
  deriving DecidableEq, Repr

/-- A frozen snapshot (R302): the version, its data and its digest. -/
structure Frozen where
  step   : Nat
  data   : SlotData
  digest : List Byte
  imported : Bool
  deriving DecidableEq, Repr

/-- A quick copy running (R300, R301): its source slot, the copied bits of its blocks. -/
structure QuickCopy where
  step   : Nat
  slot   : Fin 3
  data   : SlotData                         -- the version's content
  copied : List Bool
  deriving DecidableEq, Repr

/-- A restore in progress (R318). -/
structure Restoring where
  step    : Nat
  slot    : Fin 3
  cause   : Option Status
  mirrorIn : Bool
  voted   : Bool
  deriving DecidableEq, Repr

/-- A replay in progress (R223). -/
structure Replaying where
  base   : Nat
  count  : Nat
  desc   : QDesc                            -- its descriptor
  inputs : List ReplayInput                 -- inputs of the steps still to start
  slots  : AL Nat SlotData                  -- its three version slots, by version modulo 3
  region : List (Nat × Nat × Nat)           -- the working region without those slots
  deriving DecidableEq, Repr

/-- An open or dispatched rollout batch (R105): rows and the descriptor index, output address and rows of each request. -/
structure RBatch where
  rows   : Nat
  reqs   : List (BitVec 32 × Nat × Nat)
  target : Nat
  window : Nat
  opened : Nat
  deriving DecidableEq, Repr

/-- Where a page request came from (R383). -/
inductive PageFor
  | stepBatch (step : Nat)
  | updateRec (desc : List Byte)
  | descData
  | deferredWrite (step addr len : Nat)
  | generateOut (index : BitVec 32) (addr len : Nat)
  | metric
  | ringLine
  deriving DecidableEq, Repr

/-- A transfer that stopped at a failed translation: its saved offset and what it has delivered (R378, R381). -/
structure Transfer where
  what : PageFor
  off  : Nat
  got  : List Byte
  deriving DecidableEq, Repr

/-- An outstanding page request with its transfer's saved offset (R378–R381): its PASID and 4 KiB page, the hub time it went out
and the limits it went out under. -/
structure PageReq where
  pasid  : Option Nat
  page   : Nat
  issued : Nat
  pauseUs : Nat
  timeoutMs : Nat
  ctx    : CtxId
  what   : PageFor
  offset : Nat
  port   : HostPort
  paused : Bool
  deriving DecidableEq, Repr

/-- A log on a woodpile stack (R130, R133, R136). -/
structure WLog where
  tag     : LogTag
  payload : List Byte
  popped  : Bool
  core    : CoreId                        -- the core whose DMA wrote it (R237)
  deriving DecidableEq, Repr

/-- A context (R176, R358): everything of one job on this module. -/
structure Ctx where
  /-- Loaded step program: R176 (07); reset none, DESIGN CHOICE (log 2) -/
  prog        : Option Program := none
  /-- An unload has taken effect and its regions are still held: R176, R367; reset false (log 2) -/
  unloading   : Bool := false
  /-- The job's ACR, fixed when its first program is loaded: 16; R292 (10); reset none (log 2) -/
  jobAcr      : Option Nat := none
  /-- Committed version: 48; R5, R6 (00); reset DESIGN CHOICE 0 (version 0 as loaded; log 2) -/
  committed   : Nat := 0
  /-- Provisional and discarded steps, oldest first: R7, R198 (08); reset empty (log 2) -/
  steps       : List Step := []
  /-- Update parameter record of the last STEP in effect: 64 bytes; R157 (06); reset none (log 2) -/
  lastUpd     : Option UpdateRec := none
  /-- Update parameter record of the committed step: 64 bytes; R157 (06); reset none (log 2) -/
  commUpd     : Option UpdateRec := none
  /-- Slices of the buddy's step that is not yet in effect here: step, slice, content, update record; R164 (06); reset empty (log 2) -/
  early       : List (Nat × Nat × Slice × Option UpdateRec) := []
  /-- Rollback epoch: 16; R205 (08); reset 0 (R205: 0 at job start) -/
  epoch       : BitVec 16 := 0
  /-- Transfers dropped for their epoch: count; R205 (08); reset DESIGN CHOICE 0 (log 2) -/
  epochDrops  : Nat := 0
  /-- Last attempt of a step number: 8 each; R197 (08); reset empty (log 2) -/
  attempts    : AL Nat Nat := []
  /-- Causes of the discarded attempts of a step whose ring stopped at it, by step number: R214 (08); reset empty (log 2) -/
  causesOf    : AL Nat (List CauseEntry) := []
  /-- A rollback awaits its acknowledgement all-reduce: R207 (08); reset false (log 2) -/
  ackWait     : Bool := false
  /-- Step and cause at which the ring stops after a rollback: R210 (08); reset none (log 2) -/
  stopAt      : Option (Nat × Status) := none
  /-- Records of a rollout program, from its image: R65, R68, R97 (03, 04); reset empty (log 2) -/
  rollRecs    : List ScaleRec := []
  /-- Slot offset o: R148 (06); reset 0 (R148: 0 when the program is loaded) -/
  slotOff     : Nat := 0
  /-- Live version slots: three; R147–R150 (06); reset three FREE slots (log 2) -/
  live        : AL (Fin 3) Slot := []
  /-- Mirror version slots: three; R147–R150 (06); reset three FREE slots (log 2) -/
  mirror      : AL (Fin 3) Slot := []
  /-- Kept versions, oldest first: R211, R212 (08); reset empty (R280 for a spare; log 2) -/
  keep        : List (Nat × SlotData) := []
  /-- RETAINED slots whose keep copies run, oldest first: R212 (08); reset empty (log 2) -/
  keepCopy    : List (Fin 3) := []
  /-- Frozen snapshot: R302 (11); reset none (log 2) -/
  snapshot    : Option Frozen := none
  /-- Quick copy: R300, R301 (11); reset none (log 2) -/
  quick       : Option QuickCopy := none
  /-- Drain: R309–R313 (11); reset none (log 2) -/
  drain       : Option Drain := none
  /-- Checkpoint steps named by descriptors in effect, with their ring index: R296 (11); reset empty (log 2) -/
  ckptNamed   : List (Nat × BitVec 32) := []
  /-- Checkpoints due whose busy all-reduces are running, oldest first: R299, R300 (11); reset empty (log 2) -/
  ckptDue     : List Nat := []
  /-- A postponed checkpoint: R299 (11); reset false (log 2) -/
  postponed   : Bool := false
  /-- Newest clearing-complete S and G checkpoints: R309, R312, R314 (11); reset none (log 2) -/
  newestS     : Option Nat := none
  newestG     : Option Nat := none
  /-- Which stripe set holds the newest complete G checkpoint: 1; R312 (11); reset DESIGN CHOICE 1 (log 2) -/
  gSetNewest  : Nat := 1
  /-- Degraded positions of each stripe set of this writer: R313, R316 (11); reset empty (log 2) -/
  gLost       : AL Nat (List Nat) := []
  /-- Snapshot blocks exposed in the window: first page, blocks: R321 (11); reset empty (log 2) -/
  exports     : List (Nat × Nat × BitVec 32) := []
  /-- Import declared: sender, clearing, step, shard, ring index: R322 (11); reset none (log 2) -/
  imported    : Option (Nat × Nat × Nat × Nat × BitVec 32) := none
  /-- Restore in progress: R318 (11); reset none (log 2) -/
  restoring   : Option Restoring := none
  /-- Replay in progress: R223 (08); reset none (log 2) -/
  replaying   : Option Replaying := none
  /-- ACR switch in progress: the new program and this module's check: R294 (10); reset none (log 2) -/
  switching   : Option (Program × Bool) := none
  /-- Only RESTORE, UNLOAD_PROGRAM and NOP are accepted: R369 (13); reset false (log 2) -/
  needRestore : Bool := false
  /-- No step has taken effect since the load or MEM_STATE_LOST: R317 (11); reset true (log 2) -/
  fresh       : Bool := true
  /-- Step ledger records: at most 16; R214 (08); reset empty (log 2) -/
  ledger      : List LedgerRec := []
  /-- Committed steps awaiting posting on a full completion ring: R372 (13); reset empty (log 2) -/
  commitWait  : List Kiyth := []
  /-- Commits whose deferred writes wait for pages: R383 (13); reset empty (log 2) -/
  heldCommits : List HeldCommit := []
  /-- Host pause source: 1; R358, R382 (13); reset 0 (R358) -/
  pauseHost   : Bool := false
  /-- Page pause source: 1; R358, R380 (13); reset 0 (R358) -/
  pausePage   : Bool := false
  /-- Paused by another module: 1, with those modules; R358, R382 (13); reset none (R358) -/
  pausePeers  : List Nat := []
  /-- When the context last resumed: hub time; R382 (13); reset none (log 2) -/
  resumedAt   : Option Nat := none
  /-- Transfers with their saved offsets: list; R378, R381 (13); reset empty (log 2) -/
  transfers   : List Transfer := []
  /-- Core state is in the save area: 1; R358, R385 (13); reset 0 (R358) -/
  saved       : Bool := false
  /-- Woodpile stacks by micro-batch, top first: R130 (06); reset empty (log 2) -/
  logStacks      : AL Nat (List WLog) := []
  /-- Pushes waiting for a free log: R138 (06); reset empty (log 2) -/
  pushWait    : List (Nat × LogTag × List Byte × CoreId) := []
  /-- Device address translation table: 2^20 entries of 64; R185 (07); reset empty: VALID 0 (log 2) -/
  pages       : AL Nat (BitVec 64) := []
  /-- Regions of each partition, as (die, base, units) pieces: R176 (07); reset empty (log 2) -/
  regions     : AL Nat (List (Nat × Nat × Nat)) := []
  /-- Collective accumulators by stream, sequence and block: R350, R351 (12); reset empty (log 2) -/
  accums      : AL (Nat × Nat × Nat) Accum := []
  /-- Next collective of each stream to land: R220, R351 (08, 12); reset 0 (log 2) -/
  streamNext  : AL Nat Nat := []
  /-- Control-tree combinations at a steward: who has contributed and the combined mask: R352 (12); reset empty (log 2) -/
  control     : AL ControlKind (List Nat × BitVec 32) := []
  /-- Open rollout batch: R105 (04); reset none (log 2) -/
  batch       : Option RBatch := none
  /-- Dispatched rollout batches, in order: R105 (04); reset empty (log 2) -/
  batches     : List RBatch := []
  /-- Batches dispatched while the context is pre-empted, in order, until it resumes: R105 (04); reset empty (log 2) -/
  lateBatches : List RBatch := []
  /-- Durations of the last 64 committed steps, newest first: R253 (09); reset empty (log 2) -/
  durations   : List Nat := []
  /-- Arbitrations and rollbacks of each of the last 1,000 steps: R253 (09); reset empty (log 2) -/
  disturb     : List Nat := []
  /-- Replay counts of the last committed step, QNT_REPLAY_c: 32; R466 (16); reset 0 (R466) -/
  qntReplay   : BitVec 32 := 0
  /-- Takeover records held for the buddy: R278 (10); reset empty (log 2) -/
  takeovers   : List TakeoverRec := []
  /-- The buddy's program image and translation tables held for it: R278 (10); reset none (log 2) -/
  buddyImage  : Option Program := none
  /-- The module a planned swap replaces and the step after whose commit admission stops: R282 (10); reset none (log 2) -/
  swapAfter   : Option (Nat × Nat) := none
  /-- Health as declared: lost and suspect modules: R274 (10); reset empty (log 2) -/
  lostMods    : List Nat := []
  suspects    : List Nat := []
  /-- Extensions granted to a peer: R273 (10); reset empty (log 2) -/
  extensions  : AL Nat Nat := []
  /-- Peers a transfer of this module has timed out on, with the extensions given: R273 (10); reset empty (log 2) -/
  waitsOn     : AL Nat Nat := []
  /-- CRC lists held for the committed version's slots: R163, R245, R279 (06, 09, 10); reset none (log 2) -/
  commLists   : Option CopyLists := none
  /-- Probes this steward has outstanding, with the paths that have not answered: R273 (10); reset empty (log 2) -/
  probes      : AL Nat (List Nat) := []
  /-- The rollback is held until a spare is admitted (NO_SPARE): R281 (10); reset false (log 2) -/
  waitSpare   : Bool := false
  /-- Shipments to a referee module whose copy references are held: step, entry, own shard, version referred to; R150, R246 (06, 09); reset empty (log 2) -/
  shipped     : List (Nat × Nat × Bool × Nat) := []
  /-- Copies to a spare under way, with their references: identity copied, version; R150, R279, R282 (06, 10); reset none (log 2) -/
  spareCopy   : Option (Nat × Nat) := none
  /-- Identities waiting to be taken over, with the spare ordered to: 12 each; R279, R281 (10); reset empty (log 2) -/
  takeoverOf  : AL Nat (Option Nat) := []
  /-- Clearing id the takeover order named: 12; R279, R342 (10, 12); reset DESIGN CHOICE 0 (log 2) -/
  takeoverClr : Nat := 0
  deriving DecidableEq, Repr

/-- A progress record (R373, R474). -/
structure Progress where
  modNo     : Nat
  gen       : Nat
  count     : Nat
  time      : Nat
  committed : Nat
  prov      : Nat
  wait      : Nat
  status    : Nat
  cons0     : Nat
  cons1     : Nat
  deriving DecidableEq, Repr

/-- A ring set (R359). -/
structure RingSet where
  /-- Step ring (kind 0): one submission ring; R359 (13); reset empty (log 2) -/
  step      : SubSt := {}
  /-- Service ring (kind 1): one submission ring; R359 (13); reset empty (log 2) -/
  service   : SubSt := {}
  /-- Step completion ring (kind 2): entries of 32 bytes; R359, R370 (13); reset empty (log 2) -/
  cpl2      : WRing Completion := {}
  /-- Service completion ring (kind 3): entries of 32 bytes; R359, R370 (13); reset empty (log 2) -/
  cpl3      : WRing Completion := {}
  /-- Record ring (kind 4): entries of 65,536 bytes; R214, R359 (08, 13); reset empty (log 2) -/
  recs      : WRing KiythPart := {}
  /-- Event ring (kind 5): entries of 1,024 bytes; R359, R375 (13); reset empty (log 2) -/
  evs       : WRing Event := {}
  /-- Replay record ring (kind 6): entries of 65,536 bytes; R223, R359 (08, 13); reset empty (log 2) -/
  reps      : WRing KiythPart := {}
  /-- Events dropped beyond the queue of 1,024: count; R375 (13); reset DESIGN CHOICE 0 (log 2) -/
  evLost    : Nat := 0
  /-- Consumer values beyond the entries written, by ring kind with the last such value: count; R364 (13); reset empty (log 2) -/
  badCons   : AL Nat (List Nat) := []
  /-- COUNT of the progress record: 64; R373, R474 (13, 17); reset DESIGN CHOICE 0 (log 2) -/
  progCount : Nat := 0
  /-- Last progress record written: 64 bytes; R373, R474 (13, 17); reset none (log 2) -/
  progress  : Option Progress := none
  /-- Ports its rings moved to at a failover, by kind, until a RING commit returns them: 1 each; R376, R377 (13); reset empty (log 2) -/
  movedTo   : AL Nat HostPort := []
  deriving DecidableEq, Repr

/-! ## Set-up registers (R448–R459) -/

/-- The control of one bank of staged registers (R452, R453). -/
structure BankCtl where
  /-- BSTAT.STATE: 2; R452 (16); reset 0 (R452) -/
  state      : Nat := 0
  /-- BSTAT.SUPERSEDED: 1; R452 (16); reset 0 (R452) -/
  superseded : Bool := false
  /-- BSTAT.TAG: 16; R452 (16); reset 0 (R452) -/
  tag        : Nat := 0
  /-- BFAULT.OFFSET: 20; R452 (16); reset 0 (R452) -/
  fault      : Nat := 0
  /-- Pending snapshot and the units it has still to apply: register values; R453 (16); reset none (R459) -/
  pending    : Option (AL Nat Word × List Nat) := none
  /-- The pending commit was given after a profile selection that waits: 1; R455 (16); reset false (R459) -/
  afterSel   : Bool := false
  deriving DecidableEq, Repr

/-- The set-up registers. A staged register that is not listed has the value its reset gives it. -/
structure Regs where
  /-- Active values of the staged registers, by BAR0 address: 32 each; R451, R461 (16); reset by each register's table (R459) -/
  active   : AL Nat Word := []
  /-- Staging copies, by BAR0 address: 32 each; R451 (16); reset equal to the active values (R459) -/
  staged   : AL Nat Word := []
  /-- Control registers of each bank: R452, R456 (16); reset 0 (R452) -/
  banks    : AL Bank BankCtl := []
  /-- HUB_REG_ERR.PARTIAL: 16; R462 (16); reset 0 (R462) -/
  partials : Nat := 0
  /-- HUB_REG_ERR.MSS_DROP: 16; R462 (16); reset 0 (R462) -/
  mssDrops : Nat := 0
  /-- MSS_ writes the hub holds while the mailbox is full: at most 16; R458 (16); reset empty (log 2) -/
  mssHeld  : List (Nat × Word) := []
  deriving DecidableEq, Repr

/-! ## The hub: time, resets, power, clocks, BIST -/

/-- A reset domain (R264, R265). -/
structure DomSt where
  /-- Resets the domain itself has entered: 8; with its outer domains' it makes the generation; R265, R268 (10); reset 0 (R268) -/
  gen     : BitVec 8 := 0
  /-- Hub time the generation last advanced: µs; R267 (10); reset none (log 2) -/
  lastAt  : Option Nat := none
  /-- Hub time the domain last left reset: µs; R269 (10); reset none (log 2) -/
  outAt   : Option Nat := none
  /-- The domain is in reset: 1; R264 (10); reset false (log 2) -/
  inReset : Bool := false
  /-- A reset requested within 1 ms of the last: held in reset; R267 (10); reset false (log 2) -/
  held    : Bool := false
  deriving DecidableEq, Repr

/-- Sources of a log entry (R392). -/
inductive LogSource
  | signature | declaration | event | governor | update | security
  deriving DecidableEq, Repr

/-- An entry of the MSS log (R392). -/
structure LogEntry where
  cold     : Nat
  time     : Nat
  source   : LogSource
  severity : Severity
  status   : Status
  detail   : List Nat
  sig      : Option Signature
  deriving DecidableEq, Repr

/-- A message in the MSS mailbox (R20, R22, R458): a command or a reply of either side; a register write; an entry for the MSS log;
one more occurrence of the signature record numbered `n` since cold reset `cold` (R263); a map-out, the release of a core or the
replacement of a worn unit (R286) that the MSS commands. -/
inductive MboxMsg
  | plain (m : MailMsg)
  | regWrite (addr : Nat) (v : Word)
  | logEntry (e : LogEntry)
  | bump (cold n : Nat)
  | mapOut (d : Die) (ch : Nat)
  | releaseCore (core : CoreId)
  | worn (u : WearUnit)
  deriving DecidableEq, Repr

/-- The lane groups of one trellis link (R421, R422). -/
structure TrellisSt where
  /-- Spares used in each lane group: 2 per group; R421 (15); reset empty (log 2) -/
  used : AL Nat Nat := []
  /-- Runs at half width: 1; R422 (15); reset false (log 2) -/
  half : Bool := false
  /-- Link lost: 1; R422 (15); reset false (log 2) -/
  lost : Bool := false
  deriving DecidableEq, Repr

/-- The logic-BIST registers and run (R438, R439). -/
structure BistSt where
  /-- HUB_BIST_CTL.DIES: 7; R438 (15); reset 0 (R438) -/
  dies    : Nat := 0
  /-- HUB_BIST_CTL.CLOCK: 5; R438 (15); reset 28 (R438) -/
  clock   : Nat := 28
  /-- HUB_BIST_CTL.VDD_MV: 10; R438 (15); reset 750 (R438) -/
  vdd     : Nat := 750
  /-- HUB_BIST_STATUS.DONE: 7; R438 (15); reset 0 (R438) -/
  done    : Nat := 0
  /-- HUB_BIST_STATUS.PASS: 7; R438 (15); reset 0 (R438) -/
  pass    : Nat := 0
  /-- HUB_BIST_STATUS.RUNNING: 1; R438 (15); reset 0 (R438) -/
  running : Bool := false
  /-- Dies, clock and supply of the run: as HUB_BIST_CTL held them at its GO; R438, R439 (15); reset 0 (log 2) -/
  run     : Nat × Nat × Nat := (0, 0, 0)
  /-- HUB_BIST_STATUS.CAUSE: 3; R438 (15); reset 0 (R438) -/
  cause   : Nat := 0
  /-- HUB_BIST_MISR_LO/HI_d: seven of 64; R438 (15); reset 0 (R438) -/
  misr    : List (BitVec 64) := [0, 0, 0, 0, 0, 0, 0]
  deriving DecidableEq, Repr

/-- What runs of a start (R428, R429). -/
inductive Starting
  | none | full | short
  deriving DecidableEq, Repr

/-- The hub die. -/
structure Hub where
  /-- Hub 1 µs timer, HUB_TIME: 64; R462 (16); reset 0 (R462) -/
  timeUs     : Nat := 0
  /-- Latched HUB_TIME_HI: 32; R462 (16); reset 0 (R462) -/
  timeHi     : Word := 0
  /-- Draws of free values so far: the model's own field, not the manual's; reset DESIGN CHOICE 0 (log 3) -/
  freeCtr    : Nat := 0
  /-- Reset domains: generation and reset state each; R264–R267 (10); reset generation 0 (R268) -/
  domains    : AL Domain DomSt := []
  /-- Module generation after the last cold reset, kept in secure flash: 8; R268, R404 (10, 14); reset DESIGN CHOICE 0 (log 2) -/
  coldGen    : BitVec 8 := 0
  /-- Cold-reset count: count; R392, R413 (14); reset DESIGN CHOICE 0 (log 2) -/
  coldCount  : Nat := 0
  /-- PWR_STATE_CTL.STATE: 3; R432 (15); reset 5 (R432) -/
  power      : PowerState := .waking
  /-- PWR_STATE_CTL.TARGET: 2; R432 (15); reset 0 (R432) -/
  target     : Nat := 0
  /-- State a transition under way leads to: 2; R431, R432 (15); reset 0, Ready (R428) -/
  goingTo    : Nat := 0
  /-- A wake is to follow the entry in progress: 1; R432, coinciding events (15); reset false (log 2) -/
  wakeNext   : Bool := false
  /-- PWR_STATE_CTL.REFUSED: 1; R432 (15); reset 0 (R432) -/
  refused    : Bool := false
  /-- Start sequence running: 2; R428, R429 (15); reset full (a cold start, R428) -/
  starting   : Starting := .full
  /-- The module has reached Ready since the cold start: 1; R427 (15); reset false (R427) -/
  firstReady : Bool := false
  /-- A start failed for good (STARTUP_FAILED) or no firmware slot passed (FW_NONE): 1; R406, R430 (14, 15); reset false (log 2) -/
  dead       : Bool := false
  /-- No firmware slot passed: recovery: 1; R406 (14); reset false (log 2) -/
  recovery   : Bool := false
  /-- PROFILE_SEL[1:0] as sampled: 2; R395, R428 (14, 15); reset 0 (open pins pull down, R446) -/
  profileSel : Fin 4 := 0
  /-- MOD_RESET_N asserted: 1; R426, R446 (15); reset false: right after its release -/
  modReset   : Bool := false
  /-- Main power present: 1; R426 (15); reset true (DESIGN CHOICE, log 2) -/
  mainPower  : Bool := true
  /-- REFCLK_100 present: 1; R425 (15); reset true (R423 requires it before release) -/
  refclk     : Bool := true
  /-- PLLs whose clock is stopped: set; R425 (15); reset empty (log 2) -/
  pllsDown   : List Pll := []
  /-- Trellis links: R421, R422 (15); reset no spare used (log 2) -/
  trellis    : AL TrellisLink TrellisSt := []
  /-- Logic BIST: R438 (15); reset R438 -/
  bist       : BistSt := {}
  /-- Hub times of compute-die resets by faults: within 10 s; R264 (10); reset empty (log 2) -/
  dieResets  : List Nat := []
  /-- Hub times of command-processor resets: within 10 s; R270 (10); reset empty (log 2) -/
  cpResets   : List Nat := []
  /-- Hub times of MSS resets: within 60 s; R269 (10); reset empty (log 2) -/
  mssResets  : List Nat := []
  /-- The module is lost by its MSS (MSS_FAILED): 1; R269 (10); reset false (log 2) -/
  mssLost    : Bool := false
  /-- Mailbox to the MSS: at most 64; R22 (01); reset empty (log 2) -/
  toMss      : List MboxMsg := []
  /-- Mailbox from the MSS: at most 64; R22 (01); reset empty (log 2) -/
  fromMss    : List MboxMsg := []
  /-- Posts that wait for room in the mailbox to the MSS and from it: R22 (01); reset empty (log 2) -/
  postWait   : List (Bool × MboxMsg) := []
  /-- The last message the MSS took, and the last the command processor took: R22 (01); reset none (log 2) -/
  mssTook    : Option Nat := none
  cpTook     : Option Nat := none
  /-- Worn laser channels and ports that wait for a step boundary: R286 (10); reset empty (log 2) -/
  eolDue     : List WearUnit := []
  /-- Units at end of life without a spare, reported: R286 (10); reset empty (log 2) -/
  eolTold    : List WearUnit := []
  /-- Failure signatures emitted, newest first, by context and step (or second, outside a step): R263 (09); reset empty (log 2) -/
  sigs       : List ((Option CtxId × Nat) × Signature) := []
  /-- Signature records emitted since the last cold reset: count; R488 (09); reset 0 (R488: numbers start at 1) -/
  sigCount   : Nat := 0
  /-- Waiting for every junction and stack to cool after a thermal trip: 1; R403 (14); reset false (log 2) -/
  tripped    : Bool := false
  deriving DecidableEq, Repr

/-! ## Host ports and the window -/

/-- A write to host memory in flight: its ring set and kind (or 7 for a deferred or metric write), index, and context (R376). -/
structure HostWrite where
  set   : Nat
  kind  : Nat
  index : Nat
  step  : Nat
  deriving DecidableEq, Repr

/-- A CXL host port (R354–R357, R463). -/
structure CxlPort where
  /-- UP: 1; R463 (16); reset 0 (R463) -/
  up      : Bool := false
  /-- WIDTH: 4; R463 (16); reset 0 (R463) -/
  width   : Nat := 0
  /-- Trained rate in GT/s, shown as RATE: 1; R355, R463 (13, 16); reset 0 (R463) -/
  rate    : Nat := 0
  /-- ATS_EN: 1; R463 (16); reset 0 (R463) -/
  ats     : Bool := false
  /-- PASID_EN: 1; R463 (16); reset 0 (R463) -/
  pasid   : Bool := false
  /-- PRI_EN: 1; R463 (16); reset 0 (R463) -/
  pri     : Bool := false
  /-- PERST pin asserted: 1; R463 (16); reset 1 (R463) -/
  perst   : Bool := true
  /-- The port has been usable and was lost, its rings not yet moved: 1; R376 (13); reset false (log 2) -/
  lost    : Bool := false
  /-- Writes issued without a completion or global observation, oldest first: R376 (13); reset empty (log 2) -/
  inflight : List HostWrite := []
  /-- Address translation cache, PASIDs and pages held, newest first: at most 8,192; R357 (13); reset empty (log 2) -/
  atc     : List (Option Nat × Nat) := []
  deriving DecidableEq, Repr

/-- State of a window page (R386). -/
inductive WinPage
  | unmapped
  | staging (c : CtxId) (dvaPage : Nat)
  | exported (c : CtxId) (block : Nat)
  deriving DecidableEq, Repr

/-- The host ports, page requests and the window. -/
structure Cxl where
  /-- Port A: R463 (16); reset R463 -/
  a        : CxlPort := {}
  /-- Port B: R463 (16); reset R463 -/
  b        : CxlPort := {}
  /-- Hub time since which both ports are unusable: µs; R377 (13); reset none (log 2) -/
  bothDown : Option Nat := none
  /-- Outstanding page requests: list; R378–R381 (13); reset empty (log 2) -/
  pris     : AL Nat PageReq := []
  /-- Number of the next page request: count; R378 (13); reset DESIGN CHOICE 0 (log 2) -/
  nextPri  : Nat := 0
  /-- Window pages: 32,768 of 3 states; R386 (13); reset Unmapped (R386) -/
  window   : AL Nat WinPage := []
  /-- Snoop filter, oldest first: at most 65,536 lines with their port; R387 (13); reset empty (log 2) -/
  filter   : List (Nat × HostPort) := []
  /-- Lines whose back-invalidate response is awaited: list; R387 (13); reset empty (log 2) -/
  snooping : List Nat := []
  /-- Pages leaving the staging or export state once their lines are back-invalidated: list; R387 (13); reset empty (log 2) -/
  leaving  : List Nat := []
  /-- Descriptors whose work ends when window pages have left: context, ring index, pages; R370, R387 (13); reset empty (log 2) -/
  waitUnmap : List (CtxId × BitVec 32 × List Nat) := []
  /-- Refused window accesses: count; R386 (13); reset DESIGN CHOICE 0 (log 2) -/
  denied   : Nat := 0
  /-- Hub time of the last WINDOW_ACCESS_DENIED: µs; R386 (13); reset none (log 2) -/
  deniedAt : Option Nat := none
  /-- Value and poison of the last window read answered: 64 bytes; R386 (13); reset none (log 2) -/
  lastRead : Option (Nat × Option (List Byte)) := none
  deriving DecidableEq, Repr

/-! ## HBM, the shared cache and the regulators -/

/-- A pseudo-channel: its die and its number 0–159 on the die (R167). -/
abbrev Chan := Nat × Nat

/-- An entry of the channel map (R172). -/
structure ChEntry where
  die   : Nat
  ch    : Nat
  moved : Bool
  deriving DecidableEq, Repr

/-- A map-out running (R188, R189): the logical channel, the replacement, whether the old channel is readable. -/
structure MapOut where
  die      : Nat
  logical  : Nat
  target   : Chan
  readable : Bool
  copied   : Bool
  deriving DecidableEq, Repr

/-- A reduction target in the shared cache (R191, R192, R206): the step and the tensor instance whose operations write it,
its width in bytes. -/
structure RedTarget where
  ctx    : CtxId
  step   : Nat
  tensor : Nat
  inst   : Nat
  width  : Nat
  before : Nat                             -- the target's value before the instance's first write
  deriving DecidableEq, Repr

/-- The memory system of the module. -/
structure Mem where
  /-- HBM contents by DPA, a canonical list: 41-bit addresses, bytes; R168–R171 (07); reset 0 (zeroed at start, R428; log 4) -/
  hbm        : List Host.Cell := []
  /-- Channel map: 4 × 160 entries; R172, R464 (07, 16); reset CHANNEL i, DIE d, MOVED 0 (R464) -/
  chmap      : AL Chan ChEntry := []
  /-- Hard-fault granules by physical channel: R188 (07); reset empty (log 2) -/
  hardFaults : AL Chan (List Nat) := []
  /-- Channels at their trigger with AUTO 0, and whether they read: R188, R189 (07); reset empty (log 2) -/
  atTrigger  : AL Chan Bool := []
  /-- Map-outs running: R188 (07); reset empty (log 2) -/
  mapouts    : List MapOut := []
  /-- Physical channels fenced: R188 (07); reset empty (log 2) -/
  fenced     : List Chan := []
  /-- Channels in margining: R193 (07); reset empty (log 2) -/
  margining  : List Chan := []
  /-- Results of margining by channel: R194 (07); reset empty (log 2) -/
  margins    : AL Chan Margins := []
  /-- Parity errors by physical channel: count; R180, R283 (07, 10); reset DESIGN CHOICE 0 (log 2) -/
  parity     : AL Chan Nat := []
  /-- Parity errors by cache bank (die and bank): count; R180 (07); reset DESIGN CHOICE 0 (log 2) -/
  cacheErrs  : AL (Nat × Nat) Nat := []
  /-- Parity errors by scratchpad bank (core and bank): count; R180 (07), R121 (05); reset DESIGN CHOICE 0 (log 2) -/
  spadErrs   : AL (CoreId × Nat) Nat := []
  /-- Uncorrected severity reports of the stacks by physical channel: count; R168, R169 (07); reset DESIGN CHOICE 0 (log 2) -/
  reports    : AL Chan Nat := []
  /-- Corrected severity reports by physical channel since its last wear sample: count; R168 (07), R283 (10); reset DESIGN CHOICE 0 (log 2) -/
  corrected  : AL Chan Nat := []
  /-- Words in doubt that no read has met yet, with their physical channel: R168, R180 (07); reset empty (log 2) -/
  upsets     : List (Chan × WordFault) := []
  /-- Lanes that spare lanes replace, by physical channel: R168, R194 (07); reset empty (log 2) -/
  lanes      : AL Chan (List Nat) := []
  /-- Parity repairs waiting: the location, and whether the second copy has been tried; R180–R183 (07); reset empty (log 2) -/
  repairs    : List (Loc × Bool) := []
  /-- Refetches a patrol scrub began, whose signatures belong to no step; R184 (07), R263 (09); reset empty (log 2) -/
  scrubs     : List Loc := []
  /-- Patrol scrub position: channel per die; R184 (07); reset DESIGN CHOICE 0 (log 2) -/
  scrubPos   : AL Nat Nat := []
  /-- Bytes served in the last 1 µs window: by die and partition; R177–R179 (07); reset empty (log 2) -/
  served     : AL (Nat × Nat) Nat := []
  /-- Requests that wait for a regulator: die, partition (7: repair traffic, R177) and bytes, oldest first; R177, R178 (07); reset empty (log 2) -/
  waiting    : List (Nat × Nat × Nat) := []
  /-- Result of the last returning cache operation: 64; R191 (07); reset none (log 2) -/
  lastAtomic : Option (BitVec 64) := none
  /-- Dirty shared-cache lines lost and not yet rebuilt: R192 (07); reset empty (log 2) -/
  cacheLost  : List Nat := []
  /-- Reduction targets written and not yet committed, by DPA: R192, R206 (07, 08); reset empty (log 2) -/
  targets    : AL Nat RedTarget := []
  deriving DecidableEq, Repr

/-! ## Cores -/

/-- Where a core stands (R19, R243, R244, R256, R259). -/
inductive CoreStatus
  | spare | active | fenced | testing | conditional
  deriving DecidableEq, Repr

/-- Where a failed check lies: the output tensor, tile coordinates or failing row and column, load pattern (R261). -/
structure Place where
  tensor  : Nat := 0
  inst    : Nat := 0
  row     : Nat := 0
  col     : Nat := 0
  tile    : Nat := 0
  pattern : Nat := 0
  vxOp    : Option VxOp := none           -- the instruction of a checker-lane mismatch (R114)
  op      : Option Nat := none            -- the output tensor of the failing operation, where it is not `tensor` (R237)
  group   : Nat := 0                      -- its lane group g (R113, R114)
  deriving DecidableEq, Repr

/-- A scratchpad block (R121, R123). -/
structure SpadBlock where
  tag     : BitVec 16
  tagOk   : Bool                          -- the tag's parity is good
  dataOk  : Bool                          -- every word's parity is good
  whole   : Bool                          -- its last word is written: no unit reads a partly written block (R122)
  ident   : BlockIdent                    -- identity the block was written under
  version : Version                       -- version it was written under (R124)
  writer  : Option (CtxId × Nat)          -- context and step it was written in, until its release (R126)
  bytes   : List Byte
  halves  : List (Fin 2)                  -- vectors of it written since its writing began (R121, R122)
  source  : Option CoreId                 -- the core whose DMA wrote what it was filled from (R237)
  badWord : Nat := 0                      -- the word that fails parity, where one does (R180, R262)
  deriving DecidableEq, Repr

/-- An output accumulator of a pass (R35, R38, R42): an exact sum in units of the pairing, a class, or an FP32 sum. A NaN
is marked invalid where no input of it is a NaN (R111). -/
inductive Acc
  | int (v : Int)
  | nan (invalid : Bool)
  | inf (neg : Bool)
  | f32 (w : BitVec 32)
  deriving DecidableEq, Repr

/-- Partial accumulators of an output block with their row and column sums, as its slots hold them (R89, R96). -/
structure Partial where
  acc    : List (List Acc) := []
  rowSum : List Int := []
  colSum : List Int := []
  deriving DecidableEq, Repr

/-- A pass whose operands have been read (R88): its step (0 outside one), the tile and the rows as element codes, the stored
inputs of a fused drain in FP32 (R141), the records of its operands. -/
structure Pass extends PassOrder where
  step    : Nat
  tile    : List (List Nat)                      -- tile[k][n]
  rows    : List (List Nat)                      -- rows[m][k]
  z       : List (List (BitVec 32))
  u       : List (List (BitVec 32))
  rowRec  : ScaleRec
  tileRec : ScaleRec
  src     : List (List Nat)                      -- the tile as its blocks hold it, before the turn path (R233)
  deriving DecidableEq, Repr

/-- The rake's accumulators (R115): a value with an argmax's index, an exact sum with the sum of its inputs of which the check takes the
residue (R117), whether it holds a marker, a range, the flags of its FP32 sums (R112). -/
structure RakeAcc where
  val    : Option (XV × Nat) := none
  exact  : Int := 0
  right  : Int := 0
  flags  : Flags := {}
  marker : Bool := false
  range  : Measure := {}
  deriving DecidableEq, Repr

/-- The output of a correct recomputation, put in place of a failed tile's where R237 row B says so: scratchpad blocks with
the output tiles of the step; the rake's accumulators and last result; the scan unit's output; chunk sums in the shared cache; or
the operation itself, where its primary produced no output: a pass outstanding, a pass that was running, a vector operation, what forms
a block of accumulators. -/
inductive Fix
  | none
  | todo (o : PassOrder) (broadcast : Bool)
  | run (p : Pass)
  | vec (v : VecTile)
  | replay (r : BlockRef)
  | cache (dpa : Nat) (bytes : List Byte)
  | blocks (bs : List (Fin 2048 × SpadBlock)) (tiles : AL (Nat × Nat × Nat × Nat) (List (List Nat)))
  | rake (acc : RakeAcc) (out : Option (XV × Int × Nat)) (bs : List (Fin 2048 × SpadBlock))
  | scan (out : List Int) (bs : List (Fin 2048 × SpadBlock))
  deriving DecidableEq, Repr

/-- An arbitration outstanding against a core (R237, R238). -/
structure Arb where
  kind    : Nat                           -- KIND of R262
  fix     : Fix
  expected : Nat                          -- EXPECTED and OBSERVED of R262
  observed : Nat
  unit    : CheckUnit
  status  : Status
  ctx     : CtxId
  step    : Nat
  attempt : Nat
  place   : Place
  referee : Option CoreId
  equal   : Bool                          -- the primary's output is what a correct recomputation gives (R237); false without one (R271)
  scan    : Bool                          -- a scan operation, whose referee is scan-capable (R235)
  writer  : Option CoreId                 -- the core whose DMA wrote the source block of a tag failure (R237)
  atSource : Bool                         -- the tag read is the source's own (R134)
  deriving DecidableEq, Repr

/-- A tile stalled on a scale record (R67, R100): its context and step, the tensor and index, the version its block carries. -/
structure Stall where
  ctx     : CtxId
  step    : Nat
  tensor  : Nat
  inst    : Nat
  version : Version
  deriving DecidableEq, Repr

/-- The MX array (R88, R91, R97). -/
structure MxSt where
  /-- Passes whose rows run, oldest first: list; R88, R91 (04); reset empty (log 2) -/
  running : List Pass := []
  /-- Broadcast mode: 1; R97 (04); reset false (DESIGN CHOICE, log 2) -/
  broadcast : Bool := false
  /-- Last completed pass's outputs: rows of FP32 or codes; R39, R92 (02, 04); reset empty (log 2) -/
  out     : List (List Nat) := []
  /-- The next pass stalled on a record: R67, R100 (03, 04); reset none (log 2) -/
  stalled : Option Stall := none
  deriving DecidableEq, Repr

/-- A condition of a full-mode test (R255): the junction target in °C, where the temperature is swept, the die's supply in mV and
clock in MHz, whether both are its operating point. -/
structure TestCond where
  temp : Option Int
  mv   : Nat
  mhz  : Nat
  atOp : Bool
  deriving DecidableEq, Repr

/-- The field test of one core (R254–R258). -/
structure CoreTest where
  cases    : Nat
  done     : Nat
  fails    : List (Nat × Nat × Bool)       -- temperature, load-pattern hash, off the operating point
  low      : Nat                           -- lowest temperature tested so far
  grafted  : Bool                          -- a spare took its place (R256)
  full     : Bool
  conds    : List TestCond                -- the sweep of a full-mode test, in order (R255)
  shapes   : Bool                         -- random pass shapes (R255, R472)
  ref      : Option CoreId                -- the reference core of its next case (R254)
  deriving DecidableEq, Repr

/-- A core (R16, R121, R239). -/
structure CoreSt where
  /-- Status: 5 values; R19, R244 (01, 09); reset spare: no active set before Ready (R465) -/
  status    : CoreStatus := .spare
  /-- Acceptance test passed: 1; R243 (09); reset false (log 2) -/
  accepted  : Bool := false
  /-- Its acceptance test runs: 1; R243 (09); reset false (log 2) -/
  accepting : Bool := false
  /-- Reference core of its acceptance test: R243 (09); reset none (log 2) -/
  acceptRef : Option CoreId := none
  /-- Unexpired strikes, each with the op count it was given at: list; R239, R240 (09); reset none (R244: cold reset clears) -/
  strikes   : List (Nat × Bool) := []
  /-- A strike has been given and not yet judged: R240, R242 (09); reset false, and false between commands (log 2) -/
  struck    : Bool := false
  /-- Tile operations executed: count; R239 (09); reset DESIGN CHOICE 0 (log 2) -/
  ops       : Nat := 0
  /-- Checker-lane counter g: modulo 16; R113 (05); reset 0 (R113: 0 at a step's start) -/
  laneCtr   : Nat := 0
  /-- Arbitrations outstanding: list; R235, R238 (09); reset empty (log 2) -/
  arbs      : List Arb := []
  /-- Conditional use: junction limit or load-pattern hash; R258 (09); reset none (log 2) -/
  condTemp  : Option Nat := none
  condShape : Option Nat := none
  /-- MX array: R88 (04); reset idle (log 2) -/
  mx        : MxSt := {}
  /-- Passes of the placement not yet begun here, with their step: list; R489 (04); reset empty (log 2) -/
  todo      : List (Nat × PassOrder) := []
  /-- Passes begun here of output blocks not yet drained, newest first, with their step: list; R89, R102 (04); reset empty (log 2) -/
  begun     : List (Nat × PassOrder) := []
  /-- Rake accumulators: value, index, exact sum, range counters; R78, R115 (03, 05); reset empty (log 2) -/
  rake      : RakeAcc := {}
  /-- Context and step of the reduction the rake accumulates: R115, R250 (05, 09); reset none (log 2) -/
  rakeOf    : Option (CtxId × Nat) := none
  /-- Rake output of the last reduction completed: R115 (05); reset none (log 2) -/
  rakeOut   : Option (XV × Int × Nat) := none
  /-- Scan unit output: keys, ranks or prefixes; R119 (05); reset empty (log 2) -/
  scanOut   : List Int := []
  /-- Scan unit chunk carry: R119 (05); reset DESIGN CHOICE 0 (log 2) -/
  scanSum   : Int := 0
  /-- Scratchpad blocks: 2,048 of 2 KiB; R121, R123 (05); reset empty (memory BIST leaves no block in use; log 2) -/
  blocks    : AL (Fin 2048) SpadBlock := []
  /-- Vector, rake or scan operation stalled on a record: R67, R125 (03, 05); reset none (log 2) -/
  stalled   : Option Stall := none
  /-- Field test running on it: R254–R258 (09); reset none (log 2) -/
  test      : Option CoreTest := none
  /-- Passed every case of its last full-mode field test: 1; R244 (09); reset false (log 2) -/
  passedFull : Bool := false
  /-- The core waits for the graft that replaces it: 1; R243 (09); reset false (log 2) -/
  toGraft   : Bool := false
  deriving DecidableEq, Repr

/-- A field test of the module (R251, R256). -/
structure FieldTest where
  ctx       : CtxId
  index     : Option (BitVec 32)           -- ring index of the descriptor; none for an automatic test
  full      : Bool
  cases     : Nat
  seed      : Nat
  todo      : List CoreId
  failed    : Nat
  deriving DecidableEq, Repr

/-- The cores of the module and their testing. -/
structure Cores where
  /-- Step boundary: no pass has begun since the last commit: 1; R19 (01); reset false (DESIGN CHOICE, log 111) -/
  boundary  : Bool := false
  /-- Cores: 4 × 72; R8, R16, R19 (00, 01); reset as CoreSt -/
  tbl       : AL CoreId CoreSt := []
  /-- Save areas, by context: the core state of its cores while saved; R101, R385 (04, 13); reset empty (log 2) -/
  saved     : AL CtxId (AL CoreId CoreSt) := []
  /-- Pruned and rejected list in secure flash: R244, R404 (09, 14); reset empty (DESIGN CHOICE, log 2) -/
  pruned    : List CoreId := []
  /-- Field test running: R251 (09); reset none (log 2) -/
  test      : Option FieldTest := none
  /-- Commits since the last automatic test ended, by context: R253 (09); reset empty (log 2) -/
  sinceTest : AL CtxId Nat := []
  deriving DecidableEq, Repr

/-! ## Links and routing -/

/-- A laser channel (R325). -/
inductive Laser
  | feeds (p : PortId) | spare | failed
  deriving DecidableEq, Repr

/-- Why a packet or flit was dropped without a status: rows 2, 8, 9 and 10 of R345, a flit of no lane (R329), 64 ms in a queue
(R267). -/
inductive SilentDrop
  | generation | epoch | reply | engine | lane | age
  deriving DecidableEq, Repr

/-- A fabric port (R326–R336, R467). -/
structure PortSt where
  /-- STATE: 3; R332, R467 (12, 16); reset 0 (R467) -/
  state    : Nat := 0
  /-- LASER: 5, none for the wiring default n mod 20; R325, R467 (12, 16); reset n mod 20 (R467) -/
  laser    : Option Nat := none
  /-- The laser is lit: 1; R325 (12); reset false (R332: DOWN until the domain leaves reset) -/
  lit      : Bool := false
  /-- DETOUR: 1; R340, R467 (12, 16); reset 0 (R467) -/
  detour   : Bool := false
  /-- ATTEMPTS: 2; R332, R467 (12, 16); reset 0 (R467) -/
  attempts : Nat := 0
  /-- PEER: 12; R467 (16); reset 0 (R467) -/
  peer     : Nat := 0
  /-- Peer's last beacon: 64 bytes; R333 (12); reset none (log 2) -/
  beacon   : Option Beacon := none
  /-- Bring-up stage reached: 5; R332 (12); reset none (log 2) -/
  stage    : Option BringUpStage := none
  /-- Holding off 2 ms before the reset: 1; R332 (12); reset false (log 2) -/
  holdOff  : Bool := false
  /-- This end accepted the link (ACCEPT): 1; R333, R335 (12); reset false (log 2) -/
  accept   : Bool := false
  /-- SEQ of the next flit sent: 12; R326, R327 (12); reset DESIGN CHOICE 0 (log 2) -/
  txSeq    : Nat := 0
  /-- SEQ expected next from the far end: 12; R326, R327 (12); reset DESIGN CHOICE 0 (log 2) -/
  rxNext   : Nat := 0
  /-- Replay buffer: at most 2,048 flits; R327 (12); reset empty (log 2) -/
  replay   : List Flit := []
  /-- Replays of the oldest flit without success: count to 8; R327 (12); reset DESIGN CHOICE 0 (log 2) -/
  replays  : Nat := 0
  /-- A NAK is out and later flits are discarded: 1; R327 (12); reset false (log 2) -/
  nakked   : Bool := false
  /-- Flits received since the last flit sent: count; R327 (12); reset DESIGN CHOICE 0 (log 2) -/
  sinceIdle : Nat := 0
  /-- Credits by lane: 0–2,047; R329, R330 (12); reset the lane's initial credits (R329) -/
  credits  : AL Nat Nat := []
  /-- Drops by status code: count; R345 (12); reset empty (log 2) -/
  drops    : AL Status Nat := []
  /-- Drops without a status by reason: count; R267, R329, R345 (10, 12); reset empty (log 2) -/
  silent   : AL SilentDrop Nat := []
  /-- Port its traffic goes by while on a detour: R340 (12); reset none (log 2) -/
  detourBy : Option Nat := none
  /-- Credits to return, by lane: R330 (12); reset empty (log 2) -/
  owed     : AL Nat Nat := []
  /-- Lanes moved back to the direct link by markers: list; R340 (12); reset empty (log 2) -/
  markers  : List Nat := []
  /-- VL5 bytes sent in the present 1 µs window: count; R348 (12); reset DESIGN CHOICE 0 (log 2) -/
  vl5Sent  : Nat := 0
  /-- Transit packets waiting for the cap: list; R348 (12); reset empty (log 2) -/
  vl5Wait  : List PacketHdr := []
  /-- Packets received here that wait for a credit or a path out, with their lane: list; R330, R340 (12); reset empty (log 2) -/
  waiting  : List (Nat × PacketHdr) := []
  /-- Status last posted under R335: R335 (12); reset none (log 2) -/
  rowStatus : Option Status := none
  /-- Pre-FEC bit error ratio last reported, in 10^-12: R328 (12); reset DESIGN CHOICE 0 (log 2) -/
  ber      : Nat := 0
  deriving DecidableEq, Repr

/-- Where a received packet went (R345). -/
inductive PacketFate
  | deliver (c : Option CtxId) (type : Nat)
  | forward (port : Nat) (transit : Bool)
  | wait
  | drop
  deriving DecidableEq, Repr

/-- The fabric ports and the generation table. -/
structure Link where
  /-- Ports: 40; R323, R332 (12); reset as PortSt -/
  ports    : AL PortId PortSt := []
  /-- Laser channels by link die and number: 2 × 24; R325 (12); reset channel n feeds port n, 20–23 spare (R325) -/
  lasers   : AL (Nat × Nat) Laser := []
  /-- Generation table: 4,096 of 8; R337 (12); reset empty (R337) -/
  gens     : AL Nat (BitVec 8) := []
  /-- A port has reached ACTIVE since the last module reset: 1; R337 (12); reset false (log 2) -/
  announced : Bool := false
  /-- Packets received and where each went, newest first: R345 (12); reset empty (log 2) -/
  fates    : List (PacketHdr × PacketFate) := []
  /-- Hub time of the last drop notice by source and reason: µs; R345 (12); reset empty (log 2) -/
  noticeAt : AL (Nat × Status) Nat := []
  deriving DecidableEq, Repr

/-! ## Grove, sapling, wear -/

/-- A sapling's shadowing (R287–R291). -/
structure Sapling where
  ctx      : CtxId
  w        : ModNo
  version  : Nat                          -- version of its copy
  acr      : Nat
  needed   : Nat                          -- STEPS as its copy took it (R291)
  limit    : Nat                          -- MISMATCH_LIMIT as its copy took it
  equal    : Nat                          -- consecutive equal records
  mismatch : Nat                          -- mismatches it caused
  admitted : Bool
  reexec   : Option Nat                   -- step being re-executed
  first    : List Byte                    -- compared portion of its first record of that step (R290)
  theirs   : List Byte                    -- that of W's
  deriving DecidableEq, Repr

/-- A sapling as W and the steward see it (R287, R289): the two modules, the consecutive equal records counted, and how many
accept it; the mismatches counted against it and how many reject it (R290); whether it is to replace W (R295). -/
structure Shadow where
  sapling  : Nat
  w        : Nat
  equal    : Nat
  needed   : Nat
  mismatch : Nat
  limit    : Nat
  replaces : Bool
  deriving DecidableEq, Repr

/-- A declaration as received (R275). -/
structure Declared where
  ctx      : CtxId
  kind     : DeclKind
  issuer   : Nat
  seqNo    : Nat
  subject  : Nat
  physical : Nat
  gen      : BitVec 8
  level    : Nat
  deriving DecidableEq, Repr

/-- The module in its grove. -/
structure Grove where
  /-- Routing identity it answers for: 12; R279, R333 (10, 12); reset LINK_PLAN_SELF -/
  ident    : Option ModNo := none
  /-- A spare or a sapling, not a module of a job: 1; R274, R333 (10, 12); reset true: no job is loaded (log 32) -/
  spare    : Bool := true
  /-- Sapling state: R288 (10); reset none (log 2) -/
  sapling  : Option Sapling := none
  /-- Recovery sequence number last applied, by grove: 32; R275 (10); reset DESIGN CHOICE 0 (log 2) -/
  seqNos   : AL Nat Nat := []
  /-- Declarations that wait for their sequence number: list; R275 (10); reset empty (log 2) -/
  declWait : List Declared := []
  /-- It has left its job with a MODULE_SELF_FENCE and comes back as a sapling alone: R273 (10); reset false (log 2) -/
  retired  : Bool := false
  /-- Saplings of the grove with the module each shadows, with their context: R287, R288 (10); reset empty (log 2) -/
  shadows  : List (CtxId × Shadow) := []
  /-- Orders from an issuer who is not the steward, dropped: count; R275 (10); reset DESIGN CHOICE 0 (log 2) -/
  badOrders : Nat := 0
  /-- Commits at which each module was struck: list by module; R248 (09); reset empty (log 2) -/
  modStrikes : AL Nat (List Nat) := []
  /-- Steps this module has committed in any context, which its strikes are counted over: R248 (09); reset DESIGN CHOICE 0 (log 2) -/
  commits    : Nat := 0
  /-- Modules waiting for a planned swap: list; R248, R282 (09, 10); reset empty (log 2) -/
  swapWait : List Nat := []
  /-- Contract level common to the clearing, by context: 8; R293 (10); reset empty (log 2) -/
  levels   : AL CtxId Nat := []
  /-- Levels declared at admissions, by module: 8; R293 (10); reset empty (log 2) -/
  modLevel : AL (CtxId × Nat) Nat := []
  deriving DecidableEq, Repr

/-- A wear monitor (R283–R286). -/
structure WearSt where
  first   : Option Nat                    -- value at first power-on
  last    : Nat
  sum     : Nat                           -- running sum of the hour's samples
  count   : Nat
  hourly  : List (Nat × Nat × Nat)        -- hourly samples, newest first: hub time, their sum, their number
  told    : Bool                          -- prediction reported
  acted   : Bool                          -- the command processor has been told to act (R286)
  deriving DecidableEq, Repr

/-! ## Checkpoint stores -/

/-- A slot of the seedbank (R308, R309). -/
structure SeedSlot where
  ctx     : CtxId
  step    : Nat
  image   : ShardImage
  receipt : Receipt                       -- its commit block
  valid   : Bool
  deriving DecidableEq, Repr

/-- A stripe region this module holds for a writer (R310–R312): rows reserved and the two sets' units by row and unit. -/
structure StripeRegion where
  rows : AL Nat Nat                                -- rows reserved by set
  sets : AL (Nat × Nat × Nat) (List Byte × Bool)   -- set, row, unit; bytes, and whether parity is good
  deriving DecidableEq, Repr

/-- The checkpoint stores of the module (R308–R313). -/
structure Ckpt where
  /-- Seedbank slots, by number: SEED_SLOTS; R309 (11); reset empty (log 2) -/
  seed     : AL Nat SeedSlot := []
  /-- The seedbank port failed its initialisation: 1; R308 (11); reset false (log 2) -/
  seedBad  : Bool := false
  /-- Stripe regions held, by writer and its context: R310 (11); reset empty (log 2) -/
  stripes  : AL (Nat × Nat) StripeRegion := []
  /-- Blocks of a seedbank image received for a restore, by context: R319 (11); reset empty (log 2) -/
  blocks   : AL Nat (List (Nat × List Byte)) := []
  deriving DecidableEq, Repr

/-! ## Management -/

/-- A firmware slot (R404, R406). -/
structure FwSlot where
  bundle : Option Bundle
  valid  : Bool
  deriving DecidableEq, Repr

/-- The state of a PLDM firmware update (R407, R408). -/
inductive FwState
  | idle | learn | ready | download | verify | apply | activate
  deriving DecidableEq, Repr

/-- A PLDM update in progress (R407). -/
structure FwUpdate where
  state    : FwState := .idle
  passed   : List Nat := []
  comp     : Option Component := none
  size     : Nat := 0
  got      : Nat := 0
  staged   : Option Staged := none
  result   : Option Status := none
  applied  : List Component := []
  deriving DecidableEq, Repr

/-- An SPDM session (R412). -/
structure Session where
  path     : SpdmPath
  finished : Bool
  keyGen   : Nat
  deriving DecidableEq, Repr

/-- What a transport has agreed before a session (R412): version read, capabilities read, algorithms agreed. -/
structure SpdmConn where
  version : Bool := false
  caps    : Bool := false
  algs    : Bool := false
  deriving DecidableEq, Repr

/-- Security states (R417). -/
inductive SecState
  | secure | debug | test
  deriving DecidableEq, Repr

/-- A nonce of the debug exchange (R418). -/
structure Nonce where
  value     : Nat
  presented : Bool
  deriving DecidableEq, Repr

/-- A response the module gives on a management transport (R412–R414): a completion code (0 success) and its values. -/
structure Response where
  command : String
  code    : Nat
  status  : Option Status
  vals    : List Nat
  bytes   : List Byte
  names   : List String
  entries : List LogEntry
  deriving DecidableEq, Repr

/-- The management subsystem and the security block. -/
structure Mss where
  /-- MSS log, oldest first: 524,288 entries; R392 (14); reset empty (DESIGN CHOICE, log 2) -/
  log        : List LogEntry := []
  /-- Lost-entry count: 32; R392 (14); reset DESIGN CHOICE 0 (log 2) -/
  logLost    : BitVec 32 := 0
  /-- Latest sensor samples: R391 (14); reset empty (log 2) -/
  sensors    : AL Sensor Int := []
  /-- Profile slots: four; R393, R404 (14); reset empty (DESIGN CHOICE, log 2) -/
  profiles   : AL (Fin 4) Profile := []
  /-- MSS_PROFILE_CTL.ACTIVE: 2; R399 (14); reset from the pins (R399) -/
  activeSlot : Fin 4 := 0
  /-- Profile in use: R393, R395 (14); reset none: no slot holds a profile (log 2) -/
  profile    : Option Profile := none
  /-- MSS_PROFILE_CTL.SELECT: 2; R399 (14); reset 0 (R399) -/
  select     : Fin 4 := 0
  /-- Selections waiting for a job boundary: R397, R399 (14); reset none (log 2) -/
  selecting  : Option (Fin 4) := none
  /-- Last MSS-reported MSS_PROFILE_CTL while the MSS is in reset: 32; R458 (16); reset none (log 2) -/
  reported   : Option Word := none
  /-- Firmware slots A and B: R404 (14); reset A with a valid bundle of build 0 (DESIGN CHOICE, log 5) -/
  slotA      : FwSlot := { bundle := some { build := 0, secVer := 0, revs := [0], kinds := [], sigOk := true }, valid := true }
  slotB      : FwSlot := { bundle := none, valid := false }
  /-- Slot B is the active one: 1; R406 (14); reset false (DESIGN CHOICE, log 5) -/
  activeB    : Bool := false
  /-- Resets of the active build during a start, before its MSS beat: count; R406 (14); reset DESIGN CHOICE 0 (log 5) -/
  bootResets : Nat := 0
  /-- Monotonic counter: 32; R404, R409 (14); reset DESIGN CHOICE 0 (log 5) -/
  counter    : BitVec 32 := 0
  /-- Firmware update: R407 (14); reset idle (log 2) -/
  update     : FwUpdate := {}
  /-- PLDM terminus id: 8; R414 (14); reset DESIGN CHOICE 0 (log 2) -/
  tid        : Nat := 0
  /-- PLDM event receiver: endpoint id, none if not set; R414 (14); reset none (log 2) -/
  receiver   : Option Nat := none
  /-- PLDM event message buffer size: bytes; R414 (14); reset DESIGN CHOICE 0 (log 2) -/
  evBuffer   : Nat := 0
  /-- Platform events awaiting a poll, oldest first: R414 (14); reset empty (log 2) -/
  platform   : List LogEntry := []
  /-- SPDM sessions: at most four; R412 (14); reset empty (log 2) -/
  sessions   : AL Nat Session := []
  /-- SPDM connection state by transport: R412 (14); reset empty (log 2) -/
  conns      : AL SpdmPath SpdmConn := []
  /-- IDE keys programmed, by port, stream and key set: R412 (14); reset empty (log 2) -/
  ideKeys    : AL (HostPort × IdeStream × Nat) Nat := []
  /-- IDE streams in use with keys, SEC_IDE_STATUS: 4; R468 (16); reset 0 (R468) -/
  ideOn      : AL (HostPort × IdeStream) Nat := []
  /-- Debug nonces drawn: R418 (14); reset empty (log 2) -/
  nonces     : List Nonce := []
  /-- Security state: R417 (14); reset SECURE (R417) -/
  security   : SecState := .secure
  /-- Opened die bits: 8; R420 (14); reset 0 (log 2) -/
  dies       : Nat := 0
  /-- Level opened: 2; R420 (14); reset 0 (log 2) -/
  level      : Nat := 0
  /-- Identity key available: 1; R411, R417 (14); reset true (R417: SECURE; at a start R411 unwraps it) -/
  idKey      : Bool := true
  /-- Hub key registers hold the keys derived from the PUF: 1; R410, R419 (14); reset true (R410: at every cold reset) -/
  hubKeys    : Bool := true
  /-- PUF path locked: 1; R419 (14); reset false (R419) -/
  pufLocked  : Bool := false
  /-- Wear monitors by unit and indicator: R283–R286 (10); reset empty (DESIGN CHOICE, log 2) -/
  wear       : AL (WearUnit × Indicator) WearSt := []
  /-- Hub time of the last hourly wear evaluation: µs; R284 (10); reset DESIGN CHOICE 0 (log 2) -/
  eolAt      : Nat := 0
  /-- Response to the last management request: R412–R414 (14); reset none (log 2) -/
  response   : Option Response := none
  deriving DecidableEq, Repr

/-! ## Governor, guest, outputs -/

/-- The power and thermal governor (R400–R403). Ceilings are steps of 25 MHz, 7–28. -/
structure Gov where
  /-- Power ceilings: four, 7–28; R401 (14); reset 28 (R400) -/
  power    : List Nat := [28, 28, 28, 28]
  /-- Junction ceilings: four, 7–28; R401 (14); reset 28 (R400) -/
  junction : List Nat := [28, 28, 28, 28]
  /-- Stack ceilings: four, 7–28; R401 (14); reset 28 (R400) -/
  stack    : List Nat := [28, 28, 28, 28]
  /-- Brake values: four, 7–28; R402 (14); reset 7 (R402: 175 MHz if none computed) -/
  brakeVal : List Nat := [7, 7, 7, 7]
  /-- PWR_BRAKE_N asserted: 1, with the hub time of its assertion; R402 (14); reset not asserted (R446 pull-up) -/
  brakeAt  : Option Nat := none
  /-- Consecutive 100 µs evaluations below 0.95 × LIMIT_W: count; R401 (14); reset DESIGN CHOICE 0 (log 2) -/
  belowFor : Nat := 0
  /-- 10 µs junction samples below 98 °C in a row, by die: count; R401 (14); reset DESIGN CHOICE 0 (log 2) -/
  coolJ    : List Nat := [0, 0, 0, 0]
  /-- 100 µs stack samples below 88 °C in a row, by die: count; R401 (14); reset DESIGN CHOICE 0 (log 2) -/
  coolS    : List Nat := [0, 0, 0, 0]
  /-- THERM_ALERT_N conditions that hold: junctions (0–6), stacks (16–35), coolant (48); R403 (14); reset none (log 2) -/
  alerts   : List Nat := []
  deriving DecidableEq, Repr

/-- The hedge and the guest-die site (R3, R415, R416). -/
structure Guest where
  /-- Guest requests outstanding: count; R415 (14); reset DESIGN CHOICE 0 (log 2) -/
  outstanding : Nat := 0
  /-- Failed guest reset attempts: count; R277 (10); reset DESIGN CHOICE 0 (log 2) -/
  attempts    : Nat := 0
  /-- Guest domain fenced: 1; R277 (10); reset false (log 2) -/
  fenced      : Bool := false
  /-- Value the last guest read returned: R416 (14); reset none (log 2) -/
  lastRead    : Option (List Byte) := none
  deriving DecidableEq, Repr

/-- A message the module sends over the fabric. -/
inductive Msg
  | pause (c : CtxId) (src : Nat) (on : Bool)
  | contribute (c : CtxId) (k : ControlKind) (mask : BitVec 32)
  | distribute (c : CtxId) (k : ControlKind) (mask : BitVec 32)
  | collective (c : CtxId) (rcv stream seq block : Nat) (vals : List Int) (residue markers : Nat) (amax : BitVec 32)
      (ovf : Bool)
  | collectiveResult (c : CtxId) (stream seq block : Nat) (vals : List Int) (amax : BitVec 32) (ovf : Bool)
  | slice (c : CtxId) (step slice tensor first : Nat) (vals : List Int) (upd : Option UpdateRec)
  | norm (c : CtxId) (step : Nat) (q : Int)
  | digest (c : CtxId) (step : Nat) (digest : List Byte) (crcs : List Nat)
  | mirrorDigest (c : CtxId) (step : Nat) (digest : List Byte) (crcs : List Nat)
  | shipment (c : CtxId) (rcv step entry : Nat)
  | refereeResult (c : CtxId) (rcv step entry : Nat) (finding : DigestFinding)
  | strikeReport (c : CtxId) (m : Nat)
  | refetch (c : CtxId) (rcv : Nat) (key : RefetchKey) (version granule : Nat)
  | refetchReply (c : CtxId) (rcv : Nat) (version granule : Nat) (bytes : Option (List Byte))
  | suspect (c : CtxId) (rcv peer : Nat)
  | replicaRequest (c : CtxId) (rcv version granule : Nat)
  | probe (c : CtxId) (peer path : Nat)
  | probeReply (rcv path : Nat) (progress : List Nat)
  | extend (c : CtxId) (peer : Nat)
  | declare (c : CtxId) (k : DeclKind) (issuer seqNo : Nat) (subject physical : Nat)
  | rollbackOrder (c : CtxId) (epoch : BitVec 16)
  | takeoverOrder (c : CtxId) (spare lost live mirror : Nat)
  | routeUpdate (c : CtxId) (ident spare : Nat)
  | selfFence (cause : Option Status)
  | mssFailed
  | eolNoSpare
  | takeoverRecord (c : CtxId) (r : TakeoverRec)
  | programImage (c : CtxId) (p : Program)
  | takeoverRequest (c : CtxId) (rcv : Nat)
  | takeoverReady (c : CtxId) (ident : Nat)
  | swapOrder (c : CtxId) (w admitted step : Nat)
  | saplingCopy (c : CtxId) (rcv version : Nat)
  | saplingFeed (c : CtxId) (f : Feed)
  | saplingVerdict (c : CtxId) (ok : Bool)
  | saplingReexecute (c : CtxId) (step : Nat)
  | ckptStart (c : CtxId) (step : Nat)
  | stripeReserve (c : CtxId) (set rows : Nat)
  | stripeRelease (c : CtxId)
  | stripeAnswer (rcv : Nat) (wctx : Nat) (granted : Bool)
  | stripeUnit (c : CtxId) (rcv set seat row unit : Nat) (bytes : List Byte)
  | stripeAck (rcv wctx row unit crc : Nat)
  | stripeRebuild (c : CtxId) (rcv seat : Nat)
  | seedBlockRequest (c : CtxId) (rcv index : Nat)
  | seedBlock (rcv index : Nat)
  | mirrorCopy (c : CtxId) (version : Nat)
  | exportImage (c : CtxId) (rcv clearing : Nat) (step : Nat)
  | dropNotice (rcv reason : Nat)
  | exchange (c : CtxId) (rcv : Nat) (k : ControlKind) (mask : BitVec 32)
  | genNotice (c : CtxId) (rcv : Nat) (gen : BitVec 8)
  | detourSuspect (m path : Nat)
  | stateLost (c : CtxId)
  deriving DecidableEq, Repr

/-- The generations and the epoch in the packet header of a message (R205, R266, R268, R344). -/
structure MsgHead where
  epoch  : BitVec 16
  srcGen : BitVec 8
  dom    : Nat                             -- DOM: the issuing domain, of a reply that of its request (R483)
  domGen : BitVec 8
  reply  : Bool
  deriving DecidableEq, Repr

/-- What leaves the module, newest first. -/
structure Out where
  /-- Messages sent over the fabric: list; R273, R275, R349–R352 (10, 12); reset empty (log 2) -/
  msgs    : List Msg := []
  /-- What the packets of those messages carry of generations and epochs, one each: list; R205, R266, R268, R344 (08, 10, 12); reset empty (log 2) -/
  heads   : List MsgHead := []
  /-- Flits and beacons sent, with their port: list; R327, R332 (12); reset empty (log 2) -/
  flits   : List (PortId × Flit) := []
  /-- Beacons sent, with their port: list; R332, R333 (12); reset empty (log 2) -/
  beacons : List (PortId × Beacon) := []
  /-- Packets sent on, with their egress port: list; R345 (12); reset empty (log 2) -/
  packets : List (Nat × PacketHdr) := []
  /-- Deferred host writes, GENERATE outputs and metric writes: context, step or index, offset, length; R221, R371 (08, 13); reset empty (log 2) -/
  hostData : List (CtxId × Nat × Nat × Nat) := []
  /-- Headers of provisional metric writes: context, address, the 16 bytes; R221, R475 (08, 17); reset empty (log 2) -/
  metrics : List (CtxId × Nat × List Byte) := []
  /-- Back-invalidate snoops sent: lines; R387 (13); reset empty (log 2) -/
  snoops  : List Nat := []
  /-- Firmware chunks the MSS asked for: offset, length; R407, R414 (14); reset empty (log 2) -/
  chunks  : List (Nat × Nat) := []
  /-- Page requests sent: number, PASID, page; R378 (13); reset empty (log 2) -/
  pris    : List (Nat × Option Nat × Nat) := []
  deriving DecidableEq, Repr

/-! ## The machine -/

/-- The state of one module. -/
structure State where
  /-- Set-up registers: R448–R459 (16) -/
  regs    : Regs := {}
  /-- Hub: time, resets, power, clocks, BIST -/
  hub     : Hub := {}
  /-- Ring sets, by number 0–16: R359 (13) -/
  rings   : AL SetId RingSet := []
  /-- Contexts: R8, R176, R358 -/
  ctxs    : AL CtxId Ctx := []
  /-- Host ports, page requests, window: R354–R388 -/
  cxl     : Cxl := {}
  /-- HBM, channel map, regulators, cache: R167–R194 -/
  mem     : Mem := {}
  /-- Cores: R16, R19, R121, R239 -/
  cores   : Cores := {}
  /-- Fabric ports, routing state: R323–R348 -/
  link    : Link := {}
  /-- Grove, sapling, declarations: R264–R295 -/
  grove   : Grove := {}
  /-- Checkpoint stores: R296–R322 -/
  ckpt    : Ckpt := {}
  /-- Management and security: R391–R420 -/
  mss     : Mss := {}
  /-- Governor: R400–R403 -/
  gov     : Gov := {}
  /-- Guest site: R3, R415, R416 -/
  guest   : Guest := {}
  /-- What has left the module -/
  out     : Out := {}
  /-- Commands waiting, first in, first out: the model's own field; reset empty -/
  pending : List Instr := []
  deriving DecidableEq, Repr

/-- The state right after a cold reset: start-up runs, no port is up, no context holds a program (R264, R426, R428, R459). -/
def State.reset : State := {}

/-- Reasons the machine stops for good. There is none: a reset, a fence and a lost module are states the manual
describes, and every command has an effect in them. -/
inductive Fault
  deriving DecidableEq, Repr

/-- Reasons a command is turned away. -/
inductive Refusal
  /-- Raised by the dispatcher for a command that has no meaning yet; safe. -/
  | notModelled (mnemonic : String)
  deriving DecidableEq, Repr

end Sys2Proof.Machine
end

