-- ==== Sys2Proof/Machine/RegMap.lean ====
section
/-! DEFINITION. Where the staged set-up registers lie, which of their bits are staged, what they hold at reset, and which
bank and application unit each belongs to (R450, R451, R456, R460, R461 and the field tables those rules point to). -/

namespace Sys2Proof.Machine

/-- A staged register: its bank, its application unit in the bank, its staged bits and its reset value. -/
structure RegInfo where
  bank  : Bank
  unit  : Nat
  mask  : Nat
  reset : Nat
  deriving DecidableEq, Repr

/-- The block of an address: HUB 0, CP 1, CXL 2, RING 3, MEM 4, CORE 5, QNT 6, LINK 7, RT 8, CKPT 9, MSS 10, SEC 11,
PWR 12 (R450). -/
def blockOf (a : Nat) : Nat := a / 0x200000

/-- The offset of an address in its block window (R450). -/
def offsetOf (a : Nat) : Nat := a % 0x200000

/-- Reset value of MEM_REG_p: FLOOR in [5:0], CAP in [14:8] (R179). -/
def memRegReset : Nat → Nat
  | 0 => 4 + 64 * 256
  | 1 => 8 * 256
  | 2 => 8 * 256
  | 3 => 4 + 64 * 256
  | 4 => 52 * 256
  | 5 => 4 * 256
  | _ => 8 + 64 * 256

/-- Staged registers of the HUB block (R415, R461). -/
def hubInfo (o : Nat) : Option RegInfo :=
  if o = 0x200 then some ⟨.hubHedge, 0, 1, 0⟩
  else if 0x210 ≤ o ∧ o < 0x250 ∧ o % 4 = 0 then some ⟨.hubHedge, 0, if o % 8 = 0 then 0xFFFFF else 0xFFFFFFFF, 0⟩
  else none

/-- Staged registers of the CP block (R209, R358, R461). -/
def cpInfo (o : Nat) : Option RegInfo :=
  if 0x100 ≤ o ∧ o < 0x200 ∧ o % 16 = 0 then some ⟨.cpCtx, (o - 0x100) / 16, 0x3FFFFF, 0⟩
  else if 0x100 ≤ o ∧ o < 0x200 ∧ o % 16 = 12 then some ⟨.cpStep, (o - 0x100) / 16, 0x3F, 0x23⟩
  else none

/-- Staged registers of the RING block (R361, R461). The unit of kind k of set c is 7c + k. -/
def ringInfo (o : Nat) : Option RegInfo :=
  if 0x1000 ≤ o ∧ o < 0x2100 ∧ o % 4 = 0 then
    let c := (o - 0x1000) / 0x100
    let r := o % 0x100
    if r < 0x70 ∧ r % 16 < 8 then some ⟨.ring, 7 * c + r / 16, 0xFFFFFFFF, 0⟩
    else if r < 0x70 ∧ r % 16 = 8 then some ⟨.ring, 7 * c + r / 16, 0x7FFFF, 0⟩
    else if 0xE0 ≤ r ∧ r < 0xF0 then some ⟨.ring, 7 * c, 0xFFFFFFFF, 0⟩
    else none
  else none

/-- Staged registers of the MEM block (R174, R179, R396, R461, R464). -/
def memInfo (o : Nat) : Option RegInfo :=
  if 0x100 ≤ o ∧ o < 0x200 ∧ o % 4 = 0 then
    let r := o % 0x40
    if r = 0x38 then some ⟨.memPart, 0, 0xFF, 4⟩
    else if r < 0x38 then some ⟨.memPart, 0, 0x3FFFF, if r = 0x34 then 159744 else 0⟩
    else none
  else if 0x200 ≤ o ∧ o < 0x21C ∧ o % 4 = 0 then some ⟨.memReg, 0, 0x7F3F, memRegReset ((o - 0x200) / 4)⟩
  else if o = 0x240 then some ⟨.memPol, 0, 0xFFFF, 60⟩
  else if o = 0x244 then some ⟨.memPol, 0, 0x1F, 0x14⟩
  else none

/-- Staged registers of the LINK block (R272, R334, R336, R461). -/
def linkInfo (o : Nat) : Option RegInfo :=
  if 0x100 ≤ o ∧ o < 0x1A0 ∧ o % 4 = 0 then some ⟨.linkPlan, 0, 0xFFFFF, 0⟩
  else if o = 0x1A0 then some ⟨.linkPlan, 0, 0xFFF, 0⟩
  else if o = 0x1A4 ∨ o = 0x1A8 then some ⟨.linkPlan, 0, 0xFFFFFFFF, 0⟩
  else if o = 0x200 then some ⟨.linkPol, 0, 0x7FFF01, 0x0A0100⟩
  else if o = 0x210 then some ⟨.linkTmo, 0, 0xFFFF00FF, 5 + 100 * 65536⟩
  else none

/-- Staged registers of the RT block (R342, R343, R461). Table 0 has CLEARING and VALID read-only. -/
def rtInfo (o : Nat) : Option RegInfo :=
  if o = 0x100 then some ⟨.rt, 0, 0xF000, 0x10000⟩
  else if 0x104 ≤ o ∧ o < 0x144 ∧ o % 4 = 0 then some ⟨.rt, 0, 0x1FFFF, 0⟩
  else if 0x40000 ≤ o ∧ o < 0xC8000 ∧ o % 8 = 0 then some ⟨.rt, 0, 0x1FFF3FFF, 0⟩
  else none

/-- The staged register at an address of the active view, if one is there (R460, R461). -/
def regInfo (a : Nat) : Option RegInfo :=
  let o := offsetOf a
  match blockOf a with
  | 0 => hubInfo o
  | 1 => cpInfo o
  | 2 => if o = 0x100 then some ⟨.cxlPri, 0, 0xFFFFFFFF, 2000 + 1000 * 65536⟩ else none
  | 3 => ringInfo o
  | 4 => memInfo o
  | 5 =>
    if 0x100 ≤ o ∧ o < 0x140 ∧ o % 4 = 0 then some ⟨.coreRbatch, (o - 0x100) / 4, 0xFFFF1FFF, 512 + 2000 * 65536⟩
    else if o = 0x200 then some ⟨.coreFt, 0, 0xFFFFFF03, 20 * 256 + 8 * 65536 + 64 * 16777216⟩
    else none
  | 7 => linkInfo o
  | 8 => rtInfo o
  | 9 =>
    if 0x100 ≤ o ∧ o < 0x140 ∧ o % 4 = 0 then some ⟨.ckpt, (o - 0x100) / 4, 0xFFFF03, 0⟩
    else if o = 0x200 then some ⟨.ckpt, 16, 0xFFFF, 2 + 100 * 16⟩
    else none
  | 10 =>
    if o = 0x200 then some ⟨.mssEol, 0, 0x1FFFF, 30 + 14 * 256 + 65536⟩
    else if o = 0x210 then some ⟨.mssSap, 0, 0xFFFFF, 50 + 3 * 65536⟩
    else none
  | 12 => if o = 0x100 then some ⟨.pwr, 0, 0xFFFFFF, 1000 + 1000 * 4096⟩ else none
  | _ => none

/-- Reset value of the staged register at an address (R396, R459, R461); 0 where none is. -/
def regReset (a : Nat) : Word :=
  match regInfo a with
  | some i => BitVec.ofNat 32 i.reset
  | none => 0

/-- The active value of a staged register (R451). -/
def Regs.val (r : Regs) (a : Nat) : Word := AL.get (regReset a) a r.active

/-- The staging copy of a staged register (R451): where the host has staged nothing, the active value. -/
def Regs.stg (r : Regs) (a : Nat) : Word := AL.get (r.val a) a r.staged

/-- A bank's control (R452). -/
def Regs.bank (r : Regs) (b : Bank) : BankCtl := AL.get {} b r.banks

/-- The registers with bank `b`'s control changed. -/
def Regs.updBank (r : Regs) (b : Bank) (f : BankCtl → BankCtl) : Regs := { r with banks := AL.upd {} b f r.banks }

/-- Address of a bank's control registers (R452): its block's base plus 0x10 times its place in the table of R456. -/
def bankBase : Bank → Nat
  | .hubHedge => 0x0000000
  | .cpCtx => 0x0200000
  | .cpStep => 0x0200010
  | .cxlPri => 0x0400000
  | .ring => 0x0600000
  | .memPart => 0x0800000
  | .memReg => 0x0800010
  | .memPol => 0x0800020
  | .coreRbatch => 0x0A00000
  | .coreFt => 0x0A00010
  | .linkPlan => 0x0E00000
  | .linkPol => 0x0E00010
  | .linkTmo => 0x0E00020
  | .rt => 0x1000000
  | .ckpt => 0x1200000
  | .mssEol => 0x1400000
  | .mssSap => 0x1400010
  | .pwr => 0x1800000

/-- Every bank, in the order of R456. -/
def allBanks : List Bank :=
  [.hubHedge, .cpCtx, .cpStep, .cxlPri, .ring, .memPart, .memReg, .memPol, .coreRbatch, .coreFt, .linkPlan, .linkPol,
   .linkTmo, .rt, .ckpt, .mssEol, .mssSap, .pwr]

/-! ## Addresses of the staged registers (R461) -/

/-- HUB_HEDGE_CFG. -/
def aHedgeCfg : Nat := 0x200
/-- HUB_HEDGE_BASE_n. -/
def aHedgeBase (n : Nat) : Nat := 0x210 + 8 * n
/-- HUB_HEDGE_WIN_n. -/
def aHedgeWin (n : Nat) : Nat := 0x214 + 8 * n
/-- CP_CTX_CFG_c. -/
def aCtxCfg (c : Nat) : Nat := 0x200100 + 16 * c
/-- CP_STEP_POLICY_c. -/
def aStepPol (c : Nat) : Nat := 0x20010C + 16 * c
/-- CXL_PRI_CFG. -/
def aPriCfg : Nat := 0x400100
/-- RING_BASE_LO_c_k. -/
def aRingBase (c k : Nat) : Nat := 0x601000 + 0x100 * c + 0x10 * k
/-- RING_CFG_c_k. -/
def aRingCfg (c k : Nat) : Nat := 0x601008 + 0x100 * c + 0x10 * k
/-- RING_DB_LO_c. -/
def aRingDb (c : Nat) : Nat := 0x6010E0 + 0x100 * c
/-- RING_PROG_LO_c. -/
def aRingProg (c : Nat) : Nat := 0x6010E8 + 0x100 * c
/-- MEM_PART_BASE_d_p. -/
def aPartBase (d p : Nat) : Nat := 0x800100 + 0x40 * d + 8 * p
/-- MEM_PART_SIZE_d_p. -/
def aPartSize (d p : Nat) : Nat := 0x800104 + 0x40 * d + 8 * p
/-- MEM_PART_RESV_d. -/
def aPartResv (d : Nat) : Nat := 0x800138 + 0x40 * d
/-- MEM_REG_p. -/
def aMemReg (p : Nat) : Nat := 0x800200 + 4 * p
/-- MEM_SCRUB. -/
def aScrub : Nat := 0x800240
/-- MEM_MAPOUT_POLICY. -/
def aMapout : Nat := 0x800244
/-- CORE_RBATCH_CTX_c. -/
def aRbatch (c : Nat) : Nat := 0xA00100 + 4 * c
/-- CORE_FT_POLICY. -/
def aFtPol : Nat := 0xA00200
/-- LINK_PLAN_PORT_n. -/
def aPlanPort (n : Nat) : Nat := 0xE00100 + 4 * n
/-- LINK_PLAN_SELF. -/
def aPlanSelf : Nat := 0xE001A0
/-- LINK_PLAN_ID_LO. -/
def aPlanIdLo : Nat := 0xE001A4
/-- LINK_PLAN_ID_HI. -/
def aPlanIdHi : Nat := 0xE001A8
/-- LINK_POLICY. -/
def aLinkPol : Nat := 0xE00200
/-- LINK_PEER_TIMEOUT. -/
def aPeerTmo : Nat := 0xE00210
/-- RT_TABLE_t. -/
def aRtTable (t : Nat) : Nat := 0x1000100 + 4 * t
/-- RT_ENTRY_t_i, bits [31:0]. -/
def aRtEntry (t i : Nat) : Nat := 0x1040000 + 0x8000 * t + 8 * i
/-- CKPT_POLICY_c. -/
def aCkptPol (c : Nat) : Nat := 0x1200100 + 4 * c
/-- CKPT_CFG. -/
def aCkptCfg : Nat := 0x1200200
/-- MSS_EOL_POLICY. -/
def aEolPol : Nat := 0x1400200
/-- MSS_SAPLING_CFG. -/
def aSapCfg : Nat := 0x1400210
/-- PWR_LIMIT. -/
def aPwrLimit : Nat := 0x1800100

end Sys2Proof.Machine
end

