-- ==== Sys2Proof/Machine/Ops.lean ====
section
/-! DEFINITION. The named operations over the state that the commands share: access to contexts, rings, cores, ports,
domains and registers; free values; the MSS log; host rings and events; failure signatures; HBM bytes. -/

namespace Sys2Proof.Machine

/-! ## Access -/

/-- Context `c`. -/
def State.ctx (s : State) (c : CtxId) : Ctx := AL.get {} c s.ctxs

/-- The state with context `c` changed. -/
def State.updCtx (s : State) (c : CtxId) (f : Ctx → Ctx) : State := { s with ctxs := AL.upd {} c f s.ctxs }

/-- Ring set `i`. -/
def State.ring (s : State) (i : SetId) : RingSet := AL.get {} i s.rings

/-- The state with ring set `i` changed. -/
def State.updRing (s : State) (i : SetId) (f : RingSet → RingSet) : State := { s with rings := AL.upd {} i f s.rings }

/-- Core `k`. -/
def State.core (s : State) (k : CoreId) : CoreSt := AL.get {} k s.cores.tbl

/-- The state with core `k` changed. -/
def State.updCore (s : State) (k : CoreId) (f : CoreSt → CoreSt) : State :=
  { s with cores := { s.cores with tbl := AL.upd {} k f s.cores.tbl } }

/-- Fabric port `p`. -/
def State.port (s : State) (p : PortId) : PortSt := AL.get {} p s.link.ports

/-- The state with port `p` changed. -/
def State.updPort (s : State) (p : PortId) (f : PortSt → PortSt) : State :=
  { s with link := { s.link with ports := AL.upd {} p f s.link.ports } }

/-- Reset domain `d`. -/
def State.dom (s : State) (d : Domain) : DomSt := AL.get {} d s.hub.domains

/-- The state with reset domain `d` changed. -/
def State.updDom (s : State) (d : Domain) (f : DomSt → DomSt) : State :=
  { s with hub := { s.hub with domains := AL.upd {} d f s.hub.domains } }

/-- The domains a domain lies inside (R264, R265). -/
def outerOf : Domain → List Domain
  | .core c => [.die c.die, .warm, .cold]
  | .hbm k => [.die (Fin.ofNat 4 (k.val / 5)), .warm, .cold]
  | .port _ | .die _ | .guest | .cp => [.warm, .cold]
  | .mss | .warm => [.cold]
  | .cold => []

/-- A domain's present generation: its own resets and those of the domains it lies inside (R265). -/
def State.genOf (s : State) (d : Domain) : BitVec 8 :=
  (outerOf d).foldl (fun g o => g + (s.dom o).gen) (s.dom d).gen

/-- The module generation: that of the warm module domain, on from the value secure flash gave it (R268). -/
def State.moduleGen (s : State) : BitVec 8 := s.hub.coldGen + (s.dom .warm).gen

/-- Hub time in µs (R462). -/
def State.now (s : State) : Nat := s.hub.timeUs

/-- When a domain's generation last advanced: at a reset of its own or of a domain it lies inside (R265, R267). -/
def State.lastAdvance (s : State) (d : Domain) : Option Nat :=
  (d :: outerOf d).foldl (fun m o => max m (s.dom o).lastAt) none

/-- A domain's generation has advanced within the last ms: it may not enter reset again yet (R267). -/
def State.tooSoon (s : State) (d : Domain) : Bool := (s.lastAdvance d).any (fun t => decide (s.now < t + 1000))

/-- A domain is in reset, itself or in a domain it lies inside; the empty guest site always is (R3). -/
def State.inReset (s : State) (d : Domain) : Bool := decide (d = .guest) || (d :: (outerOf d)).any (fun o => (s.dom o).inReset)

/-- The active value of the staged register at an address (R451), as a number. -/
def State.reg (s : State) (a : Nat) : Nat := (s.regs.val a).toNat

/-- The MSS acts: it is not in reset and the module has not been lost by it. -/
def State.mssRuns (s : State) : Bool := !s.inReset .mss && !s.hub.mssLost

/-- A host port. -/
def State.cxlPort (s : State) : HostPort → CxlPort
  | .a => s.cxl.a
  | .b => s.cxl.b

/-- The state with a host port changed. -/
def State.updCxl (s : State) (p : HostPort) (f : CxlPort → CxlPort) : State :=
  match p with
  | .a => { s with cxl := { s.cxl with a := f s.cxl.a } }
  | .b => { s with cxl := { s.cxl with b := f s.cxl.b } }

/-- The other host port. -/
def otherPort : HostPort → HostPort
  | .a => .b
  | .b => .a

/-- The ring set of a context. -/
def setOf (c : CtxId) : SetId := ⟨c.val, by omega⟩

/-- The module ring set (R359). -/
def moduleSet : SetId := ⟨16, by omega⟩

/-! ## Free values -/

/-- One free value (Config.freeNat), and the state with the draw counted. -/
def State.draw (s : State) : Nat × State :=
  (Config.freeNat s.hub.freeCtr, { s with hub := { s.hub with freeCtr := s.hub.freeCtr + 1 } })

/-- One member of a list, which one being a free value; the given one of an empty list. -/
def State.pick {α : Type} (s : State) (d : α) (l : List α) : α × State :=
  match l with
  | [] => (d, s)
  | [x] => (x, s)
  | _ => (l.getD (s.draw.1 % l.length) d, s.draw.2)

/-! ## The module's place (R8, R333, R342) -/

/-- Physical module number: LINK_PLAN_SELF (R334). -/
def State.phys (s : State) : Nat := s.reg aPlanSelf

/-- The routing identity the module answers for (R279, R333): its physical number unless it has taken over another. -/
def State.ident (s : State) : Nat :=
  match s.grove.ident with
  | some m => m.val
  | none => s.phys

/-- Grove of a module number (R8). -/
def groveOf (m : Nat) : Nat := m / 32

/-- Contexts of the module, in order. -/
def allCtx : List CtxId := List.finRange 16

/-- A context holds a loaded step program. -/
def Ctx.loaded (x : Ctx) : Bool := x.prog.isSome

/-- Some context of the module holds a loaded step program. -/
def State.anyLoaded (s : State) : Bool := s.ctxs.any (fun e => (s.ctx e.1).loaded)

/-- Context `c` is open: CP_CTX_CFG_c.ENABLE (R358). -/
def State.enabled (s : State) (c : CtxId) : Bool := bitOf (s.reg (aCtxCfg c.val)) 0

/-- RT_TABLE_t is VALID (R342). -/
def State.tableValid (s : State) (t : Nat) : Bool := bitOf (s.reg (aRtTable t)) 16

/-- CLEARING of RT_TABLE_t (R342). -/
def State.tableClearing (s : State) (t : Nat) : Nat := bitsOf (s.reg (aRtTable t)) 11 0

/-- CONTEXT of RT_TABLE_t (R342). -/
def State.tableCtx (s : State) (t : Nat) : Nat := bitsOf (s.reg (aRtTable t)) 15 12

/-- Routing tables of contexts, 1–16 (R342). -/
def ctxTables : List Nat := (List.range 17).drop 1

/-- The valid table of a context (R342). -/
def State.tableOf (s : State) (c : CtxId) : Option Nat :=
  ctxTables.find? (fun t => s.tableValid t && s.tableCtx t == c.val)

/-- The valid table of a clearing (R342). -/
def State.tableOfClearing (s : State) (k : Nat) : Option Nat :=
  ctxTables.find? (fun t => s.tableValid t && s.tableClearing t == k)

/-- The clearing id of a context, 0 outside a clearing. -/
def State.clearingOf (s : State) (c : CtxId) : Nat :=
  match s.tableOf c with
  | some t => s.tableClearing t
  | none => 0

/-- Entry i of table t is VALID (R343). -/
def State.routeValid (s : State) (t i : Nat) : Bool := bitOf (s.reg (aRtEntry t i)) 6

/-- The module is in a clearing: a valid table belongs to an enabled context (DEDUCED from R342, log 6). -/
def State.inClearing (s : State) : Bool :=
  ctxTables.any (fun t => s.tableValid t && s.enabled (Fin.ofNat 16 (s.tableCtx t)))

/-- The other modules of a context's clearing in this module's grove: positions whose entry is VALID (R342, R343). -/
def State.groveMembers (s : State) (c : CtxId) : List Nat :=
  match s.tableOf c with
  | some t => ((List.range 32).map (fun p => 32 * groveOf s.ident + p)).filter
      (fun m => m != s.ident && s.routeValid t m)
  | none => []

/-- A module is healthy in the present view of a context: not declared lost or suspect (R274). -/
def Ctx.healthy (x : Ctx) (m : Nat) : Bool := !x.lostMods.contains m && !x.suspects.contains m

/-- The steward of this module's grove for a context: the lowest-numbered healthy module (R274). -/
def State.steward (s : State) (c : CtxId) : Nat :=
  let x := s.ctx c
  let ms := (s.groveMembers c).filter x.healthy
  if s.grove.spare && s.grove.sapling.isNone && ms.isEmpty then s.ident
  else if s.grove.spare then ms.foldl min 4095
  else ms.foldl min s.ident

/-- This module is the steward of its grove for context `c`. -/
def State.isSteward (s : State) (c : CtxId) : Bool := !s.grove.spare && s.steward c == s.ident

/-! ## Sending -/

/-- The context a message is of; none for grove-local traffic (R205, R344). -/
def msgCtx : Msg → Option CtxId
  | .pause c _ _ => some c
  | .contribute c _ _ => some c
  | .distribute c _ _ => some c
  | .collective c _ _ _ _ _ _ _ _ _ => some c
  | .collectiveResult c _ _ _ _ _ _ => some c
  | .slice c _ _ _ _ _ _ => some c
  | .norm c _ _ => some c
  | .digest c _ _ _ | .mirrorDigest c _ _ _ => some c
  | .shipment c _ _ _ => some c
  | .refereeResult c _ _ _ _ => some c
  | .strikeReport c _ => some c
  | .refetch c _ _ _ _ => some c
  | .refetchReply c _ _ _ _ => some c
  | .suspect c _ _ => some c
  | .replicaRequest c _ _ _ => some c
  | .probe c _ _ => some c
  | .extend c _ => some c
  | .declare c _ _ _ _ _ => some c
  | .rollbackOrder c _ => some c
  | .takeoverOrder c _ _ _ _ => some c
  | .routeUpdate c _ _ => some c
  | .takeoverRecord c _ => some c
  | .programImage c _ => some c
  | .takeoverRequest c _ => some c
  | .takeoverReady c _ => some c
  | .swapOrder c _ _ _ => some c
  | .saplingCopy c _ _ => some c
  | .saplingFeed c _ => some c
  | .saplingVerdict c _ => some c
  | .saplingReexecute c _ => some c
  | .ckptStart c _ => some c
  | .stripeReserve c _ _ => some c
  | .stripeRelease c => some c
  | .stripeUnit c _ _ _ _ _ _ => some c
  | .stripeRebuild c _ _ => some c
  | .seedBlockRequest c _ _ => some c
  | .mirrorCopy c _ => some c
  | .exportImage c _ _ _ => some c
  | .exchange c _ _ _ => some c
  | .genNotice c _ _ => some c
  | .stateLost c => some c
  | .probeReply .. | .selfFence .. | .mssFailed | .eolNoSpare | .stripeAnswer .. | .stripeAck .. | .seedBlock .. | .dropNotice .. | .detourSuspect .. => none

/-- The module an answer goes to, in a message that answers a request (R344). -/
def msgAnswers : Msg → Option Nat
  | .refetchReply _ m _ _ _ | .probeReply m _ _ | .stripeAnswer m _ _ | .stripeAck m _ _ _ _ | .seedBlock m _ => some m
  | _ => none

/-- The innermost domain that issues a message: the hub's engines lie in the warm module domain itself; what the command processor
decides is its own (R264, R266; log 150). -/
def msgDomain : Msg → Domain
  | .collective .. | .collectiveResult .. | .slice .. | .norm .. | .digest .. | .mirrorDigest .. | .shipment .. | .refetch .. | .refetchReply ..
  | .takeoverRecord .. | .programImage .. | .saplingFeed .. | .stripeUnit .. | .stripeAck .. | .stripeRebuild .. | .seedBlockRequest ..
  | .seedBlock .. | .mirrorCopy .. | .exportImage .. | .dropNotice .. | .genNotice .. | .selfFence .. | .mssFailed => .warm
  | _ => .cp

/-- A domain's number in the DOM field (R483). -/
def domCode : Domain → Nat
  | .core k => k.value
  | .hbm i => 4096 + i.val
  | .port p => 8192 + p.val
  | .die d => 12288 + d.val
  | .guest => 16384
  | .cp => 20480
  | .mss => 24576
  | .warm => 28672
  | .cold => 32768

/-- The header of a message: a request carries its domain's generation, an answer returns what the newest packet of the module it
goes to carried (R266, R344; log 150). -/
def State.headOfMsg (s : State) (m : Msg) : MsgHead :=
  let epoch := match msgCtx m with
    | some c => (s.ctx c).epoch
    | none => 0
  let d := msgDomain m
  let own := if d = .warm then s.moduleGen else s.genOf d
  match (msgAnswers m).bind (fun r => s.link.fates.find? (fun e => e.1.src == r)) with
  | some e => ⟨epoch, s.moduleGen, e.1.dom, e.1.domGen, true⟩
  | none => ⟨epoch, s.moduleGen, domCode d, own, (msgAnswers m).isSome⟩

/-- A message sent over the fabric, with the header of its packet. -/
def State.send (s : State) (m : Msg) : State :=
  { s with out := { s.out with msgs := m :: s.out.msgs, heads := s.headOfMsg m :: s.out.heads } }

/-- Messages sent in the order given. -/
def State.sendAll (s : State) (ms : List Msg) : State := ms.foldl State.send s

/-! ## The MSS log (R392) -/

/-- Capacity of the MSS log in entries (R392). -/
def logCapacity : Nat := 524288

/-- The log without its first entry of severity `v`, if it has one. -/
def dropOldest (v : Severity) : List LogEntry → Option (List LogEntry)
  | [] => none
  | e :: es => if e.severity = v then some es else (dropOldest v es).map (e :: ·)

/-- Room made in a full log: the oldest Informational entry goes, failing that the oldest Corrected, failing that the
oldest (R392). -/
def makeRoom (l : List LogEntry) : List LogEntry :=
  match dropOldest .informational l with
  | some l' => l'
  | none =>
    match dropOldest .corrected l with
    | some l' => l'
    | none => l.drop 1

/-- A message posted towards the MSS or from it: queued up to 64, else its sender's post waits (R22). -/
def State.postMbox (s : State) (toMss : Bool) (m : MboxMsg) : State :=
  let q := if toMss then s.hub.toMss else s.hub.fromMss
  if q.length < 64 then
    { s with hub := if toMss then { s.hub with toMss := q ++ [m] } else { s.hub with fromMss := q ++ [m] } }
  else { s with hub := { s.hub with postWait := s.hub.postWait ++ [(toMss, m)] } }

/-- The MSS takes an entry into its log (R392); the PLDM platform event of R414 goes with it where one is due. -/
def State.takeLog (s : State) (e : LogEntry) : State :=
  let full := decide (logCapacity ≤ s.mss.log.length)
  let told := e.sig.isSome || decide (e.severity ≠ .informational)
  { s with mss := { s.mss with
      log := (if full then makeRoom s.mss.log else s.mss.log) ++ [e]
      logLost := if full then s.mss.logLost + 1 else s.mss.logLost
      platform := if told then s.mss.platform ++ [e] else s.mss.platform } }

/-- COUNT of the record numbered `n` raised by one, to 255 at most. -/
def bumpSig (n : Nat) (g : Signature) : Signature := if g.recordNo = n then { g with count := min 255 (g.count + 1) } else g

/-- The MSS raises the COUNT of a record it has logged since cold reset `cold` (R263). -/
def State.takeBump (s : State) (cold n : Nat) : State :=
  { s with mss := { s.mss with
    log := s.mss.log.map (fun e => if e.cold = cold then { e with sig := e.sig.map (bumpSig n) } else e) } }

/-- An entry for the MSS log (R20, R22, R392). What the other planes report crosses the mailbox, where it waits while the MSS is
in reset. -/
def State.addLog (s : State) (src : LogSource) (sev : Severity) (st : Status) (detail : List Nat)
    (sig : Option Signature) : State :=
  let e : LogEntry := ⟨s.hub.coldCount, s.now, src, sev, st, detail, sig⟩
  let crosses := decide (src = .signature) || decide (src = .declaration) || decide (src = .event)
  if crosses && (s.inReset .mss || s.hub.mssLost) then s.postMbox true (.logEntry e) else s.takeLog e

/-! ## The passing of time -/

/-- 1 µs passes: the hub timer counts (R462), and the host writes in flight are globally observed (R376). -/
def State.tick (s : State) : State :=
  { s with
    hub := { s.hub with timeUs := (s.hub.timeUs + 1) % 2 ^ 64 }
    cxl := { s.cxl with a := { s.cxl.a with inflight := [] }, b := { s.cxl.b with inflight := [] } } }

/-! ## Host rings (R359–R364, R372) -/

/-- SIZE of a ring (R361). -/
def State.ringSize (s : State) (i : SetId) (k : Nat) : Nat := bitsOf (s.reg (aRingCfg i.val k)) 16 0

/-- ENABLE of a ring (R361). -/
def State.ringOn (s : State) (i : SetId) (k : Nat) : Bool := bitOf (s.reg (aRingCfg i.val k)) 18

/-- A host port is usable for rings: trained within R355, with ATS and PASID enabled and PERST not asserted, and the
module has reached Ready (R357, R376, R427). -/
def State.usable (s : State) (p : HostPort) : Bool :=
  let x := s.cxlPort p
  x.up && (x.width == 4 || x.width == 8) && (x.rate == 32 || x.rate == 64) && x.ats && x.pasid && !x.perst && s.hub.firstReady

/-- The port a ring of a set is served on: its PORT field, or the port a failover moved it to, while usable
(R376, R377). -/
def State.ringPort (s : State) (i : SetId) (k : Nat) : Option HostPort :=
  let pref := if bitOf (s.reg (aRingCfg i.val k)) 17 then HostPort.b else .a
  let p := AL.get pref k (s.ring i).movedTo
  if s.usable p then some p else if s.usable (otherPort p) then some (otherPort p) else none

/-- Entries held are posted while the ring has room: entry i only while (i − CONSUMER) mod 2³² < SIZE (R364). -/
def WRing.flushN {α : Type} (size : Nat) : Nat → WRing α → WRing α
  | 0, w => w
  | n + 1, w =>
    match w.held with
    | [] => w
    | x :: xs =>
      if (w.next + 2 ^ 32 - w.consumer % 2 ^ 32) % 2 ^ 32 < size then
        WRing.flushN size n { w with next := w.next + 1, held := xs, posted := w.posted ++ [(w.next, x)] }
      else w

/-- Every entry the ring has room for posted. -/
def WRing.flush {α : Type} (size : Nat) (w : WRing α) : WRing α := w.flushN size w.held.length

/-- An entry to post, behind those that wait. -/
def WRing.add {α : Type} (x : α) (w : WRing α) : WRing α := { w with held := w.held ++ [x] }

/-- How many entries a ring can take now: its SIZE if it is enabled and served on some port, else none. -/
def State.room (s : State) (i : SetId) (k : Nat) : Nat :=
  if s.ringOn i k && (s.ringPort i k).isSome then s.ringSize i k else 0

/-- Writes of newly posted entries are in flight on the port that serves the ring (R376). -/
def State.inFlight (s : State) (i : SetId) (k first n : Nat) : State :=
  match s.ringPort i k with
  | some p =>
    let new := (List.range n).map (fun j => (⟨i.val, k, first + j, 0⟩ : HostWrite))
    s.updCxl p (fun x => { x with inflight := x.inflight ++ new })
  | none => s

/-- Every module-written ring of a set posts what it has room for; when room returns on an event ring that overflowed,
EVENTS_LOST follows with the count (R372, R375). -/
def State.flushSet (s : State) (i : SetId) : State :=
  let r := s.ring i
  let evs := r.evs.flush (s.room i 5)
  let lost : Event := ⟨.eventsLost, .informational, .count r.evLost, i.val, s.now, 0, 0⟩
  let tell := decide (0 < r.evLost) && decide (evs.held.length < 1024) && decide (r.evs.next < evs.next)
  let evs' := if tell then (evs.add lost).flush (s.room i 5) else evs
  let r' := { r with
    cpl2 := r.cpl2.flush (s.room i 2), cpl3 := r.cpl3.flush (s.room i 3), recs := r.recs.flush (s.room i 4)
    evs := evs', reps := r.reps.flush (s.room i 6), evLost := if tell then 0 else r.evLost }
  let s := s.updRing i (fun _ => r')
  let s := s.inFlight i 2 r.cpl2.next (r'.cpl2.next - r.cpl2.next)
  let s := s.inFlight i 3 r.cpl3.next (r'.cpl3.next - r.cpl3.next)
  let s := s.inFlight i 4 r.recs.next (r'.recs.next - r.recs.next)
  let s := s.inFlight i 5 r.evs.next (r'.evs.next - r.evs.next)
  s.inFlight i 6 r.reps.next (r'.reps.next - r.reps.next)

/-! ## Events (R375, R476) -/

/-- Severity of an event (R476): a signature's own; four codes Fatal; Recoverable beside a rollback; else
Informational. -/
def eventSeverity (st : Status) (p : Payload) (withRollback : Bool) : Severity :=
  match p with
  | .cper g => g.severity
  | _ =>
    if st = .memStateLost ∨ st = .mssFailed ∨ st = .memReserveExhausted ∨ st = .startupFailed then .fatal
    else if withRollback then .recoverable else .informational

/-- An event queued for a set's event ring: at most 1,024 wait, later ones are counted and dropped (R375). -/
def State.queueEvent (s : State) (i : SetId) (e : Event) : State :=
  (s.updRing i (fun r =>
    if r.evs.held.length < 1024 then { r with evs := r.evs.add e } else { r with evLost := r.evLost + 1 })).flushSet i

/-- An event posted on a set's event ring and entered in the MSS log (R263, R375). -/
def State.eventFull (s : State) (i : SetId) (st : Status) (p : Payload) (withRollback : Bool) (step attempt : Nat)
    (src : LogSource) (sig : Option Signature) : State :=
  let sev := eventSeverity st p withRollback
  (s.queueEvent i ⟨st, sev, p, i.val, s.now, step, attempt⟩).addLog src sev st [i.val, step, attempt] sig

/-- An event of a set with no step. -/
def State.event (s : State) (i : SetId) (st : Status) (p : Payload) : State :=
  s.eventFull i st p false 0 0 .event none

/-- An event on the module ring set with no payload. -/
def State.modEvent (s : State) (st : Status) : State := s.event moduleSet st .none

/-! ## Completions (R218, R370) -/

/-- A submission ring of a set. -/
def RingSet.sub (r : RingSet) : SubRing → SubSt
  | .step => r.step
  | .service => r.service

/-- The ring set with a submission ring changed. -/
def RingSet.updSub (r : RingSet) (k : SubRing) (f : SubSt → SubSt) : RingSet :=
  match k with
  | .step => { r with step := f r.step }
  | .service => { r with service := f r.service }

/-- A completion queued on the completion ring of a submission ring. -/
def RingSet.addCpl (r : RingSet) (k : SubRing) (x : Completion) : RingSet :=
  match k with
  | .step => { r with cpl2 := r.cpl2.add x }
  | .service => { r with cpl3 := r.cpl3.add x }

/-- Final completions leave in ring order: the finished descriptors at the front of the list of those in effect. -/
def takeDone : List Flow → List Completion × List Flow
  | [] => ([], [])
  | f :: fs =>
    match f.done with
    | some c => (c :: (takeDone fs).1, (takeDone fs).2)
    | none => ([], f :: fs)

/-- Final completions that may leave are queued, in ring order (R218, R370). -/
def RingSet.release (r : RingSet) (k : SubRing) : RingSet :=
  let (cs, fs) := takeDone (r.sub k).flow
  (cs.foldl (fun r x => r.addCpl k x) r).updSub k (fun u => { u with flow := fs })

/-- A completion that leaves at once (PROVISIONAL, ROLLED_BACK). -/
def State.postNow (s : State) (c : CtxId) (k : SubRing) (x : Completion) : State :=
  (s.updRing (setOf c) (fun r => r.addCpl k x)).flushSet (setOf c)

/-- The final completion of the descriptor of ring index `ix`: it leaves once every earlier descriptor's has. -/
def State.finish (s : State) (c : CtxId) (k : SubRing) (ix : BitVec 32) (x : Completion) : State :=
  (s.updRing (setOf c) (fun r =>
    (r.updSub k (fun u => { u with flow := u.flow.map (fun f => if f.index = ix then { f with done := some x } else f) })).release
      k)).flushSet (setOf c)

/-- DONE for the descriptor of a ring index. -/
def State.finishDone (s : State) (c : CtxId) (k : SubRing) (ix : BitVec 32) (userTag step : Nat) (st : Status)
    (detail : Nat) : State :=
  s.finish c k ix ⟨.done, 0, st, ix, detail, step, userTag⟩

/-- A ring stops with a cause (R369): the stop shows at once; the STOPPED completion follows the final completions of
the earlier descriptors. -/
def State.stopRing (s : State) (c : CtxId) (k : SubRing) (ix : BitVec 32) (userTag step attempt : Nat) (st : Status)
    (detail : Nat) : State :=
  (s.updRing (setOf c) (fun r =>
    (r.updSub k (fun u => { u with
        stop := some st, head := none
        flow := (u.flow.filter (fun f => !(f.index == ix))) ++
          [⟨ix, .nop, userTag, some ⟨.stopped, attempt, st, ix, detail, step, userTag⟩⟩] })).release k)).flushSet (setOf c)

/-- A ring stops without a descriptor: at its consumer index, with no completion (R369). -/
def State.stopBare (s : State) (c : CtxId) (k : SubRing) (st : Status) : State :=
  s.updRing (setOf c) (fun r => r.updSub k (fun u => { u with stop := some st, head := none }))

/-! ## HBM bytes (R171): a canonical list, strictly rising, no zero listed -/

/-- What a byte of HBM that is not listed reads as: zero, as the start-up writes every stack (R428; log 4). -/
def hbmBlank : Byte := 0

/-- The byte at a DPA. -/
def hbmRead : List Host.Cell → Nat → Byte
  | [], _ => hbmBlank
  | (a, b) :: m, x => if a = x then b else hbmRead m x

/-- The contents with one byte written; a blank byte is not listed. -/
def hbmWrite (x : Nat) (v : Byte) : List Host.Cell → List Host.Cell
  | [] => if v = hbmBlank then [] else [(x, v)]
  | (a, b) :: m =>
    if x < a then (if v = hbmBlank then (a, b) :: m else (x, v) :: (a, b) :: m)
    else if x = a then (if v = hbmBlank then m else (x, v) :: m)
    else (a, b) :: hbmWrite x v m

/-- Bytes written from an address on. -/
def hbmWriteAll : Nat → List Byte → List Host.Cell → List Host.Cell
  | _, [], m => m
  | x, b :: bs, m => hbmWriteAll (x + 1) bs (hbmWrite x b m)

/-- `n` bytes read from an address on. -/
def hbmReadAll (m : List Host.Cell) (x n : Nat) : List Byte := (List.range n).map (fun i => hbmRead m (x + i))

/-- The canonical form: addresses strictly rising, no blank byte listed. -/
def hbmWf : List Host.Cell → Bool
  | [] => true
  | [(_, b)] => b != hbmBlank
  | (a, b) :: (a', b') :: m => b != hbmBlank && decide (a < a') && hbmWf ((a', b') :: m)

/-- The module's memory is in canonical form. -/
def Mem.wf (m : Mem) : Bool := hbmWf m.hbm

/-- Bytes written into HBM. -/
def State.hbmPut (s : State) (x : Nat) (bs : List Byte) : State :=
  { s with mem := { s.mem with hbm := hbmWriteAll x bs s.mem.hbm } }

/-- Bytes read from HBM. -/
def State.hbmGet (s : State) (x n : Nat) : List Byte := hbmReadAll s.mem.hbm x n

/-! ## Failure signatures (R260–R263) -/

/-- Latest sample of a sensor (R391), 0 before the first. -/
def State.sensor (s : State) (x : Sensor) : Int := AL.get 0 x s.mss.sensors

/-- The clock ceiling of a compute die in steps of 25 MHz: the lowest of its ceilings (R401). -/
def State.ceiling (s : State) (d : Nat) : Nat :=
  let g := s.gov
  let c := min (min (g.power.getD d 28) (g.junction.getD d 28)) (g.stack.getD d 28)
  if g.brakeAt.isSome then min c (g.brakeVal.getD d 7) else c

/-- The key of coalescing: a step of a context, or outside a step a window of 1 s of hub time (R263). -/
def State.sigKey (s : State) (c : Option CtxId) (step : Nat) : Option CtxId × Nat :=
  match c with
  | some c => (some c, step)
  | none => (none, s.now / 1000000)

/-- The signature with sensor samples of its die, unless it carries the conditions of a field-test case (R257), and its record
number, from 1 on since the cold reset (R488). -/
def State.fillSig (s : State) (d : Nat) (g : Signature) : Signature :=
  if g.clock ≠ 0 then { g with modNo := s.ident, count := 1, recordNo := s.hub.sigCount + 1 }
  else { g with
    temp := s.sensor (.junction (Fin.ofNat 7 (d + 1))), vdd := s.sensor (.vdd (Fin.ofNat 4 d)), clock := 25 * s.ceiling d
    modNo := s.ident, count := 1, recordNo := s.hub.sigCount + 1 }

/-- One more occurrence of a signature record: its COUNT rises here, and through the mailbox in the MSS log (R20, R263). -/
def State.bumpRecord (s : State) (n : Nat) : State :=
  let s := { s with hub := { s.hub with sigs := s.hub.sigs.map (fun (e : (Option CtxId × Nat) × Signature) => (e.1, bumpSig n e.2)) } }
  if s.inReset .mss || s.hub.mssLost then s.postMbox true (.bump s.hub.coldCount n) else s.takeBump s.hub.coldCount n

/-- A failure signature emitted: coalesced with one of the same KIND, UNIT and OUTCOME of the step, counted in the last
record beyond 64, else recorded in the log, as a PLDM event and on the event path (R263). -/
def State.emit (s : State) (c : Option CtxId) (step : Nat) (st : Status) (d : Nat) (g : Signature) : State :=
  let key := s.sigKey c step
  let same := s.hub.sigs.filter (fun e => decide (e.1 = key))
  match same.find? (fun e => e.2.kind == g.kind && e.2.unit == g.unit && e.2.outcome == g.outcome) with
  | some e => s.bumpRecord e.2.recordNo
  | none =>
    if 64 ≤ same.length then s.bumpRecord ((same.map (fun e => e.2.recordNo)).headD 0)
    else
      let g := s.fillSig d g
      let s := { s with hub := { s.hub with sigs := (key, g) :: s.hub.sigs, sigCount := s.hub.sigCount + 1 } }
      s.eventFull (match c with | some c => setOf c | none => moduleSet) st (.cper g) false step g.attempt .signature
        (some g)

/-- A signature with every field zero but those given: the kind, the outcome, the severity, the unit and its type. -/
def mkSig (kind outcome unitType unit : Nat) (sev : Severity) : Signature :=
  { kind := kind, outcome := outcome, unitType := unitType, ctx := 0, modNo := 0, count := 1, unit := unit
    referee := 0x1FF, strikes := 0, checksumPath := false, step := 0, attempt := 0, temp := 0, vdd := 0, clock := 0
    pattern := 0, seed := 0, tensor := 0, inst := 0, tileRow := 0, tileCol := 0, tile := 0, expected := 0
    observed := 0, severity := sev, recordNo := 0 }

/-! ## Version slots (R148–R151) -/

/-- The slot of version v: (v + o) mod 3 (R148). -/
def slotIx (x : Ctx) (v : Nat) : Fin 3 := Fin.ofNat 3 (v + x.slotOff)

/-- The live slot of version `v`. -/
def Ctx.liveSlot (x : Ctx) (v : Nat) : Slot := AL.get {} (slotIx x v) x.live

/-- The mirror slot of version `v`. -/
def Ctx.mirSlot (x : Ctx) (v : Nat) : Slot := AL.get {} (slotIx x v) x.mirror

/-- The live slot of a version changed. -/
def Ctx.updLive (x : Ctx) (v : Nat) (f : Slot → Slot) : Ctx := { x with live := AL.upd {} (slotIx x v) f x.live }

/-- The mirror slot of a version changed. -/
def Ctx.updMir (x : Ctx) (v : Nat) (f : Slot → Slot) : Ctx := { x with mirror := AL.upd {} (slotIx x v) f x.mirror }

end Sys2Proof.Machine
end

