-- ==== Sys2Proof/Machine/Operands.lean ====
section
/-! DEFINITION. Operand forms: status codes, descriptor kinds and fields, the update parameter record, the register forms
of the checks a descriptor meets at the head of its ring (R366–R368, R469–R472, R484–R486). -/

namespace Sys2Proof.Machine

/-- The 16-bit code of a status (R484, R486). -/
def Status.code : Status → Nat
  | .success => 0
  | .descKindInvalid => 0x0101
  | .descZeroField => 0x0102
  | .descParamInvalid => 0x0103
  | .descSeqMismatch => 0x0104
  | .ringIndexInvalid => 0x0105
  | .stepSequence => 0x0106
  | .stepReplayLimit => 0x0107
  | .featureDisabled => 0x0108
  | .restoreRequired => 0x0109
  | .replayBaseAbsent => 0x010A
  | .ctxFailed => 0x010B
  | .descContextKind => 0x010C
  | .replayNoSpace => 0x010D
  | .stepPeerStopped => 0x010E
  | .loadZeroField => 0x0201
  | .loadKRange => 0x0202
  | .loadFxrGuard => 0x0203
  | .loadScaleInvalid => 0x0204
  | .loadRotationSize => 0x0205
  | .loadTurnMode => 0x0206
  | .loadNoScan => 0x0207
  | .loadScanKeys => 0x0208
  | .loadLogSize => 0x0209
  | .loadWoodpileOrder => 0x020A
  | .loadWoodpileSize => 0x020B
  | .loadRegrowDepth => 0x020C
  | .loadTiedFormat => 0x020D
  | .loadTranslation => 0x020E
  | .loadAtomicKind => 0x020F
  | .loadKeepSize => 0x0210
  | .loadRouteAbsent => 0x0211
  | .loadCollectiveSchedule => 0x0212
  | .loadSeedbankSize => 0x0213
  | .loadSnapshotSize => 0x0214
  | .loadSaveArea => 0x0215
  | .loadFormat => 0x0216
  | .loadRngStream => 0x0217
  | .loadRecordSize => 0x0218
  | .loadImageInvalid => 0x0219
  | .acrUnsupported => 0x021A
  | .loadMicrobatch => 0x021B
  | .loadPartitionFull => 0x021C
  | .loadBuddyPlan => 0x021D
  | .woodpileFull => 0x0301
  | .gradNonfinite => 0x0302
  | .devTranslationFault => 0x0303
  | .batchRefetchMismatch => 0x0304
  | .scaleVersionTimeout => 0x0305
  | .scaleSaturation => 0x0306
  | .scaleUnderuse => 0x0307
  | .fxrOverflow => 0x0308
  | .hostPageFault => 0x0309
  | .hostPageTimeout => 0x030A
  | .hostWriteFault => 0x030B
  | .abftMismatch => 0x0401
  | .drainCheck => 0x0402
  | .turnCheck => 0x0403
  | .checkerLaneMismatch => 0x0404
  | .rakeCheck => 0x0405
  | .scanCheck => 0x0406
  | .tagMismatch => 0x0407
  | .woodpileTagMismatch => 0x0408
  | .digestMismatch => 0x0409
  | .reductionCheck => 0x040A
  | .coreTimeout => 0x040B
  | .fieldTestFail => 0x040C
  | .scratchpadParity => 0x040D
  | .corePruned => 0x040E
  | .spareRejected => 0x040F
  | .ftModeBusy => 0x0410
  | .shadowDiverged => 0x0411
  | .memParityRefetched => 0x0501
  | .cacheParity => 0x0502
  | .memStateLost => 0x0503
  | .memMapout => 0x0504
  | .memReserveLow => 0x0505
  | .memReserveExhausted => 0x0506
  | .moduleLost => 0x0601
  | .moduleSelfFence => 0x0602
  | .mssFailed => 0x0603
  | .noSpare => 0x0604
  | .guestFenced => 0x0605
  | .eolPredicted => 0x0606
  | .eolNoSpare => 0x0607
  | .saplingAdmitted => 0x0608
  | .saplingRejected => 0x0609
  | .thermalTrip => 0x060A
  | .ckptStepPast => 0x0701
  | .ckptPostponed => 0x0702
  | .checkpointDone => 0x0703
  | .ckptSnapshotLost => 0x0704
  | .ckptSeedbankError => 0x0705
  | .ckptStripeDegraded => 0x0706
  | .ckptAbandoned => 0x0707
  | .ckptNoIdentity => 0x0708
  | .restoreReceiptInvalid => 0x0709
  | .restoreStepMismatch => 0x070A
  | .restoreShapeMismatch => 0x070B
  | .restoreAcrMismatch => 0x070C
  | .restoreSourceAbsent => 0x070D
  | .restoreStripeLost => 0x070E
  | .restoreDigestMismatch => 0x070F
  | .restorePeerFailed => 0x0710
  | .exportStepAbsent => 0x0711
  | .exportBusy => 0x0712
  | .exportRefused => 0x0713
  | .linkPortDown => 0x0801
  | .linkPortFenced => 0x0802
  | .linkLaserExhausted => 0x0803
  | .linkPlanMismatch => 0x0804
  | .linkLevelLow => 0x0805
  | .linkWiringMismatch => 0x0806
  | .linkSwapAccepted => 0x0807
  | .linkSwapFound => 0x0808
  | .fabHopLimit => 0x0809
  | .fabGroveDenied => 0x080A
  | .fabClearingDenied => 0x080B
  | .transitDenied => 0x080C
  | .routeDenied => 0x080D
  | .cxlPortDegraded => 0x0901
  | .cxlPortFailover => 0x0902
  | .eventsLost => 0x0903
  | .windowAccessDenied => 0x0904
  | .bankInvalid => 0x0905
  | .profileInvalid => 0x0A01
  | .profileInUse => 0x0A02
  | .powerBrake => 0x0A03
  | .fwFallback => 0x0A04
  | .fwNone => 0x0A05
  | .fwVerifyFailed => 0x0A06
  | .fwRollbackRefused => 0x0A07
  | .fwActivateBusy => 0x0A08
  | .hedgeViolation => 0x0A09
  | .secDebugState => 0x0A0A
  | .debugTokenInvalid => 0x0A0B
  | .debugBusy => 0x0A0C
  | .pllUnlock => 0x0B01
  | .refclkLost => 0x0B02
  | .trellisLaneRepaired => 0x0B03
  | .trellisDegraded => 0x0B04
  | .startupDone => 0x0B05
  | .startupFailed => 0x0B06
  | .pwrStateBusy => 0x0B07
  | .bistPass => 0x0B08
  | .bistFail => 0x0B09
  | .bistBusy => 0x0B0A
  | .bistWindow => 0x0B0B
  | .bistNoSignature => 0x0B0C
  | .bistAborted => 0x0B0D

/-- The code of a completion kind (R473). -/
def CKind.code : CKind → Nat
  | .done => 0
  | .provisional => 1
  | .rolledBack => 2
  | .committed => 3
  | .stopped => 4

/-- The code of a severity (R260). -/
def Severity.code : Severity → Nat
  | .recoverable => 0
  | .fatal => 1
  | .corrected => 2
  | .informational => 3

/-- The kind a descriptor's KIND byte names (R471). -/
def DescKind.ofCode : Nat → Option DescKind
  | 0x00 => some .nop
  | 0x01 => some .loadProgram
  | 0x02 => some .unloadProgram
  | 0x03 => some .step
  | 0x04 => some .generate
  | 0x05 => some .replay
  | 0x06 => some .restore
  | 0x07 => some .acrSwitch
  | 0x08 => some .upload
  | 0x10 => some .checkpoint
  | 0x11 => some .exportSnapshot
  | 0x12 => some .exportRelease
  | 0x13 => some .importSnapshot
  | 0x14 => some .fieldTest
  | 0x15 => some .windowMap
  | 0x16 => some .windowUnmap
  | _ => none

/-- The rings a descriptor kind is valid on (R359, R471). -/
def DescKind.validOn : DescKind → SubRing → Bool
  | .nop, _ => true
  | .loadProgram, k | .unloadProgram, k | .step, k | .generate, k | .replay, k | .restore, k | .acrSwitch, k
  | .upload, k => k == .step
  | .checkpoint, k | .exportSnapshot, k | .exportRelease, k | .importSnapshot, k | .fieldTest, k | .windowMap, k
  | .windowUnmap, k => k == .service

/-! ## Descriptor fields (R470, R471) -/

/-- SEQ. -/
def dSeq (b : List Byte) : Nat := field b 0 4
/-- KIND. -/
def dKind (b : List Byte) : Nat := field b 4 1
/-- USER_TAG. -/
def dTag (b : List Byte) : Nat := field b 8 8
/-- STEP, BASE of a REPLAY: bytes 16–21. -/
def dStep (b : List Byte) : Nat := field b 16 6
/-- IMAGE_LEN of a LOAD_PROGRAM. -/
def dImageLen (b : List Byte) : Nat := field b 24 8
/-- BATCH_LEN. -/
def dBatchLen (b : List Byte) : Nat := field b 32 8
/-- UPDATE_ADDR. -/
def dUpdateAddr (b : List Byte) : Nat := field b 40 8
/-- RNG_KEY of a STEP. -/
def dRngKey (b : List Byte) : Nat := field b 48 8
/-- HOST_OUT_ADDR. -/
def dHostOut (b : List Byte) : Nat := field b 56 8
/-- ROWS of a GENERATE. -/
def dRows (b : List Byte) : Nat := field b 16 2
/-- OUTPUT_ADDR of a GENERATE. -/
def dOutputAddr (b : List Byte) : Nat := field b 32 8
/-- COUNT of a REPLAY. -/
def dCount (b : List Byte) : Nat := field b 24 2
/-- SOURCE of a RESTORE: 0 seedbank, 1 stripe, 2 host. -/
def dSource (b : List Byte) : Nat := field b 22 1
/-- SOURCE_ID of a RESTORE, [11:0]. -/
def dSourceId (b : List Byte) : Nat := field b 24 2 % 4096
/-- ACR of an ACR_SWITCH. -/
def dAcr (b : List Byte) : Nat := field b 16 2
/-- N_s of an ACR_SWITCH. -/
def dNs (b : List Byte) : Nat := field b 24 6
/-- DST_DVA of an UPLOAD. -/
def dDstDva (b : List Byte) : Nat := field b 24 8
/-- BLOCK_COUNT of an UPLOAD. -/
def dBlockCount (b : List Byte) : Nat := field b 32 4
/-- BLOCK_LEN of an UPLOAD. -/
def dBlockLen (b : List Byte) : Nat := field b 36 4
/-- TARGET of an EXPORT_SNAPSHOT: 0 window, 1 fabric. -/
def dTarget (b : List Byte) : Nat := field b 22 1
/-- FIRST of an EXPORT_SNAPSHOT. -/
def dFirst (b : List Byte) : Nat := field b 24 4
/-- RANGE_LEN, PAGE_COUNT: bytes 28–31. -/
def dLen (b : List Byte) : Nat := field b 28 4
/-- WINDOW_PAGE. -/
def dWindowPage (b : List Byte) : Nat := field b 32 4
/-- DEST_MODULE [11:0]. -/
def dDestModule (b : List Byte) : Nat := field b 36 2 % 4096
/-- DEST_CLEARING [11:0]. -/
def dDestClearing (b : List Byte) : Nat := field b 38 2 % 4096
/-- SRC_MODULE [11:0]. -/
def dSrcModule (b : List Byte) : Nat := field b 24 2 % 4096
/-- SRC_CLEARING [11:0]. -/
def dSrcClearing (b : List Byte) : Nat := field b 26 2 % 4096
/-- SHARD. -/
def dShard (b : List Byte) : Nat := field b 28 4
/-- MODE of a FIELD_TEST: 0 rolling, 1 full. -/
def dMode (b : List Byte) : Nat := field b 16 1
/-- CONDITIONS of a FIELD_TEST (R472). -/
def dConditions (b : List Byte) : Nat := field b 17 1
/-- CASES of a FIELD_TEST. -/
def dCases (b : List Byte) : Nat := field b 18 2
/-- SEED of a FIELD_TEST. -/
def dSeed (b : List Byte) : Nat := field b 20 8
/-- CORE_MASK of a FIELD_TEST: bit 72d + c for core c of die d. -/
def dCoreMask (b : List Byte) : Nat := field b 28 36
/-- DVA_PAGE of a WINDOW_MAP. -/
def dDvaPage (b : List Byte) : Nat := field b 40 4 % 1048576

/-- The step a completion names (R473): STEP, RESTORE and CHECKPOINT name theirs, the others 0. -/
def DescKind.stepOf (k : DescKind) (b : List Byte) : Nat :=
  match k with
  | .step | .restore | .checkpoint => dStep b
  | _ => 0

/-- The byte offset of a field that must not be 0 and is (R366). -/
def zeroRejected (k : DescKind) (b : List Byte) : List Nat :=
  match k with
  | .loadProgram => if dImageLen b = 0 then [24] else []
  | .upload => if dBlockLen b = 0 then [36] else []
  | _ => []

/-- A field that makes the descriptor an ordered no-op is 0 (R366). -/
def zeroNoop (k : DescKind) (b : List Byte) : Bool :=
  match k with
  | .generate => dRows b == 0
  | .replay => dCount b == 0
  | .upload => dBlockCount b == 0
  | .exportSnapshot | .exportRelease => dLen b == 0
  | .fieldTest => dCases b == 0 || dCoreMask b == 0
  | .windowMap | .windowUnmap => dLen b == 0
  | _ => false

/-! ## Writes of BAR0 -/

/-- A write of BAR0 is taken: in Dormant, of the PWR block alone (R434, R448). -/
def State.barTakes (s : State) (a : Nat) : Bool := decide (s.hub.power ≠ .dormant) || blockOf a == 12

/-! ## The update parameter record (R157, R158) -/

/-- The record laid out in 64 bytes. -/
def updOfBytes (b : List Byte) : UpdateRec :=
  let w (i : Nat) : BitVec 32 := BitVec.ofNat 32 (field b (4 * i) 4)
  { program := field b 0 1, nesterov := bitOf (field b 0 4) 8, nonfinite := bitOf (field b 0 4) 9, alpha := w 1
    beta1 := w 2, beta2 := w 3, eps := w 4, lambda := w 5, tau := w 6 }

/-- The 64 bytes of a record. -/
def bytesOfUpd (u : UpdateRec) : List Byte :=
  leBytes 4 (u.program + (if u.nesterov then 256 else 0) + (if u.nonfinite then 512 else 0)) ++ leBytes 4 u.alpha.toNat ++
  leBytes 4 u.beta1.toNat ++ leBytes 4 u.beta2.toNat ++ leBytes 4 u.eps.toNat ++ leBytes 4 u.lambda.toNat ++
  leBytes 4 u.tau.toNat ++ leBytes 36 0

/-- An FP32 value is finite and at least 0. -/
def finNonneg (w : BitVec 32) : Bool := (f32 w).isFin && !(f32 w).lt (XV.ofInt 0)

/-- An FP32 value lies in [0, 1). -/
def unitRange (w : BitVec 32) : Bool := finNonneg w && (f32 w).lt (XV.ofInt 1)

/-- Offsets of fields of the record that are 0 in a divisor (R158). -/
def updZero (u : UpdateRec) : List Nat :=
  (if u.program = 1 ∧ (f32 u.eps).isZero then [16] else []) ++ (if (f32 u.tau).isZero then [24] else [])

/-- Offsets of fields of the record outside the ranges of R157. -/
def updRange (u : UpdateRec) : List Nat :=
  (if u.program = 1 ∨ u.program = 2 then [] else [0]) ++ (if finNonneg u.alpha then [] else [4]) ++
  (if unitRange u.beta1 then [] else [8]) ++ (if u.program = 2 ∨ unitRange u.beta2 then [] else [12]) ++
  (if u.program = 2 ∨ (finNonneg u.eps && !(f32 u.eps).isZero) then [] else [16]) ++
  (if finNonneg u.lambda then [] else [20]) ++ (if (XV.ofInt 0).lt (f32 u.tau) then [] else [24])

/-! ## Range checks of descriptors (R368 step 3, R469, R471, R472) -/

/-- WINDOW_PAGE plus the page or block count exceeds 32,768 (R471). -/
def windowRange (b : List Byte) : List Nat := if 32768 < dWindowPage b + dLen b then [32] else []

/-- The table entry of a DVA page is VALID, permits writes and names the working partition (R185). -/
def pageWritable (x : Ctx) (page : Nat) : Bool :=
  let e := (AL.get 0 page x.pages).toNat
  bitOf e 0 && bitOf e 2 && bitsOf e 5 3 == 6

/-- Offsets of the fields of a descriptor outside their range. -/
def rangeBad (x : Ctx) (k : DescKind) (b : List Byte) : List Nat :=
  match k with
  | .loadProgram => if dImageLen b ≤ 2 ^ 31 then [] else [24]
  | .step =>
    match x.prog with
    | some p =>
      (if dBatchLen b = p.batchBytes then [] else [32]) ++ (if dUpdateAddr b = 0 ∧ x.lastUpd.isNone then [40] else []) ++
      (if dHostOut b = 0 ∧ (p.hostWrites ++ p.metricWrites).isEmpty = false then [56] else [])
    | none => []
  | .generate => if dRows b ≤ 4096 then [] else [16]
  | .replay => if dCount b ≤ 256 then [] else [24]
  | .restore => if dSource b ≤ 2 then [] else [22]
  | .upload =>
    (if dDstDva b < 2 ^ 41 ∧ pageWritable x (dDstDva b / 2 ^ 21) = true then [] else [24]) ++
    (if dBlockLen b ≤ 2097152 then [] else [36])
  | .exportSnapshot => (if dTarget b ≤ 1 then [] else [22]) ++ (if dTarget b = 0 then windowRange b else [])
  | .exportRelease | .windowMap | .windowUnmap => windowRange b
  | .fieldTest =>
    (if dMode b ≤ 1 then [] else [16]) ++ (if dMode b = 0 ∧ dConditions b ≠ 0 then [17] else [])
  | _ => []

/-- Whether a descriptor kind suits what the context holds (R367): none, a training or a rollout program. -/
def DescKind.suits (k : DescKind) (x : Ctx) : Bool :=
  match x.prog.map (·.kind) with
  | none =>
    match k with
    | .unloadProgram | .loadProgram | .nop | .fieldTest | .exportRelease | .windowUnmap => true
    | _ => false
  | some .training =>
    match k with
    | .generate => false
    | .loadProgram => x.unloading
    | _ => true
  | some .rollout =>
    match k with
    | .step | .replay | .restore | .checkpoint | .exportSnapshot | .importSnapshot => false
    | .loadProgram => x.unloading
    | _ => true

end Sys2Proof.Machine
end

