-- ==== Sys2Proof/Machine/HostRings.lean ====
section
/-! DEFINITION. Doorbells, the check of a descriptor at the head of its ring, progress records, and the restart of a
stopped ring (R359–R375, R217, R369, R470–R474). -/

namespace Sys2Proof.Machine

/-! ## What several commands of the host path share -/

/-- A context is paused on this module: a source of its own or of another module of its clearing is set (R382). -/
def Ctx.paused (x : Ctx) : Bool := x.pauseHost || x.pausePage || !x.pausePeers.isEmpty

/-- The command processor can act: it is out of reset, the module has been Ready, and it is not Dormant (R270, R427,
R434). -/
def State.cpRuns (s : State) : Bool :=
  !s.inReset .cp && s.hub.firstReady && decide (s.hub.power ≠ .dormant) && !s.hub.dead

/-- Rings are served: the command processor runs and some host port is usable. -/
def State.served (s : State) : Bool := s.cpRuns && (s.usable .a || s.usable .b)

/-- Wake from Asleep: a descriptor took effect or a packet arrived (R432). -/
def State.wake (s : State) : State :=
  if s.hub.power = .asleep then { s with hub := { s.hub with power := .waking, goingTo := 0, wakeNext := false } }
  else if s.hub.power = .entering ∧ s.hub.goingTo = 1 then { s with hub := { s.hub with wakeNext := true } }
  else s

/-- The descriptor at the head of a ring takes effect (R217): the ring moves on, and its completion is awaited. -/
def State.takeEffect (s : State) (c : CtxId) (k : SubRing) (q : QDesc) : State :=
  (s.updRing (setOf c) (fun r => r.updSub k (fun u => { u with
    consumer := u.consumer + 1, head := none, flow := u.flow ++ [⟨q.index, q.kind, dTag q.bytes, none⟩] }))).wake

/-- The head descriptor of a ring, if it is of kind `kd`. -/
def State.headOf (s : State) (c : CtxId) (k : SubRing) (kd : DescKind) : Option QDesc :=
  match ((s.ring (setOf c)).sub k).head with
  | some q => if q.kind = kd then some q else none
  | none => none

/-- A descriptor takes effect and completes DONE at once with a status. -/
def State.effectDone (s : State) (c : CtxId) (k : SubRing) (q : QDesc) (st : Status) (detail : Nat) : State :=
  (s.takeEffect c k q).finishDone c k q.index (dTag q.bytes) (q.kind.stepOf q.bytes) st detail

/-- The ring stops at the descriptor at its head (R369). -/
def State.stopHead (s : State) (c : CtxId) (k : SubRing) (q : QDesc) (st : Status) (detail : Nat) : State :=
  s.stopRing c k q.index (dTag q.bytes) (q.kind.stepOf q.bytes) 0 st detail

/-- A ring stops for a cause that is not its descriptor's own (R364, R369): at the descriptor that waits at its head, or at one
posted and not yet read, whose tag and step are free values here (log 50); with none posted, or if it has stopped already,
without a completion. -/
def State.stopPosted (s : State) (c : CtxId) (k : SubRing) (st : Status) : State :=
  let u := (s.ring (setOf c)).sub k
  if u.stop.isSome then s.stopBare c k st
  else
    match u.head with
    | some q => s.stopHead c k q st 0
    | none =>
      if u.consumer = u.producer then s.stopBare c k st
      else
        let v := s.draw.1
        s.draw.2.stopRing c k u.consumer (v % 2 ^ 64) (v / 2 ^ 64 % 2 ^ 48) 0 st 0

/-- The descriptor of a kind that has taken effect and has not ended. -/
def State.flowOf (s : State) (c : CtxId) (k : SubRing) (kd : DescKind) : Option Flow :=
  ((s.ring (setOf c)).sub k).flow.find? (fun f => decide (f.kind = kd) && f.done.isNone)

/-- The ring stops at a descriptor that had taken effect: it is rewound to it (R206, R369). -/
def State.stopAfterEffect (s : State) (c : CtxId) (k : SubRing) (f : Flow) (step : Nat) (st : Status) : State :=
  (s.updRing (setOf c) (fun r => r.updSub k (fun u => { u with consumer := f.index }))).stopRing c k f.index f.userTag step 0 st 0

/-- The parts of a Kiyth record of a given length (R477). -/
def kiythParts (k : Kiyth) : List KiythPart :=
  let n := cdiv k.totalLen 65472
  (List.range n).map (fun i => ⟨i, n, min 65472 (k.totalLen - 65472 * i), k⟩)

/-- A committed step's Kiyth record goes to the record ring, and the ledger notes its last part (R202 action 6, R214). -/
def State.streamKiyth (s : State) (c : CtxId) (k : Kiyth) : State :=
  let s := s.updRing (setOf c) (fun r => { r with recs := (kiythParts k).foldl (fun w p => w.add p) r.recs })
  let w := (s.ring (setOf c)).recs
  let last := w.next + w.held.length - 1
  (s.updCtx c (fun x => { x with ledger := x.ledger.map (fun l =>
    if l.step = k.step then { l with lastIx := some last } else l) })).flushSet (setOf c)

/-- A checkpoint is due at the commit of step `n`: by its interval, by a descriptor in effect, or postponed (R296, R299). -/
def State.ckptIsDue (s : State) (c : CtxId) (n : Nat) : Bool :=
  let x := s.ctx c
  let iv := bitsOf (s.reg (aCkptPol c.val)) 23 8
  (decide (iv ≠ 0) && n % iv == 0) || x.ckptNamed.any (fun e => e.1 == n) || x.postponed

/-- A drain of the context has a destination that has not ended. -/
def Ctx.draining (x : Ctx) : Bool := x.drain.any (fun d => d.sDone.isNone || d.gDone.isNone)

/-- A context runs a quick copy, a drain or an export (R297, R433). -/
def Ctx.copying (x : Ctx) : Bool := x.draining || x.quick.isSome || !x.exports.isEmpty

/-- The context's snapshot region is in use: a drain, a quick copy, a rebuild, or an export, whose window stands until it is released
(R189, R299). -/
def State.snapshotBusy (s : State) (c : CtxId) : Bool :=
  (s.ctx c).copying || s.mem.repairs.any (fun e => match e.1 with
    | .snapshot d _ => decide (d = c)
    | _ => false)

/-- Action 7 of a commit: a checkpoint due takes its reference on the slot and contributes the busy flag (R202, R299, R300). A
checkpoint whose all-reduce still runs counts as one that will use the region (DEDUCED, log 135). -/
def State.ckptAtCommit (s : State) (c : CtxId) (n : Nat) : State :=
  if s.ckptIsDue c n then
    let busy := s.snapshotBusy c || !(s.ctx c).ckptDue.isEmpty
    let s := s.updCtx c (fun x => { (x.updLive n (fun u => { u with readers := u.readers + 1, snapRef := true })) with
      ckptDue := x.ckptDue ++ [n] })
    s.send (.contribute c (.ckptBusy n) (if busy then 1 else 0))
  else s

/-- Commits whose completion waited on a full ring go on once it is posted: their records stream, and a checkpoint due at them
starts (R202 actions 6 and 7, R372). -/
def State.commitTail (s : State) (c : CtxId) : State :=
  if (s.ring (setOf c)).cpl2.held.isEmpty then
    let ks := (s.ctx c).commitWait
    ks.foldl (fun s k => (s.streamKiyth c k).ckptAtCommit c k.step) (s.updCtx c (fun x => { x with commitWait := [] }))
  else s

/-- Ledger records the host has consumed are freed (R214, R477). -/
def State.freeLedger (s : State) (c : CtxId) : State :=
  let done := (s.ring (setOf c)).recs.consumer
  s.updCtx c (fun x => { x with ledger := x.ledger.filter (fun l =>
    match l.lastIx with
    | some i => decide (done ≤ i)
    | none => true) })

/-! ## Doorbells (R362–R364) -/

/-- A consumer value: valid if it lies between the last one accepted and the entries written; the ring takes it. -/
def WRing.consume {α : Type} (w : WRing α) (v : Nat) : Option (WRing α) :=
  let d := (v + 2 ^ 32 - w.consumer % 2 ^ 32) % 2 ^ 32
  if d ≤ w.next - w.consumer then some { w with consumer := w.consumer + d } else none

/-- A consumer value that is not valid is ignored, counted, and reported once (R364), with the value (DESIGN CHOICE, log 156). -/
def State.badConsumer (s : State) (i : SetId) (k v : Nat) : State :=
  let seen := AL.get [] k (s.ring i).badCons
  if seen.contains v then s
  else (s.updRing i (fun r => { r with badCons := AL.upd [] k (fun l => l ++ [v]) r.badCons })).event moduleSet
    .ringIndexInvalid (.count v)

/-- The consumer words of a doorbell line (R362), each for its ring while that is enabled. -/
def State.doorConsumers (s : State) (i : SetId) (w : List Word) : State :=
  let v (k : Nat) : Nat := (w.getD k 0).toNat
  let s := if i = moduleSet ∨ s.ringOn i 2 = false then s else
    match (s.ring i).cpl2.consume (v 2) with
    | some x => s.updRing i (fun r => { r with cpl2 := x })
    | none => s.badConsumer i 2 (v 2)
  let s := if i = moduleSet ∨ s.ringOn i 3 = false then s else
    match (s.ring i).cpl3.consume (v 3) with
    | some x => s.updRing i (fun r => { r with cpl3 := x })
    | none => s.badConsumer i 3 (v 3)
  let s := if i = moduleSet ∨ s.ringOn i 4 = false then s else
    match (s.ring i).recs.consume (v 4) with
    | some x => s.updRing i (fun r => { r with recs := x })
    | none => s.badConsumer i 4 (v 4)
  let s := if s.ringOn i 5 = false then s else
    match (s.ring i).evs.consume (v 5) with
    | some x => s.updRing i (fun r => { r with evs := x })
    | none => s.badConsumer i 5 (v 5)
  if i = moduleSet ∨ s.ringOn i 6 = false then s else
    match (s.ring i).reps.consume (v 6) with
    | some x => s.updRing i (fun r => { r with reps := x })
    | none => s.badConsumer i 6 (v 6)

/-- A producer word: kept; the ring stops at C when more descriptors are posted than it holds (R364). -/
def State.doorProducer (s : State) (c : CtxId) (k : SubRing) (kind : Nat) (p : Word) : State :=
  if s.ringOn (setOf c) kind then
    let u := (s.ring (setOf c)).sub k
    let s := s.updRing (setOf c) (fun r => r.updSub k (fun u => { u with producer := p }))
    if u.stop.isNone && decide (s.ringSize (setOf c) kind < (p - u.consumer).toNat) then
      s.stopPosted c k .ringIndexInvalid
    else s
  else s

/-- What the command processor does with the words of a doorbell line it read (R362–R364). -/
def State.readDoorbell (s : State) (i : SetId) (w : List Word) : State :=
  if s.served then
    let s := s.doorConsumers i w
    if h : i.val < 16 then
      let c : CtxId := ⟨i.val, h⟩
      let s := s.doorProducer c .step 0 (w.getD 0 0)
      let s := s.doorProducer c .service 1 (w.getD 1 0)
      (((s.flushSet i).freeLedger c).commitTail c)
    else s.flushSet i
  else s

/-- DOORBELL_SNOOP (R363): the line was invalidated; the command processor reads it again and acts on its words. -/
def execDoorbellSnoop (set : SetId) (line : DoorbellLine) (s : State) : Host.Outcome State Fault Refusal :=
  .next (s.readDoorbell set line)

/-- DOORBELL_PERIODIC_READ (R363): every line is read again once per millisecond. -/
def execDoorbellPeriodicRead (lines : List (SetId × DoorbellLine)) (s : State) : Host.Outcome State Fault Refusal :=
  .next (lines.foldl (fun s l => s.readDoorbell l.1 l.2) s)

/-! ## The descriptor at the head of its ring (R365–R368) -/

/-- The contract levels this module knows of a context's clearing: its own, those neighbours announce, those declared for the
context at admissions and replacements (R293, R333; a member that is no neighbour and that no declaration has named counts for nothing,
log 164). -/
def State.commonLevel (s : State) (c : CtxId) : Nat :=
  let slot := if s.mss.activeB then s.mss.slotB else s.mss.slotA
  let own := (slot.bundle.map (·.level)).getD 0
  let ms := s.groveMembers c
  let near := s.link.ports.filterMap (fun e => e.2.beacon.bind (fun b => if ms.contains b.ident || b.sapling then some b.level else none))
  (near ++ (s.grove.modLevel.filter (fun e => decide (e.1.1 = c))).map (fun e => e.2)).foldl min own

/-- A feature above the clearing's common level: a descriptor kind the active build lists with a higher level (R293). -/
def State.featureOff (s : State) (c : CtxId) (code : Nat) : Bool :=
  let slot := if s.mss.activeB then s.mss.slotB else s.mss.slotA
  let lvl := AL.get 255 c s.grove.levels
  match slot.bundle with
  | some b => b.kinds.any (fun e => e.1 == code && decide (lvl < e.2))
  | none => false

/-- Both rings of a context stop with CTX_FAILED, posted on the module event ring, and the context's clearing treats it
as the loss of this module's part of the job (R384). The event carries the context (DESIGN CHOICE, log 156). -/
def State.failContext (s : State) (c : CtxId) : State :=
  let s := (s.stopPosted c .step .ctxFailed).stopPosted c .service .ctxFailed
  let s := s.event moduleSet .ctxFailed (.count c.val)
  if s.inClearing then s.send (.suspect c (s.steward c) s.ident) else s

/-- A pause source of this module set: PAUSE goes to the steward when it is the first (R382). -/
def State.setPause (s : State) (c : CtxId) (f : Ctx → Ctx) : State :=
  let x := s.ctx c
  let s' := s.updCtx c f
  if !(x.pauseHost || x.pausePage) && (((s'.ctx c).pauseHost) || (s'.ctx c).pausePage) then s'.send (.pause c s.ident true) else s'

/-- A deferred host write never pauses its context (R383). -/
def PageFor.pauses : PageFor → Bool
  | .deferredWrite .. => false
  | _ => true

/-- The PASID of a context's accesses; none where PASID_EN is 0 (R357, R358). -/
def State.pasidOf (s : State) (c : CtxId) : Option Nat :=
  let r := s.reg (aCtxCfg c.val)
  if bitOf r 1 then some (bitsOf r 21 2) else none

/-- The port a context's accesses use: that of its step ring (R376). -/
def State.hostPort (s : State) (c : CtxId) : HostPort := (s.ringPort (setOf c) 0).getD .a

/-- A host access of a context at an address is translated: the translation stands in the port's cache, the oldest leaving it
(R357). -/
def State.hostAccess (s : State) (c : CtxId) (addr : Nat) : State :=
  let e : Option Nat × Nat := (s.pasidOf c, addr / 4096)
  s.updCxl (s.hostPort c) (fun x => { x with atc := (e :: x.atc.filter (fun q => q != e)).take 8192 })

/-- Data of a step, or of a request by its ring index, written into host memory (R221, R371). -/
def State.hostWrite (s : State) (c : CtxId) (n addr len : Nat) : State :=
  let s := s.hostAccess c addr
  { s with out := { s.out with hostData := (c, n, addr, len) :: s.out.hostData } }

/-- The host address of data a descriptor names (R471). -/
def dDataAddr (b : List Byte) : Nat :=
  match DescKind.ofCode (dKind b) with
  | some .restore => if dSource b = 2 then field b 32 8 else field b 40 8
  | some .acrSwitch => field b 32 8
  | some .step | some .generate => field b 24 8
  | _ => field b 16 8

/-- The host address an access starts at (R378, R471). -/
def State.pageBase (s : State) (c : CtxId) : PageFor → Nat
  | .stepBatch n => (((s.ctx c).steps.find? (fun t => t.number == n)).map (fun t => dDataAddr t.desc.bytes)).getD 0
  | .updateRec desc => dUpdateAddr desc
  | .descData => ((s.ring (setOf c)).step.head.map (fun q => dDataAddr q.bytes)).getD 0
  | .deferredWrite _ addr _ => addr
  | .generateOut _ addr _ => addr
  | .metric | .ringLine => 0

/-- A page request of a context goes out through PRI (R378); with PAUSE_US at 0 it pauses the context at once (R379, R380). -/
def State.pageRequest (s : State) (c : CtxId) (what : PageFor) (off : Nat) : State :=
  let n := s.cxl.nextPri
  let cfg := s.reg aPriCfg
  let now := what.pauses && bitsOf cfg 15 0 == 0
  let page := (s.pageBase c what + off) / 4096
  let s := { s with
    cxl := { s.cxl with
      pris := AL.set n ⟨s.pasidOf c, page, s.now, bitsOf cfg 15 0, bitsOf cfg 31 16, c, what, off, s.hostPort c, now⟩ s.cxl.pris
      nextPri := n + 1 }
    out := { s.out with pris := (n, s.pasidOf c, page) :: s.out.pris } }
  if now then s.setPause c (fun x => { x with pausePage := true }) else s

/-- What a transfer has delivered so far (R381). -/
def Ctx.delivered (x : Ctx) (what : PageFor) : List Byte :=
  ((x.transfers.find? (fun t => decide (t.what = what))).map (fun t => t.got)).getD []

/-- A transfer of a context ends. -/
def Ctx.endTransfer (x : Ctx) (what : PageFor) : Ctx :=
  { x with transfers := x.transfers.filter (fun t => decide (t.what ≠ what)) }

/-- A fetch stops at the first byte a failed translation covers: its offset and what it delivered are kept, and the page is asked for
(R378, R381). -/
def State.fetchStops (s : State) (c : CtxId) (what : PageFor) (off : Nat) (got : List Byte) : State :=
  (s.updCtx c (fun x => { x.endTransfer what with transfers := x.transfers.filter (fun t => decide (t.what ≠ what)) ++
    [⟨what, off, x.delivered what ++ got⟩] })).pageRequest c what off

/-- The blocks of a fetch that ends: where it resumed, what was delivered before with what came from the saved offset on (R381). -/
def Ctx.wholeBlocks (x : Ctx) (what : PageFor) (size : Nat) (rest : List (List Byte)) : List (List Byte) :=
  match x.delivered what with
  | [] => rest
  | got =>
    let all := got ++ rest.flatten
    (List.range (cdiv all.length size)).map (fun i => (all.drop (i * size)).take size)

/-- The stop of a ring at the descriptor being checked. -/
def State.stopAtDesc (s : State) (c : CtxId) (k : SubRing) (b : List Byte) (st : Status) (detail : Nat) : State :=
  let ix := ((s.ring (setOf c)).sub k).consumer
  let step := match DescKind.ofCode (dKind b) with
    | some kd => kd.stepOf b
    | none => 0
  s.stopRing c k ix (dTag b) step 0 st detail

/-- The update record a STEP names: its own, or the context's previous one (R157). -/
def stepUpd (x : Ctx) (b update : List Byte) : UpdateRec :=
  if dUpdateAddr b = 0 then x.lastUpd.getD {} else updOfBytes update

/-- A STEP names an update record: its own, or the context has an earlier one (R157, R471). -/
def namesUpd (x : Ctx) (b : List Byte) : Bool := dUpdateAddr b != 0 || x.lastUpd.isSome

/-- Offsets of zero fields that stop a descriptor (R366, R158). -/
def zeroBad (x : Ctx) (kd : DescKind) (b : List Byte) (u : UpdateRec) : List Nat :=
  zeroRejected kd b ++ (if kd = .step ∧ namesUpd x b = true then (updZero u).map (0x100 + ·) else [])

/-- Offsets of fields out of range (R158, R469). -/
def paramBad (x : Ctx) (kd : DescKind) (b : List Byte) (u : UpdateRec) : List Nat :=
  rangeBad x kd b ++ (if kd = .step ∧ namesUpd x b = true then (updRange u).map (0x100 + ·) else [])

/-- Step 1 of R368: the kind, the context, and the restriction after MEM_STATE_LOST. -/
def headKindBad (s : State) (c : CtxId) (k : SubRing) (kd : DescKind) : Option Status :=
  let x := s.ctx c
  if kd.validOn k = false then some .descKindInvalid
  else if kd.suits x = false then some .descContextKind
  else if k = .step ∧ x.needRestore = true ∧ kd ≠ .restore ∧ kd ≠ .unloadProgram ∧ kd ≠ .nop then some .restoreRequired
  else none

/-- The check of a descriptor of a known kind: the ring stops, the descriptor completes as an ordered no-op, or it waits
at the head for its condition (R368). -/
def State.headCheck (s : State) (c : CtxId) (k : SubRing) (kd : DescKind) (b update : List Byte) : State :=
  let x := s.ctx c
  let ix := ((s.ring (setOf c)).sub k).consumer
  let u := stepUpd x b update
  let q : QDesc := ⟨ix, kd, b, u⟩
  match headKindBad s c k kd with
  | some st => s.stopAtDesc c k b st 0
  | none =>
    if s.featureOff c (dKind b) then s.stopAtDesc c k b .featureDisabled 0
    else
      match zeroBad x kd b u with
      | z :: zs => let (off, s) := s.pick 0 (z :: zs); s.stopAtDesc c k b .descZeroField off
      | [] =>
        match paramBad x kd b u with
        | z :: zs => let (off, s) := s.pick 0 (z :: zs); s.stopAtDesc c k b .descParamInvalid off
        | [] =>
          if zeroNoop kd b || decide (kd = .nop) || (decide (kd = .unloadProgram) && x.prog.isNone) then
            s.effectDone c k q .success 0
          else
            let s := if k = .step then s.updCtx c (fun x => x.endTransfer .descData) else s
            s.updRing (setOf c) (fun r => r.updSub k (fun v => { v with head := some q }))

/-- The ring can read a descriptor: it is enabled, its context open, it has not stopped, no descriptor waits at its head
and one is posted. -/
def State.canRead (s : State) (c : CtxId) (k : SubRing) : Bool :=
  let u := (s.ring (setOf c)).sub k
  s.served && s.enabled c && s.ringOn (setOf c) (if k = .step then 0 else 1) && u.stop.isNone &&
    u.head.isNone && decide (u.consumer ≠ u.producer)

/-- DESCRIPTOR_HEAD_CHECK (R368): a descriptor reaches the head of its ring. A slot of fewer than 64 bytes is one whose
translation failed at that offset, and so is an update record (R383, log 7). -/
def execDescriptorHeadCheck (c : CtxId) (ring : SubRing) (desc update : List Byte) (s : State) :
    Host.Outcome State Fault Refusal :=
  .next (
    if s.canRead c ring then
      if desc.length < 64 then s.failContext c
      else if dSeq desc ≠ (((s.ring (setOf c)).sub ring).consumer + 1).toNat then
        s.stopAtDesc c ring desc .descSeqMismatch 0
      else
        match DescKind.ofCode (dKind desc) with
        | none => s.stopAtDesc c ring desc .descKindInvalid 0
        | some kd =>
          if kd = .step ∧ ring = .step ∧ dUpdateAddr desc ≠ 0 ∧ update.length < 64 then
            s.pageRequest c (.updateRec desc) update.length
          else s.headCheck c ring kd desc update
    else s)

/-! ## Progress records (R373, R474) -/

/-- CP_CTX_STATUS_c.STATE (R358). -/
def State.ctxState (s : State) (c : CtxId) : Nat :=
  let x := s.ctx c
  if s.enabled c = false then 0
  else if x.paused then 4
  else if x.loaded = false then 1
  else if x.steps.isEmpty && x.batches.isEmpty && x.replaying.isNone then 2 else 3

/-- CP_CTX_STATUS_c (R358). -/
def State.ctxStatus (s : State) (c : CtxId) : Nat :=
  let x := s.ctx c
  let r := s.ring (setOf c)
  let b (v : Bool) (n : Nat) : Nat := if v then 2 ^ n else 0
  s.ctxState c + b r.step.stop.isSome 3 + b r.service.stop.isSome 4 + b x.pauseHost 5 + b x.pausePage 6 +
    b (!x.pausePeers.isEmpty) 7 + b x.saved 8 + b (decide (s.ringPort (setOf c) 0 = some .b)) 9

/-- WAIT of a progress record (R474): posting waits, a STEP waits for a ledger record, a STEP is QUEUED. -/
def State.progressWait (s : State) (c : CtxId) : Nat :=
  let x := s.ctx c
  let r := s.ring (setOf c)
  let queued := (s.headOf c .step .step).isSome
  (if r.cpl2.held.isEmpty && r.cpl3.held.isEmpty then 0 else 1) +
    (if queued && decide (16 ≤ x.ledger.length) then 2 else 0) + (if queued then 4 else 0)

/-- The progress record of a set now (R474). -/
def State.progressOf (s : State) (i : SetId) : Progress :=
  let n := (s.ring i).progCount + 1
  let g := s.moduleGen.toNat
  if h : i.val < 16 then
    let c : CtxId := ⟨i.val, h⟩
    ⟨s.ident, g, n, s.now, (s.ctx c).committed, (s.ctx c).steps.length, s.progressWait c, s.ctxStatus c,
      (s.ring i).step.consumer.toNat, (s.ring i).service.consumer.toNat⟩
  else ⟨s.ident, g, n, s.now, 0, 0, 0, 0, 0, 0⟩

/-- A set has a progress record to write: ring set 16, or an open context (R373). -/
def State.progressOn (s : State) (i : SetId) : Bool :=
  if h : i.val < 16 then s.enabled ⟨i.val, h⟩ else true

/-- PROGRESS_RECORD_WRITE (R373): the record is written as one line; COUNT rises by 1. -/
def execProgressRecordWrite (set : SetId) (s : State) : Host.Outcome State Fault Refusal :=
  .next (
    if s.served && s.progressOn set then
      s.updRing set (fun r => { r with progCount := r.progCount + 1, progress := some (s.progressOf set) })
    else s)

/-! ## Restart of a stopped ring (R358, R369) -/

/-- A stopped ring starts again: at the descriptor it stopped at, or past it where SKIP is 1 (R369). -/
def State.restartRing (s : State) (c : CtxId) (k : SubRing) (skip : Bool) : State :=
  let u := (s.ring (setOf c)).sub k
  if u.stop.isSome then
    s.updRing (setOf c) (fun r => r.updSub k (fun u => { u with
      stop := none, consumer := if skip then u.consumer + 1 else u.consumer }))
  else s

/-- RESTART0 of CP_CTX_CTL_c: a word written with bit [2] restarts the step ring; bit [4] is SKIP (R358, R369). -/
def execRestart0 (c : CtxId) (w : Word) (s : State) : Host.Outcome State Fault Refusal :=
  .next (if s.barTakes (aCtxCfg c.val + 4) && bitOf w.toNat 2 then s.restartRing c .step (bitOf w.toNat 4) else s)

/-- RESTART1 of CP_CTX_CTL_c: a word written with bit [3] restarts the service ring; bit [4] is SKIP (R358, R369). -/
def execRestart1 (c : CtxId) (w : Word) (s : State) : Host.Outcome State Fault Refusal :=
  .next (if s.barTakes (aCtxCfg c.val + 4) && bitOf w.toNat 3 then s.restartRing c .service (bitOf w.toNat 4) else s)

end Sys2Proof.Machine
end

