-- ==== Sys2Proof/Machine/Shapes.lean ====
section
/-! DEFINITION. The shapes of passes: tiles, the positions a pass covers, the blocks its operands take
(R34, R87–R89, R96, R99, R121). -/

namespace Sys2Proof

/-- The tile shape of a pairing (R87): K_t. -/
def tileDepth (tile row : Fmt) : Nat := if tile = .bf16 then 128 else 512 * (8 / max 1 row.bits)

/-- The tile shape of a pairing (R87): N_t. -/
def tileWidth (tile row : Fmt) : Nat := if tile = .bf16 ∨ row = .bf16 then 64 else 64 * (8 / max 1 tile.bits)

/-- Contraction positions of a pass that are not disabled (R88). -/
def PassOrder.kLen (o : PassOrder) : Nat :=
  min (tileDepth o.tileFmt o.rowFmt) (o.kTotal - tileDepth o.tileFmt o.rowFmt * o.i)

/-- Output columns of a pass that are not disabled (R88). -/
def PassOrder.nLen (o : PassOrder) : Nat :=
  min (tileWidth o.tileFmt o.rowFmt) (o.nTotal - tileWidth o.tileFmt o.rowFmt * o.j)

/-- The pass applies the last K-tile of its output block (R96). -/
def PassOrder.last (o : PassOrder) : Bool := decide (o.kTotal ≤ tileDepth o.tileFmt o.rowFmt * (o.i + 1))

/-- A pass with 0 rows, or of a product with K or N equal to 0 (R99). -/
def PassOrder.empty (o : PassOrder) : Bool := o.rowCount == 0 || o.kTotal == 0 || o.nTotal == 0

/-- Blocks that bytes take. -/
def blocksOf (bytes : Nat) : Nat := cdiv bytes 2048

/-- Blocks that elements take. -/
def blocksFor (bits n : Nat) : Nat := blocksOf (cdiv (bits * n) 8)

/-- The width of an accumulator slot in bytes (R89). -/
def slotBytes (tile : Fmt) : Nat := if tile = .bf16 then 4 else if tile.isInt then 8 else 16

/-- Bytes of the slots of an output block: its accumulators row by row, then its row sums and column sums of 64 bits
(R96 gives neither place nor width; DESIGN CHOICE, log 145). -/
def PassOrder.partBytes (o : PassOrder) : Nat := o.rowCount * o.nLen * slotBytes o.tileFmt + 8 * (o.rowCount + o.nLen)

/-- A pairing of R34. -/
def pairingOk (tile row : Fmt) : Bool :=
  match tile, row with
  | .int8, .int8 | .int8, .int4 | .int4, .int8 | .int4, .int4 | .int2, .int4 => true
  | .bf16, .bf16 => true
  | a, b => a.isNarrowFp && b.isNarrowFp

/-- A pass reads the accumulator slots of its output block or writes them (R89, R96). -/
def PassOrder.usesSlots (o : PassOrder) : Bool := !o.firstK || !o.last

/-- Elements of a pass's output. -/
def PassOrder.outCount (o : PassOrder) : Nat := o.rowCount * o.nLen

/-- Blocks of a pass's output where its format does not follow from a scale record. -/
def PassOrder.outBlocks (o : PassOrder) : Option Nat :=
  match o.out with
  | .partialAcc => some 0
  | .fxr => some (blocksFor 64 o.outCount)
  | .float f => some (blocksFor f.bits o.outCount)
  | .narrow => none

/-- The parts of a pass agree: its rows in their limit, its tile inside the product, a drain at the last K-tile and no other,
as many blocks as its operands, its slots, its stored inputs and its outputs take (R87–R89, R96, R141–R143). -/
def passShape (o : PassOrder) : Bool :=
  decide (o.rowCount ≤ 65535) && (o.empty || (
    pairingOk o.tileFmt o.rowFmt &&
    decide (tileDepth o.tileFmt o.rowFmt * o.i < o.kTotal) && decide (tileWidth o.tileFmt o.rowFmt * o.j < o.nTotal) &&
    (decide (o.out = .partialAcc) == !o.last) && (o.i != 0 || o.firstK) && (decide (o.tileFmt ≠ .bf16) || o.firstK == (o.i == 0)) &&
    o.tileRefs.length == blocksFor o.tileFmt.bits (o.kLen * o.nLen) &&
    o.rowRefs.length == (if o.rowWidth = 0 then blocksFor o.rowFmt.bits (o.rowCount * o.kLen) else blocksFor 8 (o.rowWidth * o.kLen)) &&
    o.partRefs.length == (if o.usesSlots then blocksOf o.partBytes else 0) &&
    o.zRefs.length == (if o.last && decide (o.fn ≠ .none) then blocksFor o.zFmt.bits o.outCount else 0) &&
    o.uRefs.length == (if o.last && decide (o.fn = .swiglu) then blocksFor o.zFmt.bits o.outCount else 0) &&
    (match o.outBlocks with
      | some n => o.outRefs.length == n
      | none => true) &&
    o.outRefs2.length == (if o.last && decide (o.fn = .swiglu) then o.outRefs.length else 0) &&
    o.tRefs.length == (if o.last && decide (o.fn = .softmax) && o.tSplit.isNone then blocksFor 32 o.rowCount else 0)))

end Sys2Proof
end

