-- ==== Sys2Proof/Machine/Placement.lean ====
section
/-! DEFINITION. The placement of passes over the cores: what is outstanding where, which core takes the passes of an absent
one, what a rollback and a commit leave in the cores (R102, R126, R129, R489). -/

namespace Sys2Proof.Machine

/-- Two passes of one output block (R89). -/
def sameBlock (a b : PassOrder) : Bool :=
  decide (a.ctx = b.ctx) && a.outTensor == b.outTensor && a.outInst == b.outInst && a.outRow == b.outRow && a.outCol == b.outCol

/-- Passes outstanding on a core (R489). -/
def CoreSt.outstanding (k : CoreSt) : Nat := k.todo.length + k.mx.running.length

/-- The next pass of a context on a core, with its step: passes run in the order of the placement (R489). -/
def CoreSt.nextPass (k : CoreSt) (c : CtxId) : Option (Nat × PassOrder) := k.todo.find? (fun e => decide (e.2.ctx = c))

/-- The cores an operation of a step is not placed on again, with the tensors (R237). -/
def State.exclusions (s : State) (c : CtxId) (n : Nat) : List (CoreId × Nat) :=
  (((s.ctx c).steps.find? (fun t => t.number == n)).map (·.placeExcl)).getD []

/-- The load-pattern hash of a pass (R261). -/
def patternHash (o : PassOrder) (broadcast : Bool) : Nat :=
  let fnCode : Nat := match o.fn with
    | .none => 0 | .relu => 1 | .sqRelu => 2 | .gelu => 3 | .silu => 4 | .swiglu => 5 | .softmax => 6
  crc64 (leBytes 1 (o.tileFmt.code % 16 + 16 * (o.rowFmt.code % 16)) ++
    leBytes 1 ((if broadcast then 1 else 0) + (if o.turn then 2 else 0)) ++ leBytes 2 o.rowCount ++
    leBytes 2 o.kLen ++ leBytes 2 o.nLen ++ leBytes 1 (if o.rotSize = 0 then 0 else Nat.log2 o.rotSize) ++
    leBytes 1 fnCode ++ leBytes 6 0)

/-- The load-pattern hash of a vector, rake or scan operation (R261). -/
def vecPattern (cls fmt : Nat) : Nat := crc64 (leBytes 1 (0x80 + cls) ++ leBytes 1 fmt ++ leBytes 14 0)

/-- A context is a rollout context: its passes run in broadcast mode (R97). -/
def Ctx.rollout (x : Ctx) : Bool := x.prog.any (fun p => decide (p.kind = .rollout))

/-- A core may take a pass of a step: it is in the active set, not excluded from the operation, and not kept from the shape
(R237, R258, R489). -/
def State.takesPass (s : State) (e : Nat × PassOrder) (k : CoreId) : Bool :=
  decide ((s.core k).status = .active) && !(s.exclusions e.2.ctx e.1).contains (k, e.2.outTensor) &&
    decide ((s.core k).condShape ≠ some (patternHash e.2 (s.ctx e.2.ctx).rollout))

/-- The core that takes a pass whose own core is absent (R489): on the same die, else on the next ones in turn, the active core
with the fewest passes outstanding, the lowest core number among equals. -/
def State.substitute (s : State) (e : Nat × PassOrder) (d : Die) : Option CoreId :=
  let better (best : Option CoreId) (k : CoreId) : Option CoreId :=
    if s.takesPass e k then match best with
      | some b => if (s.core k).outstanding < (s.core b).outstanding then some k else best
      | none => some k
    else best
  let onDie (j : Nat) : Option CoreId :=
    ((List.finRange 72).map (fun n => (⟨d + Fin.ofNat 4 j, n⟩ : CoreId))).foldl better none
  match onDie 0 with
  | some k => some k
  | none => match onDie 1 with
    | some k => some k
    | none => match onDie 2 with
      | some k => some k
      | none => onDie 3

/-- A pass goes to its core, or to the one that takes it there; behind what is outstanding, or, replayed, in front. With no
active core it waits at its own. -/
def State.givePass (s : State) (front : Bool) (home : CoreId) (e : Nat × PassOrder) : State :=
  let k := if s.takesPass e home then home else (s.substitute e home.die).getD home
  s.updCore k (fun x => { x with todo := if front then e :: x.todo else x.todo ++ [e] })

/-- Logical tile order (R489): by output tensor, its index, tile row and column, then contraction. -/
def tileOrder (o : PassOrder) : Nat :=
  ((((o.outTensor * 2 ^ 8 + o.outInst) * 2 ^ 16 + o.outRow) * 2 ^ 16 + o.outCol) * 2 ^ 32) + o.i

/-- Passes in logical tile order. -/
def inTileOrder (es : List (Nat × PassOrder)) : List (Nat × PassOrder) :=
  sortBy (fun a b => decide (tileOrder a.2 ≤ tileOrder b.2)) es

/-- The passes of the placement become outstanding for a step (R489), an empty one not at all (R99): those of the active set as written, then those of absent
cores in logical tile order. -/
def State.placeStep (s : State) (c : CtxId) (n : Nat) : State :=
  let all : List (CoreId × Nat × PassOrder) :=
    ((((s.ctx c).prog.map (·.placement)).getD []).filter (fun e => !e.2.empty)).map (fun e => (e.1, n, { e.2 with ctx := c }))
  let here := all.filter (fun e => s.takesPass e.2 e.1)
  let away := sortBy (fun (a b : CoreId × Nat × PassOrder) => decide (tileOrder a.2.2 ≤ tileOrder b.2.2))
    (all.filter (fun e => !s.takesPass e.2 e.1))
  (here ++ away).foldl (fun (s : State) e => s.givePass false e.1 e.2) s

/-- The passes a core leaves undone go to others, from the first K-tile of each output block (R102, R489). -/
def State.reassign (s : State) (p : CoreId) : State :=
  let lost := inTileOrder ((s.core p).begun ++ (s.core p).todo)
  let s := s.updCore p (fun x => { x with todo := [], begun := [], mx := { x.mx with running := [], stalled := none } })
  lost.foldl (fun (s : State) e => s.givePass false p e) s

/-- Passes of a step that have run are outstanding again, ahead of the others (R81, R85, R102). -/
def State.rerun (s : State) (c : CtxId) (n : Nat) (which : CoreId → PassOrder → Bool) : State :=
  match (s.ctx c).steps.find? (fun t => t.number == n) with
  | none => s
  | some t =>
    let again := t.ran.filter (fun e => which e.1 e.2)
    let s := s.updCtx c (fun x => { x with steps := x.steps.map (fun u =>
      if u.number = n then { u with ran := u.ran.filter (fun e => !which e.1 e.2) } else u) })
    again.foldl (fun (s : State) e => s.givePass true e.1 (n, e.2)) s

/-- A pass of a step after `n`. -/
def laterPass (c : CtxId) (n : Nat) (e : Nat × PassOrder) : Bool := decide (e.2.ctx = c) && decide (n < e.1)

/-- A stall outside the steps of a context after version `n`. -/
def keepStall (c : CtxId) (n : Nat) (w : Option Stall) : Option Stall := w.filter (fun w => !(decide (w.ctx = c) && decide (n < w.step)))

/-- The rake without a reduction of a step of a context after version `n` (R115, R250). -/
def CoreSt.dropRake (c : CtxId) (n : Nat) (k : CoreSt) : CoreSt :=
  if k.rakeOf.any (fun w => decide (w.1 = c) && decide (n < w.2)) then { k with rake := {}, rakeOf := none, rakeOut := none } else k

/-- A core without the work of the steps of a context after version `n`: passes, blocks, stalls, the rake's partial sums (R126,
R207, R250). -/
def CoreSt.dropWork (c : CtxId) (n : Nat) (k : CoreSt) : CoreSt :=
  { k.dropRake c n with
    todo := k.todo.filter (fun e => !laterPass c n e), begun := k.begun.filter (fun e => !laterPass c n e)
    mx := { k.mx with
      running := k.mx.running.filter (fun p => !laterPass c n (p.step, p.toPassOrder)), stalled := keepStall c n k.mx.stalled }
    stalled := keepStall c n k.stalled
    blocks := k.blocks.filter (fun b => match b.2.writer with
      | some w => !(decide (w.1 = c) && decide (n < w.2))
      | none => true) }

/-- Every core, and every save area, changed alike. -/
def State.mapCores (s : State) (f : CoreSt → CoreSt) : State :=
  { s with cores := { s.cores with
    tbl := s.cores.tbl.map (fun e => (e.1, f e.2)), saved := s.cores.saved.map (fun a => (a.1, a.2.map (fun e => (e.1, f e.2)))) } }

/-- Every core state, on the cores and in the save areas. -/
def State.coreStates (s : State) : List CoreSt :=
  s.cores.tbl.map (fun e => e.2) ++ s.cores.saved.flatMap (fun a => a.2.map (fun e => e.2))

/-- A rollback stops the work of the steps it discards and releases their blocks (R126, R207). -/
def State.dropWork (s : State) (c : CtxId) (n : Nat) : State := s.mapCores (CoreSt.dropWork c n)

/-- A core without the blocks a context wrote in steps up to `n`. -/
def CoreSt.release (c : CtxId) (n : Nat) (k : CoreSt) : CoreSt :=
  { k with blocks := k.blocks.filter (fun b => match b.2.writer with
    | some w => !(decide (w.1 = c) && decide (w.2 ≤ n))
    | none => true) }

/-- Blocks a context wrote in steps up to `n` are released: at the latest by the commit of step n + 1 (R126). -/
def State.releaseBlocks (s : State) (c : CtxId) (n : Nat) : State := s.mapCores (CoreSt.release c n)

/-- What a core holds of a context: its passes, its blocks, the rake's accumulators (R385). -/
def CoreSt.part (c : CtxId) (k : CoreSt) : CoreSt :=
  { todo := k.todo.filter (fun w => decide (w.2.ctx = c)), begun := k.begun.filter (fun w => decide (w.2.ctx = c))
    rake := if k.rakeOf.any (fun w => decide (w.1 = c)) then k.rake else {}
    rakeOf := k.rakeOf.filter (fun w => decide (w.1 = c)), laneCtr := k.laneCtr
    blocks := k.blocks.filter (fun b => match b.2.writer with
      | some w => decide (w.1 = c)
      | none => false) }

/-- A core without what it holds of a context. -/
def CoreSt.without (c : CtxId) (k : CoreSt) : CoreSt :=
  { k with
    todo := k.todo.filter (fun w => decide (w.2.ctx ≠ c)), begun := k.begun.filter (fun w => decide (w.2.ctx ≠ c))
    mx := { k.mx with
      running := k.mx.running.filter (fun p => decide (p.ctx ≠ c)), stalled := k.mx.stalled.filter (fun w => decide (w.ctx ≠ c)) }
    stalled := k.stalled.filter (fun w => decide (w.ctx ≠ c))
    rake := if k.rakeOf.any (fun w => decide (w.1 = c)) then {} else k.rake
    rakeOf := k.rakeOf.filter (fun w => decide (w.1 ≠ c))
    blocks := k.blocks.filter (fun b => match b.2.writer with
      | some w => decide (w.1 ≠ c)
      | none => true) }

/-- A context leaves the cores: its passes and blocks go. -/
def State.leaveCores (s : State) (c : CtxId) : State :=
  { s with cores := { s.cores with tbl := s.cores.tbl.map (fun e => (e.1, e.2.without c)), saved := AL.del c s.cores.saved } }

/-- The core state of a context goes from its cores to its save area (R385). -/
def State.saveCores (s : State) (c : CtxId) : State :=
  let parts := s.cores.tbl.map (fun e => (e.1, e.2.part c))
  { s with cores := { s.cores with tbl := s.cores.tbl.map (fun e => (e.1, e.2.without c)), saved := AL.set c parts s.cores.saved } }

/-- Saved core state back on a core (R385). -/
def CoreSt.restore (k part : CoreSt) : CoreSt :=
  { k with todo := part.todo ++ k.todo, begun := part.begun ++ k.begun, laneCtr := part.laneCtr
           rake := if part.rakeOf.isSome then part.rake else k.rake, rakeOf := part.rakeOf.orElse (fun _ => k.rakeOf)
           blocks := part.blocks.foldl (fun m e => AL.set e.1 e.2 m) k.blocks }

/-- The core state of a context goes back to its cores; the passes of a core that has left the active set meanwhile go to others,
from the first K-tile of each output block (R102, R385). -/
def State.restoreCores (s : State) (c : CtxId) : State :=
  let parts := AL.get [] c s.cores.saved
  let s := { s with cores := { s.cores with saved := AL.del c s.cores.saved } }
  parts.foldl (fun (s : State) e =>
    if (s.core e.1).status = .active then s.updCore e.1 (fun k => k.restore e.2)
    else (inTileOrder (e.2.begun ++ e.2.todo)).foldl (fun (s : State) w => s.givePass false e.1 w) s) s

/-- Reduction targets the steps of a context after version `n` wrote are invalidated: they start again from what they held before (R206; log 124). -/
def State.dropTargets (s : State) (c : CtxId) (n : Nat) : State :=
  let gone := s.mem.targets.filter (fun e => decide (e.2.ctx = c) && decide (n < e.2.step))
  let s := gone.foldl (fun (s : State) e => s.hbmPut e.1 (leBytes e.2.width e.2.before)) s
  { s with mem := { s.mem with targets := s.mem.targets.filter (fun e => !(decide (e.2.ctx = c) && decide (n < e.2.step))) } }

/-- Reduction targets of a context's steps up to `n` are data of a committed version. -/
def State.endTargets (s : State) (c : CtxId) (n : Nat) : State :=
  { s with mem := { s.mem with targets := s.mem.targets.filter (fun e => !(decide (e.2.ctx = c) && decide (e.2.step ≤ n))) } }

/-- No pass of a step that `which` names is outstanding or running on any core, or in a save area. -/
def State.noneLeft (s : State) (c : CtxId) (n : Nat) (which : PassOrder → Bool) : Bool :=
  s.coreStates.all (fun k => k.todo.all (fun w => !(decide (w.2.ctx = c) && w.1 == n && which w.2)) &&
    k.mx.running.all (fun p => !(decide (p.ctx = c) && p.step == n && which p.toPassOrder)))

/-- Backward work is issued layer-major (R129): no backward pass of a higher layer of the step waits on any core. -/
def State.layerTurn (s : State) (n : Nat) (o : PassOrder) : Bool :=
  s.coreStates.all (fun k => k.todo.all (fun w =>
    !(decide (w.2.ctx = o.ctx) && w.1 == n && w.2.backward && decide (o.layer < w.2.layer))))

end Sys2Proof.Machine
end

