-- ==== Sys2Proof/Machine/ScaleRules.lean ====
section
/-! DEFINITION. Scale records: deriving S, Z, M and s, quantising, the replay tests, merging ranges into the history, and
the exponents of FXR64 tensors (R58–R86). -/

namespace Sys2Proof.Machine

/-- The format a record's FORMAT code names, if it is narrow or FXR64 (R62). -/
def recFmt (r : ScaleRec) : Option Fmt :=
  if r.fmt ≤ 5 ∨ r.fmt = 8 then Fmt.ofCode r.fmt else none

/-- The lesser of two exact values. -/
def xvMin (a b : XV) : XV := if b.lt a then b else a

/-- The greater of two exact values. -/
def xvMax (a b : XV) : XV := if a.lt b then b else a

/-- `clamp_scale` of R71: S stays positive, finite and normal. -/
def clampScale (w : BitVec 32) : BitVec 32 :=
  if w.toNat < 0x00800000 then 0x00800000 else if 0x7F7FFFFF < w.toNat then 0x7F7FFFFF else w

/-- `derive` of R71 over a range given as exact values. -/
def derive (f : Fmt) (lo hi : XV) : BitVec 32 × Nat :=
  if f.isInt then
    let qmax := 2 ^ f.bits - 1
    let lo := xvMin lo (XV.ofInt 0)
    let hi := xvMax hi (XV.ofInt 0)
    let w := hi.add lo.neg
    if w.isZero then (one32, 0)
    else
      let s := clampScale (rneF32 (w.div (XV.ofInt qmax)))
      match lo.neg.div (f32 s) with
      | .fin neg n d => (s, (clampInt (rneInt neg n d) 0 qmax).toNat)
      | _ => (s, 0)
  else
    let a := xvMax lo.abs hi.abs
    if a.isZero then (one32, 0)
    else (clampScale (rneF32 (a.div (decodeFp f f.maxCode))), 0)

/-- A code of a narrow format for an exact value under a scale and zero point, with its flags (R58, R59, R111). -/
def quantiseX (f : Fmt) (s : BitVec 32) (z : Nat) (x : XV) : Nat × Flags :=
  if f.isInt then
    let qmax : Int := 2 ^ f.bits - 1
    match x with
    | .nan => (z, { iv := true })
    | .inf neg => (if neg then 0 else qmax.toNat, { nx := true })
    | .fin .. =>
      match x.div (f32 s) with
      | .fin neg n d =>
        let v := rneInt neg n d + z
        let c := clampInt v 0 qmax
        (c.toNat, { cl := decide (c ≠ v), nx := decide (n % d ≠ 0) || decide (c ≠ v) })
      | _ => (z, {})
  else encodeFp f (x.div (f32 s))

/-- A code of a narrow format for an FP32 value (R58, R59). -/
def quantise (f : Fmt) (s : BitVec 32) (z : Nat) (x : BitVec 32) : Nat × Flags := quantiseX f s z (f32 x)

/-- The exact real value a code stands for under a scale and zero point (R28). -/
def dequant (f : Fmt) (s : BitVec 32) (z code : Nat) : XV :=
  if f.isInt then (f32 s).mul (XV.ofInt ((code : Int) - z)) else (f32 s).mul (decodeFp f code)

/-- The full range A of a record ("When the scale does not fit"). -/
def fullRange (r : ScaleRec) : XV :=
  match recFmt r with
  | some f =>
    if f.isInt then (f32 r.scale).mul (XV.ofInt (max r.zp (2 ^ f.bits - 1 - r.zp)))
    else (f32 r.scale).mul (decodeFp f f.maxCode)
  | none => XV.ofInt 0

/-- A finite value is far out: |x| > T × A with T = 1 + t / 4 (R62, R78). -/
def farOut (r : ScaleRec) (x : XV) : Bool :=
  match x with
  | .fin .. => ((fullRange r).mul (.fin false (4 + r.satT) 4)).lt x.abs
  | _ => false

/-- A multiplier and shift for an integer product (R73). -/
def deriveMs (sa sw so : BitVec 32) : Nat × Nat :=
  match f64 (toF64 (((f32 sa).mul (f32 sw)).div (f32 so))) with
  | .fin _ n d =>
    if n = 0 then (0, 63) else
    let e := floorLog2 n d + 1
    let s := 31 - e
    if s < 0 then (min (rneNat n d) (2 ^ 32 - 1), 0)
    else if 63 < s then (rneNat (n * 2 ^ 63) d, 63)
    else
      let m := rneNat (n * 2 ^ s.toNat) d
      if m = 2 ^ 31 ∧ 0 < s then (2 ^ 30, s.toNat - 1) else (m, s.toNat)
  | _ => (0, 63)

/-- A range rounded to BF16 for the history, never an infinity (R63). -/
def histEntry (w : BitVec 32) : BitVec 16 :=
  let c := (encodeFp .bf16 (f32 w)).1
  BitVec.ofNat 16 (if c % 32768 < 0x7F80 then c else c / 32768 * 32768 + 0x7F7F)

/-- The FP32 word of a history entry. -/
def histVal (h : BitVec 16) : BitVec 32 := bf16To32 h.toNat

/-- A record as the module writes it: the fields of the other kind are 0 (R60, R62). -/
def onlyUsed (r : ScaleRec) : ScaleRec :=
  match recFmt r with
  | some .fxr64 => { tensor := r.tensor, inst := r.inst, fmt := r.fmt, step := r.step, epoch := r.epoch, sealed := r.sealed
                     fxrExp := r.fxrExp, guard := r.guard, histN := r.histN, h0 := r.h0, satT := 0 }
  | some _ => { r with fxrExp := 0, guard := 0 }
  | none => r

/-- The record a step starts with, derived from the record of the version before (R71, R83): the scale from the history
for a narrow tensor with WEIGHT 0, the exponent for an FXR64 tensor. STEP is the step's, EPOCH 0, not sealed. The record of
a weight stays that of the version before, which the step reads, and an unused position stays as it is (R66, R72). -/
def startRecord (step : Nat) (old : ScaleRec) : ScaleRec :=
  let r := onlyUsed { old with step := step, epoch := 0, sealed := false }
  match recFmt old with
  | some .fxr64 =>
    if r.histN = 1 ∧ (XV.ofInt 0).lt (f32 (histVal r.h0)) = true then
      { r with fxrExp := fxrExpOf (f32 (histVal r.h0)) r.guard 59 }
    else { r with fxrExp := clampInt r.fxrExp (-1024) 1023 }
  | some f =>
    if old.weight then old
    else if r.histN = 0 then r
    else
      let v (h : BitVec 16) : XV := f32 (histVal h)
      let (lo, hi) :=
        if f.isInt then
          if r.histN = 1 then (v r.h1, v r.h0) else (xvMin (v r.h1) (v r.h3), xvMax (v r.h0) (v r.h2))
        else
          let a := ((([r.h0, r.h1, r.h2, r.h3]).take r.histN).map v).foldl xvMax (XV.ofInt 0)
          (a.neg, a)
      let (s, z) := derive f lo hi
      { r with scale := s, zp := z }
  | none => old

/-- The record of a tensor's index in a list of records (R66). -/
def recAt (rs : List ScaleRec) (tensor inst : Nat) : Option ScaleRec :=
  rs.find? (fun r => r.tensor == tensor && r.inst == inst && r.fmt != 0xF)

/-- M and s of the records of an integer product's output, from the scales of its two operands (R71, R73). -/
def startRescale (rs : List ScaleRec) (m : Nat × Nat × Nat) : List ScaleRec :=
  match recAt rs m.2.1 0, recAt rs m.2.2 0 with
  | some a, some w => rs.map (fun r =>
      if r.tensor = m.1 ∧ r.fmt ≠ 0xF then
        let ms := deriveMs a.scale w.scale r.scale
        { r with mult := ms.1, shift := ms.2 }
      else r)
  | _, _ => rs

/-- The records a step starts with (R69, R71). `rescales`: the integer outputs of products, with their operands. -/
def deriveRecords (step : Nat) (rescales : List (Nat × Nat × Nat)) (rs : List ScaleRec) : List ScaleRec :=
  rescales.foldl startRescale (rs.map (startRecord step))

/-- The largest magnitude of a measured range. -/
def Measure.amax (m : Measure) : XV := xvMax (f32 m.lo).abs (f32 m.hi).abs

/-- A finite value taken into a measured range (R78). -/
def Measure.add (r : ScaleRec) (m : Measure) (x : BitVec 32) : Measure :=
  match f32 x with
  | .fin .. =>
    if m.finite = 0 then { lo := x, hi := x, finite := 1, far := if farOut r (f32 x) then 1 else 0 }
    else
      { lo := if (f32 x).ltTotal (f32 m.lo) then x else m.lo, hi := if (f32 m.hi).ltTotal (f32 x) then x else m.hi
        finite := m.finite + 1, far := m.far + (if farOut r (f32 x) then 1 else 0) }
  | _ => m

/-- Two measured ranges merged: empty ranges take no part (R82). -/
def Measure.merge (a b : Measure) : Measure :=
  if a.finite = 0 then b else if b.finite = 0 then a
  else
    { lo := if (f32 b.lo).ltTotal (f32 a.lo) then b.lo else a.lo
      hi := if (f32 a.hi).ltTotal (f32 b.hi) then b.hi else a.hi
      finite := a.finite + b.finite, far := a.far + b.far }

/-- The replay test of an instance (R80): the cause, if it must be replayed. -/
def replayCause (q : Nat) (r : ScaleRec) (m : Measure) : Option Status :=
  if m.finite = 0 then none
  else if q < m.far then some .scaleSaturation
  else if r.strict && m.amax.lt ((fullRange r).div (XV.ofInt 16)) then some .scaleUnderuse
  else none

/-- The record a replayed instance runs with: S and Z over the exact range, EPOCH 1 (R80). -/
def replayRecord (r : ScaleRec) (m : Measure) : ScaleRec :=
  match recFmt r with
  | some f => let (s, z) := derive f (f32 m.lo) (f32 m.hi); { r with scale := s, zp := z, epoch := 1 }
  | none => r

/-- The history of the next step's record after a merged range (R82): `start` is the record the step began with. -/
def pushHistory (start : ScaleRec) (m : Measure) (r : ScaleRec) : ScaleRec :=
  match recFmt r with
  | some .fxr64 => r
  | some f =>
    if r.weight ∨ m.finite = 0 then r
    else
      let under := m.amax.lt ((fullRange start).div (XV.ofInt 16))
      if f.isInt then
        let h0 := histEntry m.hi
        let h1 := histEntry m.lo
        if under ∨ r.histN = 0 then { r with histN := 1, h0 := h0, h1 := h1, h2 := 0, h3 := 0 }
        else { r with histN := 2, h0 := h0, h1 := h1, h2 := r.h0, h3 := r.h1 }
      else
        let a := histEntry (rneF32 m.amax)
        if under ∨ r.histN = 0 then { r with histN := 1, h0 := a, h1 := 0, h2 := 0, h3 := 0 }
        else { r with histN := min 4 (r.histN + 1), h0 := a, h1 := r.h0, h2 := r.h1, h3 := r.h2 }
  | none => r

/-- The record of an FXR64 tensor at the end of a step: the reduced magnitude is its one history entry (R84). -/
def pushMagnitude (amax : BitVec 32) (r : ScaleRec) : ScaleRec :=
  onlyUsed { r with histN := 1, h0 := histEntry amax, h1 := 0, h2 := 0, h3 := 0 }

/-- The record of an FXR64 tensor for its overflow replay (R85). -/
def overflowRecord (amax : BitVec 32) (r : ScaleRec) : ScaleRec :=
  onlyUsed { r with fxrExp := fxrExpOf (f32 amax) r.guard 62, epoch := 1 }

end Sys2Proof.Machine
end

