-- ==== Sys2Proof/Machine/StepBase.lean ====
section
/-! DEFINITION. What the commands of a step share: slots, votes, the commit and the rollback (R147–R153, R195–R214,
R383). -/

namespace Sys2Proof.Machine

/-! ## References of the slots (R150, R151) -/

/-- A reference on the slot of a version taken (R150). -/
def Ctx.addReader (x : Ctx) (v : Nat) : Ctx := x.updLive v (fun t => { t with readers := t.readers + 1 })

/-- A reference on the slot of a version dropped (R150). -/
def Ctx.dropReader (x : Ctx) (v : Nat) : Ctx := x.updLive v (fun t => { t with readers := t.readers - 1 })

/-- A slot can be written: FREE, with no reference but a snapshot copy's (R151). -/
def Slot.writable (t : Slot) : Bool := decide (t.state = .free) && t.readers == (if t.snapRef then 1 else 0)

/-- The profile's retention depth r (R211); 1 with no profile (R396). -/
def State.retention (s : State) : Nat := (s.mss.profile.map (·.retention)).getD 1

/-! ## Charges to the memory regulators (R177) -/

/-- A transfer of an engine charged, its reads and its writes, to a partition of a context, on the dies of its pieces in order
(R177). -/
def State.chargePart (s : State) (c : CtxId) (part bytes : Nat) : State :=
  let one (e : List (Nat × Nat × Nat) × Nat) (q : Nat × Nat × Nat) : List (Nat × Nat × Nat) × Nat :=
    let n := min e.2 (q.2.2 * 2097152)
    (if n = 0 then e.1 else e.1 ++ [(q.1, part, n)], e.2 - n)
  { s with mem := { s.mem with waiting := s.mem.waiting ++ ((AL.get [] part (s.ctx c).regions).foldl one ([], bytes)).1 } }

/-! ## Provisional steps -/

/-- The provisional step of a number. -/
def Ctx.stepNo (x : Ctx) (n : Nat) : Option Step := x.steps.find? (fun t => t.number == n)

/-- A provisional step changed. -/
def Ctx.updStep (x : Ctx) (n : Nat) (f : Step → Step) : Ctx :=
  { x with steps := x.steps.map (fun t => if t.number = n then f t else t) }

/-- A provisional step of a context changed. -/
def State.updStep (s : State) (c : CtxId) (n : Nat) (f : Step → Step) : State := s.updCtx c (fun x => x.updStep n f)

/-- The provisional step a context computes: the oldest in FORWARD or BACKWARD (R152, R198). -/
def Ctx.working (x : Ctx) : Option Step :=
  x.steps.find? (fun t => decide (t.state = .forward) || decide (t.state = .backward))

/-- The step a context computes; 0 outside a step (log 108). -/
def State.workNo (s : State) (c : CtxId) : Nat := (((s.ctx c).working).map (·.number)).getD 0

/-- A step as it takes effect (R197, R198). A stopped step that takes effect again after a restart counts its rollbacks from 0 (R210
does not say; log 130). -/
def newStep (n attempt : Nat) (q : QDesc) (batch : List (List Byte)) (streams : AL Nat Nat) : Step :=
  { number := n, attempt := attempt, state := .forward, desc := q, upd := q.upd, replay := false, rngKey := dRngKey q.bytes
    rollbacks := 0, batch := batch
    batchWait := false, batchCrcs := batch.map crc64, records := [], startRecords := [], measures := [], merged := []
    flagWords := [], outTiles := [], outFmt := [], fillFailed := false, failed := 0, stopCause := none
    failCause := .success, outstanding := 0, grads := [], handed := [], waitGrads := [], gathered := [], slices := []
    recvSlices := [], recvUpdate := none, updSent := false, clean := [], fxrReplayed := [], amags := [], overs := [], qLocal := 0, normSent := false, qNorm := none, ran := [], clip := none, clipFlags := {}
    nonfinite := false, skipped := false, crcs := [], digest := [], mirrorCrcs := [], mirrorDigest := []
    ownCompared := false, mirCompared := false, peerOwn := [], peerMir := [], digestArb := [], forwardLayers := [], layersReady := [], voted := none, reduced := none, late := []
    provPosted := false, replays := [], causes := [], nArb := 0, disturbs := 0, nTile := 0, nParity := 0, nTimeout := 0
    writeFault := false, placeExcl := [], started := false, duration := 0, streamAt := streams }

/-- A discarded step as it is re-executed: attempt a + 1, with the descriptor copy, the batch buffers, the causes and the
counted rollbacks it keeps (R206–R208, R214). -/
def Step.again (t : Step) (streams : AL Nat Nat) : Step :=
  { newStep t.number ((t.attempt + 1) % 256) t.desc t.batch streams with
    rollbacks := t.rollbacks, causes := t.causes, batchCrcs := t.batchCrcs, placeExcl := t.placeExcl
    disturbs := t.disturbs + t.nArb, nTimeout := t.nTimeout, batchWait := t.batchWait, replay := t.replay, upd := t.upd, rngKey := t.rngKey }

/-- A slice of the buddy's step, with its update record if that came with it (R164). -/
def Step.takeSlice (t : Step) (slice : Nat) (sl : Slice) (update : Option UpdateRec) : Step :=
  { t with
    recvSlices := AL.set slice sl t.recvSlices
    recvUpdate := match update with
      | some u => some u
      | none => t.recvUpdate }

/-- A step takes the slices of the buddy that arrived before it began (R164). -/
def Step.takeEarly (t : Step) (early : List (Nat × Nat × Slice × Option UpdateRec)) : Step :=
  (early.filter (fun e => e.1 == t.number)).foldl (fun (t : Step) e => t.takeSlice e.2.1 e.2.2.1 e.2.2.2) t

/-- A step's records derived, if they have not been: from the copy of the version before (R69, R71). -/
def Step.start (rescales : List (Nat × Nat × Nat)) (recs : List ScaleRec) (t : Step) : Step :=
  if t.started then t
  else
    let rs := deriveRecords t.number rescales recs
    { t with started := true, records := rs, startRecords := rs }

/-- The integer product outputs of the context's program. -/
def Ctx.rescales (x : Ctx) : List (Nat × Nat × Nat) := (x.prog.map (·.rescales)).getD []

/-- The scale records outside a step: those of the committed version (R69); a rollout program's own (R65, R97). -/
def Ctx.committedRecs (x : Ctx) : List ScaleRec := if x.rollout then x.rollRecs else (x.liveSlot x.committed).data.records

/-- The content of version `v` for a step: its live slot, or a slot of the replay (R148, R223). -/
def Ctx.dataAt (x : Ctx) (t : Step) (v : Nat) : SlotData :=
  match x.replaying with
  | some r => if t.replay then AL.get {} (v % 3) r.slots else (x.liveSlot v).data
  | none => (x.liveSlot v).data

/-- The oldest provisional step has its records: from the version before it (R69). -/
def Ctx.startOldest (x : Ctx) : Ctx :=
  match x.steps with
  | t :: ts => { x with steps := t.start x.rescales (x.dataAt t (t.number - 1)).records :: ts }
  | [] => x

/-- The checker-lane counters restart at an attempt's start, in the save areas too (R113). -/
def State.zeroLanes (s : State) : State := s.mapCores (fun k => { k with laneCtr := 0 })

/-! ## Votes (R198–R200) -/

/-- The vote of a step's local result: failed classes in [6:0], STOP in [8] (R200). -/
def Step.mask (t : Step) : BitVec 32 :=
  BitVec.ofNat 32 (t.failed.toNat + (if t.stopCause.isSome then 256 else 0))

/-- A step's local result is known to be dirty. -/
def Step.dirty (t : Step) : Bool := decide (t.failed ≠ 0) || t.stopCause.isSome

/-- Votes go out in step order: a step that is VOTING contributes once the step before it has (R200). -/
def castIn (c : CtxId) : List Step → List Step × List Msg
  | [] => ([], [])
  | t :: ts =>
    match t.voted with
    | some _ => let (us, ms) := castIn c ts; (t :: us, ms)
    | none =>
      if t.state = .voting then
        let (us, ms) := castIn c ts
        ({ t with voted := some t.mask } :: us, .contribute c (.vote t.number t.attempt) t.mask :: ms)
      else (t :: ts, [])

/-- This module runs the context as a sapling that shadows another module: it takes no part in votes (R287). -/
def State.shadowing (s : State) (c : CtxId) : Bool := s.grove.sapling.any (fun g => decide (g.ctx = c))

/-- Every vote that may go out does. -/
def State.castVotes (s : State) (c : CtxId) : State :=
  let (ts, ms) := castIn c (s.ctx c).steps
  if s.shadowing c then s else (s.updCtx c (fun x => { x with steps := ts })).sendAll ms

/-- A check class of a provisional step has failed for good: it is VOTING at once, dirty; after its vote the failure is
recorded in its ledger alone; a discarded attempt's result is dropped (R198–R200, R207). -/
def State.failClass (s : State) (c : CtxId) (n cls : Nat) (st : Status) : State :=
  (s.updStep c n (fun t =>
    if t.state = .discarded then t
    else if t.voted.isSome then { t with late := t.late ++ [(cls, st)] }
    else { t with
      failed := t.failed ||| BitVec.ofNat 7 (2 ^ cls), failCause := if t.dirty then t.failCause else st
      state := .voting })).castVotes c

/-- A provisional step has met a cause that stops its ring (R200, R210). -/
def State.stopStep (s : State) (c : CtxId) (n : Nat) (st : Status) : State :=
  (s.updStep c n (fun t =>
    if t.voted.isSome || decide (t.state = .discarded) then t
    else { t with stopCause := some st, failCause := if t.dirty then t.failCause else st, state := .voting })).castVotes c

/-- The status a rollback of a mask is known by on a module that met no cause itself: a status of the lowest failed
class (R210, R480; which one is open, log 9). -/
def maskStatuses (m : BitVec 32) : List Status :=
  if bitOf m.toNat 0 then [.abftMismatch, .drainCheck, .turnCheck]
  else if bitOf m.toNat 1 then [.checkerLaneMismatch, .rakeCheck, .scanCheck]
  else if bitOf m.toNat 2 then [.tagMismatch, .woodpileTagMismatch, .scaleVersionTimeout, .scratchpadParity]
  else if bitOf m.toNat 3 then [.routeDenied]
  else if bitOf m.toNat 4 then [.reductionCheck]
  else if bitOf m.toNat 5 then [.digestMismatch]
  else [.stepPeerStopped]

/-! ## Rollback (R204–R210) -/

/-- A vote or a buddy message of an epoch is taken in that epoch alone; another is dropped and counted (R205). -/
def State.inEpoch (s : State) (c : CtxId) (e : BitVec 16) (taken : State) : State :=
  if e = (s.ctx c).epoch then taken else s.updCtx c (fun x => { x with epochDrops := x.epochDrops + 1 })

/-- The reference of inputs shipped to a referee module dropped, if it is held (R150, R246). -/
def Ctx.endShipment (x : Ctx) (n entry : Nat) (ownShard : Bool) : Ctx :=
  match x.shipped.find? (fun e => e.1 == n && e.2.1 == entry && e.2.2.1 == ownShard) with
  | some e =>
    let x := { x with shipped := x.shipped.erase e }
    if ownShard then x.dropReader e.2.2.2 else x.updMir e.2.2.2 (fun t => { t with readers := t.readers - 1 })
  | none => x

/-- What a module sends the sapling that shadows it (R288). -/
def State.feed (s : State) (c : CtxId) (f : Feed) : State :=
  if s.grove.shadows.any (fun e => decide (e.1 = c) && e.2.w == s.ident) && !s.grove.spare then s.send (.saplingFeed c f) else s

/-- What a rollback does to the state of a context beyond its steps: slots, step references, logs, accumulators, epoch (R206,
R207). References of copies stay (R153). -/
def Ctx.discard (x : Ctx) : Ctx :=
  let wipe (t : Slot) : Slot := if t.state = .writing ∨ t.state = .provisional then { t with state := .free, data := {} } else t
  let x := x.steps.foldl (fun x t => if t.replay || decide (t.state = .discarded) then x else x.dropReader (t.number - 1)) x
  { x with
    epoch := x.epoch + 1
    live := x.live.map (fun e => (e.1, wipe e.2)), mirror := x.mirror.map (fun e => (e.1, wipe e.2))
    logStacks := x.logStacks.map (fun e => (e.1, e.2.filter (fun l => decide (l.tag.step ≤ x.committed))))
    pushWait := [], accums := [], early := []
    streamNext := match x.steps with
      | t :: _ => t.streamAt
      | [] => x.streamNext
    control := x.control.filter (fun e => match e.1 with
      | .vote _ _ => false
      | _ => true) }

/-- A step as its attempt is discarded: the cause joins its causes (R214, R480). An attempt is discarded once (R222). -/
def Step.discarded (st : Status) (m : BitVec 32) (t : Step) : Step :=
  if t.state = .discarded then t
  else { t with state := .discarded, disturbs := t.disturbs + 1, causes := t.causes ++ [⟨t.attempt, st, m⟩], voted := none, reduced := none }

/-- The ROLLED_BACK completions of a rollback, in step order (R207 step 3, R218): one for each attempt it discards that has posted
PROVISIONAL, and none for an attempt an earlier rollback discarded (R222). -/
def rolledBack (st : Status) : List Step → List Completion
  | [] => []
  | t :: ts =>
    if t.provPosted ∧ t.state ≠ .discarded then
      ⟨.rolledBack, t.attempt, st, t.desc.index, 0, t.number, dTag t.desc.bytes⟩ :: rolledBack st ts
    else rolledBack st ts

/-- A replay ends: its slots are released (R223). -/
def Ctx.endReplay (x : Ctx) : Ctx :=
  match x.replaying with
  | some r => { x with replaying := none, regions := AL.set 6 r.region x.regions }
  | none => x

/-- The next collective of each stream after those of a step, of which every step has the same number (R220, R350, R351). -/
def streamsAfter (p : Program) (at_ : AL Nat Nat) : AL Nat Nat :=
  (p.collectives.map (·.stream)).eraseDups.foldl (fun (a : AL Nat Nat) m =>
    let n := ((p.collectives.filter (fun b => b.stream == m)).map (fun b => b.seqIx + 1)).foldl max 0
    AL.set m (AL.get 0 m a + n) a) at_

/-- The collectives a step behind the given ones begins with (R220). -/
def Ctx.streamsFrom (x : Ctx) (before : List Step) : AL Nat Nat :=
  match before.getLast?, x.prog with
  | some t, some p => streamsAfter p t.streamAt
  | _, _ => x.streamNext

/-- Discarded steps as they are re-executed, each behind those before it (R207, R220). -/
def Ctx.againAll (x : Ctx) (ts : List Step) : List Step :=
  ts.foldl (fun (us : List Step) t => us ++ [(t.again (x.streamsFrom us)).takeEarly x.early]) []

/-- The clearing rolls back: the epoch rises, discarded work stops, state is discarded, ROLLED_BACK is posted, and the
acknowledgement is contributed (R207). `counts` says whether it counts towards REPLAY_LIMIT, `stop` where and why the
ring stops afterwards (R210). -/
def State.rollback (s : State) (c : CtxId) (st : Status) (m : BitVec 32) (counts : Bool) (stop : Option (Nat × Status)) :
    State :=
  let x := s.ctx c
  let cpls := rolledBack st x.steps
  let bump (ts : List Step) : List Step :=
    match ts with
    | t :: us => (if counts then { t with rollbacks := t.rollbacks + 1 } else t) :: us
    | [] => []
  let s := s.updCtx c (fun x => { x.discard with
    takeovers := if st = .moduleLost then x.takeovers else []
    steps := bump (x.steps.map (Step.discarded st m)), stopAt := stop, ackWait := true, replaying := x.replaying })
  let s := (s.dropWork c x.committed).dropTargets c x.committed
  let s := cpls.foldl (fun s k => s.postNow c .step k) s
  let s := s.feed c (.rollback (x.committed + 1))
  (s.send (.contribute c .rollbackAck 0)).zeroLanes

/-- The rollback of a reduced mask that is not 0 (R204, R210): counted if a class failed, the ring stopping at the
oldest step for a stopping cause or at its REPLAY_LIMIT. -/
def State.rollbackMask (s : State) (c : CtxId) (t : Step) (m : BitVec 32) : State :=
  let limit := bitsOf (s.reg (aStepPol c.val)) 3 0
  let counts := decide (m.toNat % 128 ≠ 0)
  let stopping := bitOf m.toNat 8
  let (peer, s) := s.pick .stepPeerStopped (maskStatuses m)
  let st := if t.dirty then t.failCause else peer
  if stopping then s.rollback c st m counts (some (t.number, t.stopCause.getD .stepPeerStopped))
  else if counts ∧ limit ≤ t.rollbacks then s.rollback c st m counts (some (t.number, .stepReplayLimit))
  else s.rollback c st m counts none

/-- The takeover record of a step: sent as it takes effect, and again as its attempt or its PROVISIONAL flag changes (R278;
log 56). -/
def takeoverRec (r : RingSet) (t : Step) : TakeoverRec :=
  ⟨t.number, t.attempt, t.desc.bytes, t.upd, r.step.consumer.toNat, r.service.consumer.toNat, r.cpl2.next, t.provPosted,
    t.batchCrcs⟩

/-- The passes of steps become outstanding in step order (R489). -/
def State.placeSteps (s : State) (c : CtxId) (ts : List Step) : State := ts.foldl (fun (s : State) t => s.placeStep c t.number) s

/-- The acknowledgement of a rollback is complete: the ring stops where it must, and every discarded step before that is
re-executed from the oldest (R207 step 5, R210). A ring that stops rewinds to the stopping descriptor: what had taken effect behind
it is unexecuted again (R210, R218); the causes of the attempts it discards stay for the next attempt's record (R214). -/
def State.reexecute (s : State) (c : CtxId) : State :=
  let x := s.ctx c
  let keep : List Step := match x.stopAt with
    | some (n, _) => x.steps.filter (fun (t : Step) => decide (t.number < n))
    | none => x.steps
  let again : List Step := x.againAll keep
  let s' := s.updCtx c (fun x =>
    let x := { x with ackWait := false, stopAt := none, steps := again
                      early := x.early.filter (fun e => !again.any (fun t => t.number == e.1))
                      lastUpd := match again.getLast? with
                        | some t => if t.replay then x.lastUpd else some t.upd
                        | none => x.commUpd
                      ledger := x.ledger.filter (fun l => decide (l.step ≤ x.committed) || again.any (fun t => t.number == l.step))
                      attempts := again.foldl (fun a (t : Step) => AL.set t.number t.attempt a) x.attempts }
    (again.foldl (fun (x : Ctx) (t : Step) => if t.replay then x else x.addReader (t.number - 1)) x).startOldest)
  let s' := s'.placeSteps c again
  let s' := (again.filter (fun t => !t.replay)).foldl (fun (s : State) t =>
    s.send (.takeoverRecord c (takeoverRec (s.ring (setOf c)) t))) s'
  match x.stopAt with
  | none => s'
  | some (n, cause) =>
    match x.stepNo n with
    | none => s'
    | some t =>
      let gone := x.steps.filter (fun u => decide (n ≤ u.number))
      let s' := s'.updRing (setOf c) (fun r => r.updSub .step (fun u => { u with
        consumer := t.desc.index, head := none, flow := u.flow.takeWhile (fun f => f.index != t.desc.index) }))
      (s'.updCtx c (fun x => if t.replay then x.endReplay else { x with
        causesOf := gone.foldl (fun a (u : Step) => AL.set u.number u.causes a) x.causesOf })).stopRing c .step t.desc.index
        (dTag t.desc.bytes) n t.attempt cause 0

/-! ## The end of a drain (R314) -/

/-- A drain changed. -/
def State.updDrain (s : State) (c : CtxId) (f : Drain → Drain) : State :=
  s.updCtx c (fun x => { x with drain := x.drain.map f })

/-- A drain whose two destinations have ended contributes its bits to the completion all-reduce (R314). -/
def State.drainContribute (s : State) (c : CtxId) : State :=
  match (s.ctx c).drain with
  | some d =>
    match d.sDone, d.gDone with
    | some a, some b =>
      if d.contributed then s
      else
        (s.updCtx c (fun x => { x with drain := some { d with contributed := true } })).send
          (.contribute c (.ckptDone d.step) (BitVec.ofNat 32 ((if a then 1 else 0) + (if b then 2 else 0))))
    | _, _ => s
  | none => s

/-- A drain in progress is given up: each destination that has not ended ends without its checkpoint, and its seedbank slot
holds no valid image. -/
def State.endDrain (s : State) (c : CtxId) : State :=
  match (s.ctx c).drain with
  | some d =>
    let s := match d.sDone, d.sSlot with
      | none, some i => { s with ckpt := { s.ckpt with seed := AL.del i s.ckpt.seed } }
      | _, _ => s
    (s.updDrain c (fun d => { d with
      sDone := some (d.sDone.getD false), gDone := some (d.gDone.getD false), gWait := [] })).drainContribute c
  | none => s

/-- A state is lost: the clearing stops without a vote. It rolls back, a drain in progress is abandoned (coinciding events of
chapter 11), both rings stop with the cause this module posts, and only a RESTORE leads on (R183, R204, R207, R210, R369). -/
def State.clearingStops (s : State) (c : CtxId) (st : Status) : State :=
  let x := s.ctx c
  let s := if x.draining then s.endDrain c else s
  let s := s.rollback c .memStateLost 0 false (x.steps.head?.map (fun t => (t.number, st)))
  let s := s.reexecute c
  let s := if x.steps.isEmpty then s.stopPosted c .step st else s
  let s := if ((s.ring (setOf c)).service).stop.isSome then s else s.stopPosted c .service st
  s.updCtx c (fun x => { x.endReplay with needRestore := true, fresh := true, ackWait := false, waitSpare := false })

/-- MEM_STATE_LOST met here: its event is its signature's (R260, R476); the other modules learn of it by a message (log 49). -/
def State.memStateLost (s : State) (c : CtxId) : State :=
  let s := s.emit (some c) ((s.ctx c).committed + 1) .memStateLost 0 (mkSig 0x0F 0x03 3 s.ident .fatal)
  (s.clearingStops c .memStateLost).send (.stateLost c)

/-! ## Commit (R202) -/

/-- The bytes of a tensor's codes in logical order (R29): whole bytes, low codes first. -/
def packCodes (bits : Nat) (xs : List Nat) : List Byte :=
  let v := xs.foldr (fun x a => x % 2 ^ bits + 2 ^ bits * a) 0
  leBytes (cdiv (bits * xs.length) 8) v

/-- The codes of a drained tensor in logical element order: by its index, tile row, row in the tile, then column (R215;
DEDUCED, log 10). -/
def tensorCodes (tiles : AL (Nat × Nat × Nat × Nat) (List (List Nat))) (tensor : Nat) : List Nat :=
  let mine := tiles.filter (fun e => e.1.1 == tensor)
  let key (e : (Nat × Nat × Nat × Nat) × List (List Nat)) : Nat := (e.1.2.1 * 65536 + e.1.2.2.1) * 2 ^ 40 + e.1.2.2.2
  let sorted := sortBy (fun a b => decide (key a ≤ key b)) mine
  let heads := (sorted.map (fun e => (e.1.2.1, e.1.2.2.1))).eraseDups
  heads.flatMap (fun h =>
    let row := sorted.filter (fun e => (e.1.2.1, e.1.2.2.1) == h)
    let n := (row.map (fun e => e.2.length)).foldl max 0
    (List.range n).flatMap (fun i => row.flatMap (fun e => e.2.getD i [])))

/-- The finite values of codes: their largest magnitude, decoded by a record (R215). -/
def codesAmax (f : Fmt) (r : ScaleRec) (xs : List Nat) : BitVec 32 :=
  let v (x : Nat) : XV :=
    if f.isNarrow then dequant f r.scale r.zp x
    else if f = .fxr64 then (if toSigned 64 x = fxrMarker then .nan else XV.ofScaled (toSigned 64 x) r.fxrExp)
    else decodeFp f x
  rneF32 ((xs.map (fun x => (v x).abs)).foldl (fun a b => if b.isFin then xvMax a b else a) (XV.ofInt 0))

/-- The exact sum of squares of codes, modulo 2¹²⁸; for BF16 and FP32 the rake's FP32 sum (R115, R215). -/
def codesSumSq (f : Fmt) (z : Nat) (xs : List Nat) : Nat :=
  if f = .bf16 ∨ f = .fp32 then
    let w (x : Nat) : BitVec 32 := if f = .bf16 then bf16To32 x else BitVec.ofNat 32 x
    (sumFixed (xs.map (fun x => fmul (w x) (w x)))).toNat
  else
    let unit (x : Nat) : Int :=
      if f.isInt then (x : Int) - z
      else if f = .fxr64 then (if toSigned 64 x = fxrMarker then 0 else toSigned 64 x)
      else match decodeFp f x with
        | .fin neg n d => signedNum neg (n * 2 ^ (f.bias + f.man) / d / 2)
        | _ => 0
    let sum : Int := (xs.map (fun x => unit x * unit x)).foldl (· + ·) 0
    (sum % (2 ^ 128 : Nat)).toNat

/-- The flag word of a tensor: the OR over its instances (R112). -/
def Step.flagsOf (t : Step) (tensor : Nat) : Flags :=
  (t.flagWords.filter (fun e => e.1.1 == tensor)).foldl (fun a e => a.or e.2) {}

/-- Flags taken into the word of a tensor's index (R112). -/
def Step.orFlags (t : Step) (tensor inst : Nat) (f : Flags) : Step :=
  { t with flagWords := AL.upd {} (tensor, inst) (fun a => a.or f) t.flagWords }

/-- The Kiyth entry of a tensor a step wrote, from its parts with the record each was sealed with (R70, R215, R479): amax over all of
them, the sum of squares of all in logical order, the CRC over all. -/
def tensorEntry (t : Step) (tensor fmtCode : Nat) (parts : List (List Nat × ScaleRec)) (rec : Option ScaleRec) : TensorEntry :=
  let f := (Fmt.ofCode fmtCode).getD .fp32
  let all := parts.flatMap (fun e => e.1)
  let amax := (parts.map (fun e => f32 (codesAmax f e.2 e.1))).foldl xvMax (XV.ofInt 0)
  let sum := if f = .bf16 ∨ f = .fp32 then codesSumSq f 0 all
    else ((parts.map (fun e => codesSumSq f e.2.zp e.1)).foldl (· + ·) 0) % 2 ^ 128
  ⟨rec, tensor, fmtCode, t.flagsOf tensor, rneF32 amax, sum, crc64 (packCodes f.bits all)⟩

/-- The instances of a drained tensor in order, each with the record it was sealed with (R70). -/
def Step.instances (t : Step) (tensor : Nat) : List (List Nat × ScaleRec) :=
  let is := sortBy (fun (a b : Nat) => decide (a ≤ b)) ((t.outTiles.filter (fun e => e.1.1 == tensor)).map (fun e => e.1.2.1)).eraseDups
  is.map (fun i => (tensorCodes (t.outTiles.filter (fun e => e.1.2.1 == i)) tensor, (recAt t.records tensor i).getD {}))

/-- The reduced gradients a step wrote here, slice by slice, and its reduced norm (R70, R144, R154; log 129). -/
def Step.reducedParts (t : Step) (p : Program) : List (Nat × Nat × List Nat) :=
  let ss := sortBy (fun (a b : Nat × Slice) => decide (a.1 ≤ b.1)) t.slices
  let grads := (ss.map (fun e => e.2.tensor)).eraseDups
  let of_ (n : Nat) : Nat × Nat × List Nat :=
    (n, 8, ((ss.filter (fun e => e.2.tensor == n)).flatMap (fun e => e.2.vals)).map (ofSigned 64))
  grads.map of_ ++ (match t.qNorm with
    | some q => [(p.normTensor, 8, [ofSigned 64 q])]
    | none => [])

/-- The tensor entries of a step: its drained tensors, its reduced gradients and norm, and the arrays of its version slot, in
increasing id (R70, R479). -/
def tensorEntries (x : Ctx) (t : Step) : List TensorEntry :=
  let recOf (rs : List ScaleRec) (n : Nat) : Option ScaleRec := rs.find? (fun r => r.tensor == n && r.inst == 0 && r.fmt != 0xF)
  let drained := (t.outTiles.map (fun e => e.1.1)).eraseDups
  let es := drained.map (fun n => tensorEntry t n (AL.get 0xA n t.outFmt) (t.instances n) (recOf t.startRecords n))
  let rs := ((x.prog.map t.reducedParts).getD []).filter (fun e => !drained.contains e.1)
  let gs := rs.map (fun e => tensorEntry t e.1 e.2.1 [(e.2.2, (recOf t.records e.1).getD {})] (recOf t.startRecords e.1))
  let slot := x.dataAt t t.number
  let fmtOf (n : Nat) : Nat := match x.prog with
    | some p => ((p.slotTensors.find? (fun a => a.tensor == n)).map (·.fmt)).getD 0xA
    | none => 0xA
  let us := slot.arrays.map (fun a => tensorEntry t a.1 (fmtOf a.1) [(a.2, (recOf slot.records a.1).getD {})] (recOf slot.records a.1))
  sortBy (fun a b => decide (a.tensor ≤ b.tensor)) (es ++ gs ++ us)

/-- The modules of a context's clearing: those its program gives shards, the members of this grove, and this one (R165, R306,
R342). -/
def State.clearingMods (s : State) (c : CtxId) : List Nat :=
  (s.ident :: (s.groveMembers c ++ ((((s.ctx c).prog.map (·.shards)).getD []).flatten))).eraseDups

/-- The firmware builds of every module of the clearing (R213): its own, those its neighbours announce (R333), and for a module
that is no neighbour a free value (log 11). -/
def State.builds (s : State) (c : CtxId) : List (Nat × Nat) :=
  let slot := if s.mss.activeB then s.mss.slotB else s.mss.slotA
  let own := (slot.bundle.map (·.build)).getD 0
  let told := s.link.ports.filterMap (fun e => e.2.beacon.map (fun b => (b.ident, b.fwBuild)))
  (s.clearingMods c).map (fun m => (m, if m = s.ident then own else AL.get (Config.peerBuild m % 2 ^ 32) m told))

/-- The replay entries of a step, by tensor id and then by occurrence (R480). -/
def Step.replayEntries (t : Step) : List ReplayEntry :=
  sortBy (fun a b => decide (a.record.tensor < b.record.tensor) ||
    (a.record.tensor == b.record.tensor && decide (a.record.inst ≤ b.record.inst))) t.replays

/-- The Kiyth record of a step (R213, R478–R481). -/
def State.kiyth (s : State) (c : CtxId) (t : Step) (replay : Bool) : Kiyth :=
  let x := s.ctx c
  let es := tensorEntries x t
  let space := (261888 - 2816 - 64 * es.length) / 48
  let reps := t.replayEntries.take space
  { acr := (x.prog.map (·.acr)).getD 0, replay := replay, skipped := t.skipped, profile := s.mss.activeSlot.val
    step := t.number, attempt := t.attempt, modNo := s.ident, clearing := s.clearingOf c, ctx := c.val
    replayUnlisted := t.replays.length - reps.length, arbitrations := t.nArb, tileReplays := t.nTile
    parityRepairs := t.nParity, batchDigest := sha512 t.batch.flatten, updateDigest := t.digest, update := t.upd
    builds := s.builds c, rngKey := t.rngKey, causes := t.causes.take 32, nCause := t.causes.length
    tensors := es, replays := reps, totalLen := 2816 + 64 * es.length + 48 * reps.length }

/-- QNT_REPLAY_c of a committed step (R466). -/
def qntReplayOf (t : Step) : BitVec 32 :=
  let n (st : Status) : Nat := min 255 (t.replays.filter (fun r => decide (r.cause = st))).length
  BitVec.ofNat 32 (n .scaleSaturation + 256 * n .scaleUnderuse + 65536 * n .fxrOverflow + 16777216 * min 255 t.nTimeout)

/-- The CRC lists of a step's version, which its module and its buddy hold once it is committed (R163, R245, R279 step 4). -/
def Step.copyLists (t : Step) : CopyLists :=
  let shape (l : AL Nat Slice) : List (Nat × Nat × Nat) :=
    (sortBy (fun (a b : Nat × Slice) => decide (a.1 ≤ b.1)) l).map (fun e => (e.2.tensor, e.2.first, e.2.vals.length))
  ⟨⟨t.upd, shape t.slices, t.crcs⟩, ⟨t.recvUpdate.getD t.upd, shape t.recvSlices, t.mirrorCrcs⟩⟩

/-- Commit actions 1 to 3: slots, reference, releases (R202, R149, R212). -/
def Ctx.commitSlots (x : Ctx) (r : Nat) (t : Step) : Ctx :=
  let n := t.number
  let x := x.updLive n (fun u => { u with state := .committed, version := n })
  let x := x.updMir n (fun u => { u with state := .committed, version := n })
  let x := x.updMir (n - 1) (fun u => { u with state := .free, data := {} })
  let x := x.dropReader (n - 1)
  let x := if r = 0 then x.updLive (n - 1) (fun u => { u with state := .free })
    else { (x.updLive (n - 1) (fun u => { u with state := .retained, readers := u.readers + 1 })) with
      keepCopy := x.keepCopy ++ [slotIx x (n - 1)] }
  { x with
    committed := n, commUpd := some t.upd, steps := x.steps.filter (fun u => u.number != n)
    logStacks := x.logStacks.map (fun e => (e.1, e.2.filter (fun l => l.tag.step != n)))
    commLists := some t.copyLists, waitsOn := []
    takeovers := x.takeovers.filter (fun e => e.step != n), causesOf := AL.del n x.causesOf
    qntReplay := qntReplayOf t, durations := (t.duration :: x.durations).take 64
    disturb := ((t.nArb + t.disturbs) :: x.disturb).take 1000 }

/-- The deferred writes of a step, in program order (R221): host address, length, whether the translation fails. -/
def deferredWrites (t : Step) (ws : List (Nat × Nat)) (noPage : List Bool) : List (Nat × Nat × Bool) :=
  ws.zipIdx.map (fun e => (dHostOut t.desc.bytes + e.1.1, e.1.2, noPage.getD e.2 false))

/-- Deferred writes of a step performed, up to the first whose translation fails, which waits for its page (R221, R383). -/
def State.writeOut (c : CtxId) (n : Nat) : List (Nat × Nat × Bool) → State → State × List (Nat × Nat × Bool)
  | [], s => (s, [])
  | w :: ws, s =>
    if w.2.2 then (s.pageRequest c (.deferredWrite n w.1 w.2.1) 0, w :: ws)
    else State.writeOut c n ws (s.hostWrite c n w.1 w.2.1)

/-- A COMMITTED completion posted; the Kiyth record follows once the completion ring has taken it (R202 actions 5 and 6,
R372). -/
def State.commitPost (s : State) (c : CtxId) (k : Kiyth) (x : Completion) : State :=
  let s := s.finish c .step x.descIndex x
  (s.updCtx c (fun y => { y with commitWait := y.commitWait ++ [k] })).commitTail c

/-- Commits go on in step order: the writes of each, then its completion, as far as no write waits for a page (R202 actions 4 and
5). -/
def State.runWrites (c : CtxId) : List HeldCommit → State → State × List HeldCommit
  | [], s => (s, [])
  | h :: hs, s =>
    match State.writeOut c h.step h.todo s with
    | (s, []) => State.runWrites c hs (s.commitPost c h.record h.cpl)
    | (s, ws) => (s, { h with todo := ws } :: hs)

/-- The commits held go on. -/
def State.runHeld (s : State) (c : CtxId) (hs : List HeldCommit) : State :=
  let r := State.runWrites c hs (s.updCtx c (fun x => { x with heldCommits := [] }))
  r.1.updCtx c (fun x => { x with heldCommits := r.2 })

/-- Actions 4 and 5 of a commit: at once, or behind those of an earlier step whose writes wait (R202). -/
def State.holdCommit (s : State) (c : CtxId) (h : HeldCommit) : State :=
  if (s.ctx c).heldCommits.isEmpty then s.runHeld c [h]
  else s.updCtx c (fun x => { x with heldCommits := x.heldCommits ++ [h] })

/-- Active cores of the module, in die then core order. -/
def State.activeCores (s : State) : List CoreId :=
  sortBy (fun a b => decide (a.value ≤ b.value))
    ((s.cores.tbl.filter (fun e => decide (e.2.status = .active))).map (fun e => e.1))

/-- The step statistics of a context leave their band (R253). The median of 64 is the mean of the middle two (log 12);
the step judged is among them (log 156). -/
def State.bandLeft (s : State) (c : CtxId) (t : Step) : Bool :=
  let x := s.ctx c
  let p := s.reg aFtPol
  let ds := sortBy (fun a b => decide (a ≤ b)) x.durations
  let mid2 := ds.getD 31 0 + ds.getD 32 0
  let slow := ds.length == 64 && decide ((100 + bitsOf p 15 8) * mid2 < 200 * t.duration)
  slow || decide (bitsOf p 23 16 < x.disturb.foldl (· + ·) 0)

/-- A commit outside the band starts an automatic rolling test over every active core while AUTO is 1 and 10,000 steps
have committed since the last one ended, counted for each context by itself (R253 does not say; log 131; R251, R253, R254). -/
def State.autoTest (s : State) (c : CtxId) (t : Step) : State :=
  let p := s.reg aFtPol
  let ok := match AL.find? c s.cores.sinceTest with
    | some n => decide (10000 ≤ n)
    | none => true
  if bitOf p 0 && s.cores.test.isNone && ok && s.bandLeft c t then
    { s with cores := { s.cores with
      test := some ⟨c, none, false, bitsOf p 31 24 * 64, t.number, s.activeCores, 0⟩
      sinceTest := AL.set c 0 s.cores.sinceTest } }
  else
    { s with cores := { s.cores with sinceTest := s.cores.sinceTest.map (fun e => if e.1 = c then (e.1, e.2 + 1) else e) } }

/-! ## What a core's reset takes with it (R17, R102, R144, R264) -/

/-- A pass contributes to a gradient block: block number row × 2¹⁶ + column of its output (R144). -/
def feedsBlock (o : PassOrder) (tensor blk : Nat) : Bool := o.outTensor == tensor && o.outRow * 65536 + o.outCol == blk

/-- The gradient accumulators of cores go with their scratchpads: the passes that formed their contributions are outstanding
again (R102, R144). -/
def State.loseGrads (s : State) (gone : CoreId → Bool) : State :=
  allCtx.foldl (fun (s : State) c =>
    (s.ctx c).steps.foldl (fun (s : State) t =>
      let lost := t.grads.filter (fun e => gone e.2.core)
      let waits := t.waitGrads.filter (fun w => gone w.core)
      if lost.isEmpty && waits.isEmpty then s
      else
        (s.updStep c t.number (fun t => { t with
          grads := t.grads.filter (fun e => !gone e.2.core), waitGrads := t.waitGrads.filter (fun w => !gone w.core) })).rerun c t.number
            (fun _ o => lost.any (fun e => feedsBlock o e.1.1 e.1.2.2) || waits.any (fun w => feedsBlock o w.tensor w.blk))) s) s

/-- Dirty shared-cache lines of a compute die are lost with its reset: their reduction targets (R264). -/
def State.loseLines (s : State) (d : Nat) : State :=
  let gone := s.mem.targets.filter (fun e => e.1 / 2 ^ 39 % 4 == d)
  let s := gone.foldl (fun (s : State) e => s.hbmPut e.1 (leBytes e.2.width e.2.before)) s
  { s with mem := { s.mem with cacheLost := s.mem.cacheLost ++ gone.map (fun e => e.1) } }

/-- A step boundary (R19): no pass has begun since the last commit, or no step is provisional and no batch runs in any
context (log 111). -/
def State.atBoundary (s : State) : Bool :=
  s.cores.boundary || allCtx.all (fun c => (s.ctx c).steps.isEmpty && (s.ctx c).batch.isNone)

/-! ## Woodpile pushes (R130, R136–R138) -/

/-- Logs a context's stacks hold. -/
def Ctx.logsHeld (x : Ctx) : Nat := (x.logStacks.map (fun e => e.2.length)).foldl (· + ·) 0

/-- Logs of the context's region of the woodpile, 2 MiB each (R131, R137). -/
def Ctx.logRoom (x : Ctx) : Nat := ((AL.get [] 3 x.regions).map (fun e => e.2.2)).foldl (· + ·) 0

/-- Some log of a step before `n` is unreleased (R138). -/
def Ctx.earlierLog (x : Ctx) (n : Nat) : Bool := x.logStacks.any (fun e => e.2.any (fun l => decide (l.tag.step < n)))

/-- A push: onto its stack if a log is free; waiting while an earlier step's log is unreleased; else WOODPILE_FULL stops the
step (R138). -/
def State.pushLog (s : State) (c : CtxId) (mb : Nat) (tag : LogTag) (payload : List Byte) (core : CoreId) : State :=
  let x := s.ctx c
  if x.logsHeld < x.logRoom then
    s.updCtx c (fun x => { x with logStacks := AL.upd [] mb (fun l => ⟨tag, payload, false, core⟩ :: l) x.logStacks })
  else if x.earlierLog tag.step then s.updCtx c (fun x => { x with pushWait := x.pushWait ++ [(mb, tag, payload, core)] })
  else s.stopStep c tag.step .woodpileFull

/-- Pushes that waited are tried again, in their order (R138). -/
def State.retryPushes (s : State) (c : CtxId) : State :=
  let ws := (s.ctx c).pushWait
  ws.foldl (fun (s : State) (w : Nat × LogTag × List Byte × CoreId) => s.pushLog c w.1 w.2.1 w.2.2.1 w.2.2.2)
    (s.updCtx c (fun x => { x with pushWait := [] }))

/-- The firmware builds of a context's clearing that a Kiyth record has no room for: a 16th or later distinct one (R478). -/
def State.buildsBeyond (s : State) (c : CtxId) : List Nat :=
  if (s.builds c).length ≤ 15 then [] else (((s.builds c).map (fun e => e.2)).eraseDups).drop 15

/-- The MSS log records the builds that a Kiyth record has no room for (R478; the entry's form is the model's, log 128). -/
def State.logBuilds (s : State) (c : CtxId) : State :=
  match s.buildsBeyond c with
  | [] => s
  | bs => s.addLog .event .informational .success bs none

/-- The commit of the oldest provisional step (R202). -/
def State.commit (s : State) (c : CtxId) (t : Step) (noPage : List Bool) : State :=
  let ws := ((s.ctx c).prog.map (·.hostWrites)).getD []
  let k := s.kiyth c t false
  let st := if t.skipped ∧ t.nonfinite then Status.gradNonfinite else .success
  let cpl : Completion := ⟨.committed, t.attempt, st, t.desc.index, 0, t.number, dTag t.desc.bytes⟩
  let s := (s.logBuilds c).updCtx c (fun x => (x.commitSlots s.retention t).startOldest)
  let s := s.holdCommit c ⟨t.number, cpl, k, deferredWrites t ws noPage⟩
  let s := (s.releaseBlocks c (t.number - 1)).endTargets c t.number
  let s := { s with grove := { s.grove with commits := s.grove.commits + 1 } }
  (s.retryPushes c).autoTest c t

/-- The next step of a replay starts: its inputs are held, its records derived from the version before (R223). -/
def Ctx.replayNext (x : Ctx) (n : Nat) : Ctx :=
  match x.replaying with
  | some r =>
    match r.inputs with
    | i :: rest =>
      let t := { newStep n 0 r.desc i.batch x.streamNext with replay := true, upd := i.upd, rngKey := i.rngKey }
      { x with
        replaying := some { r with inputs := rest }
        steps := [t.start x.rescales (AL.get {} ((n - 1) % 3) r.slots : SlotData).records] }
    | [] => x
  | none => x

/-- The next step of a replay starts on the cores (R113, R223, R489). -/
def State.nextReplayed (s : State) (c : CtxId) (n : Nat) : State :=
  let s := s.dropWork c 0
  ((s.updCtx c (fun x => { x with steps := [] }.replayNext n)).zeroLanes).placeStep c n

/-- A replayed step's vote is decided: its record goes to the replay record ring, flagged as a replay; the next step
starts, or the slots are released and the REPLAY completes (R223). -/
def State.replayDecided (s : State) (c : CtxId) (t : Step) : State :=
  let k := s.kiyth c t true
  let s := (s.updRing (setOf c) (fun r => { r with reps := (kiythParts k).foldl (fun w p => w.add p) r.reps })).flushSet (setOf c)
  match (s.ctx c).replaying with
  | some r =>
    if r.base + r.count ≤ t.number then
      ((s.dropWork c 0).updCtx c (fun x => { x.endReplay with steps := [] })).finishDone c .step r.desc.index (dTag r.desc.bytes)
        t.number .success 0
    else s.nextReplayed c (t.number + 1)
  | none => s

/-- Decisions, oldest first, from the reduced masks that have arrived (R201); `noPage` tells of the writes of step `at_`. -/
def State.decideSteps (c : CtxId) (at_ : Nat) (noPage : List Bool) : Nat → State → State
  | 0, s => s
  | n + 1, s =>
    match (s.ctx c).steps with
    | [] => s
    | t :: _ =>
      match t.reduced with
      | none => s
      | some m =>
        if m = 0 ∧ t.replay = true then s.replayDecided c t
        else if m = 0 then State.decideSteps c at_ noPage n (s.commit c t (if t.number = at_ then noPage else []))
        else s.rollbackMask c t m

/-- The module whose shard's buddy this module is, by the program's pairing (R165). -/
def buddyOf (p : Program) (m : Nat) : Option Nat :=
  (p.buddies.find? (fun e => e.1 == m || e.2 == m)).map (fun e => if e.1 = m then e.2 else e.1)

end Sys2Proof.Machine
end

