-- ==== Sys2Proof/Machine/ResetOps.lean ====
section
/-! DEFINITION. Reset domains: entering reset, what each reset clears and holds, the warm and the cold module reset, the
values a profile gives the registers (R264–R268, R393–R397, R459). -/

namespace Sys2Proof.Machine

/-! ## The values of a profile (R393, R396) -/

/-- The registers a profile feeds, with the values it gives them: PWR, MEM_PART, CKPT, LINK_PLAN. -/
def profileRegs (p : Profile) : List (Nat × Nat) :=
  [(aPwrLimit, p.limitW % 4096 + 4096 * (p.brakeW % 4096)), (aPlanSelf, p.self % 4096),
   (aPlanIdLo, p.planId % 2 ^ 32), (aPlanIdHi, p.planId / 2 ^ 32 % 2 ^ 32)] ++
  (List.range 4).flatMap (fun d =>
    (aPartResv d, p.resv.getD d 4 % 256) :: (List.range 7).flatMap (fun q =>
      match p.parts.find? (fun e => e.1 == d && e.2.1 == q) with
      | some e => [(aPartBase d q, e.2.2.1 % 2 ^ 18), (aPartSize d q, e.2.2.2 % 2 ^ 18)]
      | none => [(aPartBase d q, 0), (aPartSize d q, 0)])) ++
  (List.range 16).map (fun c =>
    let e := p.ckpt.getD c (0, 0)
    (aCkptPol c, e.1 % 4 + 256 * (e.2 % 65536))) ++
  [(aCkptCfg, p.seedSlots % 16 + 100 * 16)] ++
  (List.range 40).map (fun n =>
    let e := p.ports.getD n (0, 0, 0)
    (aPlanPort n, e.1 % 4 + 4 * (e.2.1 % 64) + 256 * (e.2.2 % 4096)))

/-- Banks a profile feeds (R393, R455). -/
def profileBanks : List Bank := [.memPart, .linkPlan, .ckpt, .pwr]

/-- The set-up registers at a reset, with the values of the profile in use (R459). -/
def resetRegs (p : Option Profile) : Regs :=
  match p with
  | some p => { active := (profileRegs p).map (fun e => (e.1, BitVec.ofNat 32 e.2)) }
  | none => {}

/-! ## Entering reset (R264–R267) -/

/-- A core's state after its reset: status, strikes, counts and tests stand, and the passes of output blocks it had begun are
outstanding again from the first; the rest has gone (R17, R102, R264). -/
def CoreSt.cleared (k : CoreSt) : CoreSt :=
  { status := k.status, accepted := k.accepted, accepting := k.accepting, strikes := k.strikes, ops := k.ops, arbs := k.arbs, condTemp := k.condTemp
    condShape := k.condShape, test := k.test, toGraft := k.toGraft, passedFull := k.passedFull, acceptRef := k.acceptRef, struck := k.struck
    todo := k.begun.reverse ++ k.todo }

/-- A port's state after its domain's reset: DOWN, credits at their initial values; its laser, attempts, counts and
fence stand (R264, R330, R341). -/
def PortSt.cleared (p : PortSt) : PortSt :=
  { state := if p.state = 5 then 5 else 0, laser := p.laser, lit := p.lit, detour := p.detour, detourBy := p.detourBy, attempts := p.attempts
    peer := p.peer, beacon := p.beacon, drops := p.drops, silent := p.silent, ber := p.ber, markers := p.markers
    replay := p.replay, waiting := p.waiting }

/-- The inactive firmware slot (R404). -/
def State.inactive (s : State) : FwSlot := if s.mss.activeB then s.mss.slotA else s.mss.slotB

/-- The inactive firmware slot changed (R407). -/
def State.setInactive (s : State) (f : FwSlot) : State :=
  if s.mss.activeB then { s with mss := { s.mss with slotA := f } } else { s with mss := { s.mss with slotB := f } }

/-- An update in progress ends at idle, the inactive slot marked invalid (coinciding events of chapter 14). -/
def State.endUpdate (s : State) : State :=
  if s.mss.update.state = .idle then s
  else { s.setInactive { s.inactive with valid := false } with
    mss := { (s.setInactive { s.inactive with valid := false }).mss with update := {} } }

/-- Of the wear monitors, what secure flash holds: the values at first power-on (R283, R404). -/
def firstWear (w : AL (WearUnit × Indicator) WearSt) : AL (WearUnit × Indicator) WearSt :=
  w.map (fun e => (e.1, ⟨e.2.first, e.2.first.getD 0, 0, 0, [], false, false⟩))

/-- What a domain's reset clears (R264). Of the MSS only what secure flash holds and its side of the meeting points stands; the sensors
are read anew through the governor's network (R20, R22, R404). -/
def State.clearDomain (s : State) (d : Domain) : State :=
  match d with
  | .core c => (s.loseGrads (fun k => k == c)).updCore c CoreSt.cleared
  | .hbm _ => s
  | .port p => s.updPort p PortSt.cleared
  | .die e =>
    let s := (s.loseGrads (fun k => decide (k.die = e))).loseLines e.val
    { s with cores := { s.cores with tbl := s.cores.tbl.map (fun x => if x.1.die = e then (x.1, x.2.cleared) else x) } }
  | .guest => { s with guest := { s.guest with outstanding := 0 } }
  | .cp => s
  | .mss =>
    let s := s.endUpdate
    { s with mss := { s.mss with
      reported := some (BitVec.ofNat 32 (s.mss.select.val + (if s.mss.selecting.isSome then 8 else 0) +
        16 * s.mss.activeSlot.val + (if s.mss.profile.isNone then 64 else 0)))
      sessions := [], conns := [], response := none, update := {}, tid := 0, receiver := none, evBuffer := 0, platform := []
      nonces := [], wear := firstWear s.mss.wear } }
  | .warm | .cold => s

/-- A domain enters reset: its generation advances by 1 and what it covers is cleared; within 1 ms of its last advance, its own or an
outer domain's, it is only held in reset until then (R265, R267). -/
def State.enterReset (s : State) (d : Domain) : State :=
  if s.tooSoon d then s.updDom d (fun x => { x with inReset := true, held := true })
  else (s.updDom d (fun x => { x with gen := x.gen + 1, lastAt := some s.now, inReset := true, held := false })).clearDomain d

/-! ## Warm and cold module resets -/

/-- Ports as a warm reset leaves them: DOWN, a fence standing (R264, R341). -/
def warmPort (p : PortSt) : PortSt :=
  { laser := p.laser, lit := p.lit && decide (p.state = 5), state := if p.state = 5 then 5 else 0 }

/-- A core as a warm reset leaves it (R244, R264). -/
def warmCore (k : CoreSt) : CoreSt :=
  { status := k.status, accepted := k.accepted, accepting := k.accepting, strikes := k.strikes, ops := k.ops, condTemp := k.condTemp
    condShape := k.condShape, toGraft := k.toGraft }

/-- A host port as a module reset leaves it: its link is down, its pin as it is (R264, R427). -/
def resetCxlPort (p : CxlPort) : CxlPort := { perst := p.perst }

/-- The warm module reset (R264): everything but the MSS and the always-on domain. Secure flash, pruned list, strikes
and stack contents stand, a logic BIST run ends where it is (log 47), a failed start is tried again unless the module is in
recovery; `full` is the start after a firmware activation, which zeroes the stacks (R408, R429). The channel map keeps
its entries though COUNT returns to its reset or profile value (R172 does not say; log 126). Within 1 ms of the last one the
generation waits (R267). -/
def State.warmReset (s : State) (full : Bool) : State :=
  let s := s.updDom .warm (fun x =>
    if s.tooSoon .warm then { x with inReset := true, held := true }
    else { x with gen := x.gen + 1, lastAt := some s.now, inReset := true, held := false })
  { s with
    regs := resetRegs s.mss.profile
    rings := [], ctxs := []
    cxl := { a := resetCxlPort s.cxl.a, b := resetCxlPort s.cxl.b }
    mem := { s.mem with
      hbm := if full then [] else s.mem.hbm
      mapouts := [], margining := [], repairs := [], scrubs := [], served := [], waiting := [], cacheLost := [], targets := [], atTrigger := s.mem.atTrigger }
    cores := { s.cores with tbl := s.cores.tbl.map (fun e => (e.1, warmCore e.2)), test := none, sinceTest := [] }
    link := { s.link with ports := s.link.ports.map (fun e => (e.1, warmPort e.2)), gens := [], announced := false, fates := [], noticeAt := [] }
    grove := { modStrikes := s.grove.modStrikes, commits := s.grove.commits, retired := s.grove.retired }
    ckpt := { s.ckpt with blocks := []
                          stripes := if full then [] else s.ckpt.stripes }
    guest := { attempts := s.guest.attempts, fenced := s.guest.fenced }
    hub := { s.hub with
      power := .waking, goingTo := 0, wakeNext := false, target := 0, refused := false, timeHi := 0
      dead := s.hub.recovery, bist := { s.hub.bist with running := false }
      starting := if full then .full else .short, pllsDown := [], cpResets := [] } }

/-- A warm reset the module performs on itself after it has reported MODULE_SELF_FENCE to its steward (R270, R377,
R403): a member of a clearing comes back to its grove as a sapling alone (R273). -/
def State.selfFence (s : State) (cause : Option Status) : State :=
  let s := s.addLog .event .recoverable .moduleSelfFence [] none
  let out := s.inClearing || s.grove.retired
  let s := (if s.inClearing || s.grove.sapling.isSome then s.send (.selfFence cause) else s).warmReset false
  { s with grove := { s.grove with retired := out } }

/-- The command processor domain is reset; the fourth reset within 10 s is a warm reset with MODULE_SELF_FENCE instead
(R270). -/
def State.cpReset (s : State) : State :=
  let recent := s.hub.cpResets.filter (fun t => decide (s.now < t + 10000000))
  if 3 ≤ recent.length then s.selfFence none
  else
    let s := { s with hub := { s.hub with cpResets := recent ++ [s.now] } }
    s.enterReset .cp

/-- The state a cold reset starts in (R264, R268, R395, R426, R459): secure flash stands, the module generation advances,
the profile of the sampled slot is in use if it is valid. A cold reset within 1 ms of the last is entered, its generation waiting
(R267). Of the wear monitors secure flash holds the first values alone (R404). -/
def State.coldReset (s : State) (sel : Fin 4) : State :=
  let soon := s.tooSoon .cold
  let gen := if soon then s.moduleGen else s.moduleGen + 1
  { s with
    hub := { domains := [(.cold, { lastAt := some 0, inReset := soon, held := soon })], coldGen := gen, coldCount := s.hub.coldCount + 1, profileSel := sel, mainPower := s.hub.mainPower
             refclk := s.hub.refclk, freeCtr := s.hub.freeCtr, modReset := false }
    regs := {}, rings := [], ctxs := []
    cxl := { a := resetCxlPort s.cxl.a, b := resetCxlPort s.cxl.b }
    mem := {}, cores := { pruned := s.cores.pruned }, link := {}, grove := {}
    ckpt := { seed := s.ckpt.seed }
    mss := { log := s.mss.log, logLost := s.mss.logLost, profiles := s.mss.profiles, activeSlot := sel
             slotA := s.mss.slotA, slotB := s.mss.slotB, activeB := s.mss.activeB, counter := s.mss.counter
             wear := firstWear s.mss.wear
             bootResets := if s.hub.starting = .none then 0 else s.mss.bootResets + 1 }
    gov := { brakeAt := s.gov.brakeAt }, guest := {}, out := s.out }

end Sys2Proof.Machine
end

