-- ==== Sys2Proof/Machine/Arbitration.lean ====
section
/-! DEFINITION. Failed checks and their arbitration, strikes, prunes, acceptance tests, grafts, operation timeouts and
field tests (R19, R25, R102, R226, R235–R244, R251–R263, R271). -/

namespace Sys2Proof.Machine

/-! ## Strikes and prunes (R239–R244) -/

/-- Tile operations after which a strike expires (R239). -/
def strikeWindow : Nat := 1000000

/-- The unexpired strikes of a core (R239). -/
def CoreSt.live (k : CoreSt) : List (Nat × Bool) := k.strikes.filter (fun e => decide (k.ops < e.1 + strikeWindow))

/-- A core is in conditional use (R258, R259). -/
def CoreSt.conditional (k : CoreSt) : Bool := k.condTemp.isSome || k.condShape.isSome

/-- One tile operation executed on a core (R239). -/
def State.countOp (s : State) (k : CoreId) : State := s.updCore k (fun x => { x with ops := x.ops + 1 })

/-- A core may be the referee of an arbitration: active, no strike in its window, not in conditional use, no arbitration
of its own outstanding (R235, R259). -/
def State.mayReferee (s : State) (scan : Bool) (k : CoreId) : Bool :=
  let x := s.core k
  decide (x.status = .active) && x.live.isEmpty && !x.conditional && x.arbs.isEmpty && (!scan || Config.scanCapable k.num.val)

/-- The referee of a tile of core `p` (R235): on the next die, then the two after it, the lowest core number. -/
def State.chooseReferee (s : State) (p : CoreId) (scan : Bool) : Option CoreId :=
  let onDie (j : Nat) : Option CoreId :=
    ((List.finRange 72).map (fun n => (⟨p.die + Fin.ofNat 4 j, n⟩ : CoreId))).find? (s.mayReferee scan)
  match onDie 1 with
  | some r => some r
  | none => match onDie 2 with
    | some r => some r
    | none => onDie 3

/-- A signature about a core, in a step of a context. -/
def coreSig (kind outcome : Nat) (p : CoreId) (sev : Severity) : Signature := mkSig kind outcome 0 p.value sev

/-! ## Acceptance tests of spares (R25, R243) -/

/-- Spares of a die and kind whose core the predicate takes; a core in conditional use takes no other's role, nor does one to be
replaced itself (R259, R286). -/
def State.sparesOf (s : State) (d : Die) (scan : Bool) (f : CoreSt → Bool) : List CoreId :=
  ((List.finRange 72).map (fun n => (⟨d, n⟩ : CoreId))).filter (fun k =>
    decide ((s.core k).status = .spare) && decide (Config.scanCapable k.num.val = scan) && !(s.core k).conditional &&
    !(s.core k).toGraft && f (s.core k))

/-- The spare a die grafts for a core of a kind: the lowest-numbered that has passed its acceptance test (R25, R243). -/
def State.spareFor (s : State) (d : Die) (scan : Bool) : Option CoreId := (s.sparesOf d scan (·.accepted)).head?

/-- The acceptance test of a spare starts, against a reference core chosen as a referee is (R235, R243). -/
def State.beginAcceptance (s : State) (k : CoreId) : State :=
  s.updCore k (fun x => { x with accepting := true, acceptRef := s.chooseReferee k (Config.scanCapable k.num.val) })

/-- The acceptance test of a spare starts where the cores of a die and kind that wait for a graft are more than the spares that
have passed or are in their test: of the lowest-numbered other (R243, R286). -/
def State.startAcceptance (s : State) (d : Die) (scan : Bool) : State :=
  let waiting := s.cores.tbl.filter (fun e => decide (e.1.die = d) && decide (Config.scanCapable e.1.num.val = scan) && e.2.toGraft)
  match s.sparesOf d scan (fun x => !x.accepted && !x.accepting) with
  | k :: _ =>
    if (s.sparesOf d scan (fun x => x.accepted || x.accepting)).length < waiting.length then
      s.beginAcceptance k
    else s
  | [] => s

/-- A core of a kind on a die: the acceptance test its graft needs. -/
def State.acceptFor (s : State) (p : CoreId) : State := s.startAcceptance p.die (Config.scanCapable p.num.val)

/-! ## Prunes (R242–R244) -/

/-- A core has a place in the active set that a graft would fill: it is in it, or has left it without a spare in its place (R19, R256,
R258). -/
def CoreSt.hasPlace (x : CoreSt) : Bool :=
  match x.status with
  | .active | .conditional => true
  | .testing => !(x.test.any (·.grafted))
  | .spare | .fenced => x.toGraft

/-- A core is pruned at once: fenced, listed in secure flash, its incomplete work gone for others to re-execute, and a
spare's acceptance test begun, to be grafted where its place is empty (R19, R102, R242–R244). -/
def State.fenceCore (s : State) (p : CoreId) (c : Option CtxId) (step : Nat) : State :=
  let s := s.updCore p (fun x => { x with
    status := .fenced, stalled := none, test := none, toGraft := x.hasPlace, passedFull := false, struck := false })
  let s := (s.loseGrads (fun k => k == p)).reassign p
  let s := s.updCore p (fun x => { x with mx := {}, blocks := [], rake := {}, rakeOf := none, rakeOut := none, scanOut := [], scanSum := 0 })
  let s := { s with cores := { s.cores with
    pruned := if s.cores.pruned.contains p then s.cores.pruned else s.cores.pruned ++ [p] } }
  let s := (s.enterReset (.core p)).acceptFor p
  s.emit c step .corePruned p.die.val { coreSig 0x10 4 p .informational with
    strikes := min 3 (s.core p).live.length, ctx := (c.map (·.val)).getD 0, step := step
    attempt := ((c.bind (fun c => (s.ctx c).stepNo step)).map (·.attempt)).getD 0 }

/-- The class of a unit's checks (R199, R226, R271). -/
def classOf : CheckUnit → Nat
  | .mx | .drain | .turn | .timeoutMx => 0
  | .vx | .rake | .scan | .timeoutVec => 1
  | .tileTag | .logTag => 2

/-- An arbitration's step is still the attempt it belongs to. -/
def State.arbLive (s : State) (a : Arb) : Bool :=
  match (s.ctx a.ctx).stepNo a.step with
  | some t => t.attempt == a.attempt && decide (t.state ≠ .discarded)
  | none => false

/-- One arbitration of a core ends with a failed class: the step fails it, and the operation is not placed again on a
core charged (R237). -/
def State.arbFail (s : State) (a : Arb) (charged : List CoreId) : State :=
  if s.arbLive a then
    (s.updStep a.ctx a.step (fun t => { t with
      outstanding := t.outstanding - 1, placeExcl := t.placeExcl ++ charged.map (fun k => (k, a.place.op.getD a.place.tensor)) })).failClass
      a.ctx a.step (classOf a.unit) a.status
  else s

/-- The signature of an arbitration's outcome (R260–R262). -/
def State.arbEmit (s : State) (p : CoreId) (a : Arb) (outcome : Nat) (sev : Severity) (checksum : Bool) : State :=
  s.emit (some a.ctx) a.step a.status p.die.val { coreSig a.kind outcome p sev with
    ctx := a.ctx.val, referee := (a.referee.map CoreId.value).getD 0x1FF, strikes := min 3 (s.core p).live.length
    checksumPath := checksum, step := a.step, attempt := a.attempt, tensor := a.place.tensor
    inst := a.place.inst, tileRow := a.place.row, tileCol := a.place.col, tile := a.place.tile, pattern := a.place.pattern
    seed := (((s.ctx a.ctx).stepNo a.step).map (·.rngKey)).getD 0
    expected := a.expected, observed := a.observed }

/-- A strike given to a core, its consequence still to be drawn. -/
def State.addStrike (s : State) (p : CoreId) (checksum : Bool) : State :=
  s.updCore p (fun x => { x with strikes := x.strikes ++ [(x.ops, checksum)], struck := true })

/-- A core just struck is pruned if its strikes have reached 3, or if it is in conditional use (R240, R242). -/
def State.mustPrune (s : State) (p : CoreId) : Bool :=
  let x := s.core p
  decide (x.status ≠ .fenced) && (decide (3 ≤ x.live.length) || x.conditional)

/-- Arbitrations a core holds, of which it is primary, end under row U (R237, R238): each fails its class and strikes the
primary. No prune is made yet. -/
def State.rowU (s : State) (p : CoreId) (as : List Arb) : State :=
  let s := s.updCore p (fun x => { x with arbs := x.arbs.filter (fun a => !as.contains a) })
  as.foldl (fun (s : State) (a : Arb) => ((s.addStrike p false).arbFail a [p]).arbEmit p a 3 .recoverable false) s

/-- Referee recomputations a pruned core was running pass to the next referee, or end under row U (R235, R242). -/
def State.passReferee (s : State) (gone : CoreId) : State :=
  s.cores.tbl.foldl (fun (s : State) (e : CoreId × CoreSt) =>
    let p := e.1
    let mine := (s.core p).arbs.filter (fun a => decide (a.referee = some gone))
    mine.foldl (fun (s : State) (a : Arb) =>
      match s.chooseReferee p a.scan with
      | some r => s.updCore p (fun x => { x with arbs := x.arbs.map (fun b => if b = a then { b with referee := some r } else b) })
      | none => s.rowU p [a]) s) s

/-- The cores struck are judged, at most `n` in a row: a prune fences the core and passes its referee work on. -/
def State.pruneDue (c : Option CtxId) (step : Nat) : Nat → State → State
  | 0, s => s
  | n + 1, s =>
    match (s.cores.tbl.map (fun e => e.1)).find? (fun p => (s.core p).struck) with
    | some p =>
      let s := s.updCore p (fun x => { x with struck := false })
      State.pruneDue c step n (if s.mustPrune p then (s.fenceCore p c step).passReferee p else s)
    | none => s

/-- Every core struck is judged; each of the 288 can be struck, and struck again once by the prune of another. -/
def State.settleStrikes (s : State) (c : Option CtxId) (step : Nat) : State := State.pruneDue c step 576 s

/-- A strike against a core, with the prune it may bring (R240–R242). -/
def State.strike (s : State) (p : CoreId) (checksum : Bool) (c : Option CtxId) (step : Nat) : State :=
  (s.addStrike p checksum).settleStrikes c step

/-! ## Reporting a failed check (R226, R235, R238) -/

/-- The arbitration of a failed check of core `p` begins. A second disagreement, or no referee, ends under row U. -/
def State.reportCheck (s : State) (p : CoreId) (a : Arb) : State :=
  let s := s.updStep a.ctx a.step (fun t => { t with nArb := t.nArb + 1, outstanding := t.outstanding + 1 })
  let mine := (s.core p).arbs.filter (fun b => decide (b.ctx = a.ctx) && b.step == a.step && b.attempt == a.attempt)
  if !mine.isEmpty then
    let all := (s.core p).arbs ++ [a]
    (s.rowU p all).settleStrikes (some a.ctx) a.step
  else
    match s.chooseReferee p a.scan with
    | none => (s.rowU p [a]).settleStrikes (some a.ctx) a.step
    | some r => s.updCore p (fun x => { x with arbs := x.arbs ++ [{ a with referee := some r }] })

/-- What a failed check tells of its operation beside its place: the right output; whether the core's own equals it, false where it
has none; whether it is a scan operation; for a tag failure, who wrote the source block and whether the tag was read at the source. -/
structure FailedOp where
  fix      : Fix := .none
  equal    : Bool := false
  scan     : Bool := false
  writer   : Option CoreId := none
  atSource : Bool := false

/-- The failed operation is a scan operation. -/
def FailedOp.isScan (f : FailedOp) : Bool :=
  f.scan || (match f.fix with
    | .vec (.scan ..) => true
    | _ => false)

/-- A failed check of a tile that core `p` computes for a step of a context; step 0 outside one. -/
def State.checkFailed (s : State) (p : CoreId) (c : CtxId) (n : Nat) (unit : CheckUnit) (status : Status) (kind : Nat)
    (place : Place) (expected observed : Nat) (f : FailedOp) : State :=
  s.reportCheck p
    { kind := kind, fix := f.fix, expected := expected, observed := observed, unit := unit, status := status, ctx := c, step := n
      attempt := (((s.ctx c).stepNo n).map (·.attempt)).getD 0, place := place, referee := none, equal := f.equal, scan := f.isScan
      writer := f.writer, atSource := f.atSource }

/-- The blocks of a core the referee's output replaces, where they still hold what the failed tile wrote. -/
def CoreSt.fixBlocks (k : CoreSt) (bs : List (Fin 2048 × SpadBlock)) : CoreSt :=
  { k with blocks := k.blocks.map (fun e => match bs.find? (fun b => decide (b.1 = e.1) && decide (b.2.tag = e.2.tag)) with
    | some b => (e.1, b.2)
    | none => e) }

/-- The referee's result put in place, where it stands ready (R237 row B). -/
def State.applyFix (s : State) (p : CoreId) (a : Arb) : State :=
  match a.fix with
  | .none | .todo .. | .run _ | .vec _ | .replay _ => s
  | .cache a bytes => s.hbmPut a bytes
  | .blocks bs tiles => (s.updCore p (fun x => x.fixBlocks bs)).updStep a.ctx a.step (fun t => { t with
      outTiles := tiles.foldl (fun m e => AL.set e.1 e.2 m) t.outTiles })
  | .rake acc out bs => s.updCore p (fun x => { x.fixBlocks bs with
      rake := acc, rakeOut := match out with
        | some o => some o
        | none => x.rakeOut })
  | .scan out bs => s.updCore p (fun x => { x.fixBlocks bs with scanOut := out })

/-- STRIKE_EXPIRY (R239): strikes expire after 1,000,000 further tile operations. -/
def execStrikeExpiry (core : CoreId) (s : State) : Host.Outcome State Fault Refusal :=
  .next (s.updCore core (fun x => { x with strikes := x.live }))

/-! ## Acceptance and graft (R25, R243) -/

/-- A spare of a core's kind is left on its die (R25). -/
def State.spareLeft (s : State) (k : CoreId) : Bool :=
  (s.sparesOf k.die (Config.scanCapable k.num.val) (fun _ => true)).any (fun c => c != k && !s.cores.pruned.contains c)

/-- A unit at its end of life has no spare (R286): reported once, to the steward too. -/
def State.eolNoSpare (s : State) (u : WearUnit) : State :=
  if s.hub.eolTold.contains u then s
  else
    let s := { s with hub := { s.hub with eolTold := s.hub.eolTold ++ [u] } }
    (if s.inClearing then s.send .eolNoSpare else s).modEvent .eolNoSpare

/-- Worn cores of a die and kind that still serve and wait for a graft have no spare left: EOL_NO_SPARE (R286). -/
def State.wornWithout (s : State) (p : CoreId) : State :=
  let worn := (s.cores.tbl.filter (fun e => decide (e.1.die = p.die) && e.2.toGraft && decide (e.2.status ≠ .fenced) &&
    decide (Config.scanCapable e.1.num.val = Config.scanCapable p.num.val))).map (fun e => e.1)
  if s.spareLeft p then s else worn.foldl (fun (s : State) k => s.eolNoSpare (.core k)) s

/-- Tile operations counted on a core and on its reference core (R239). -/
def State.countCases (s : State) (k : CoreId) (r : Option CoreId) (n : Nat) : State :=
  let add (s : State) (k : CoreId) : State := s.updCore k (fun x => { x with ops := x.ops + n })
  match r with
  | some r => add (add s k) r
  | none => add s k

/-- ACCEPTANCE_TEST_COMPLETE (R239, R243, R257): the acceptance test of a spare ends: it has passed its 2,048 cases, or fails one, is
fenced with SPARE_REJECTED and listed (R244), and the next spare is tested. -/
def execAcceptanceTestComplete (core : CoreId) (fail : Option CaseFail) (s : State) : Host.Outcome State Fault Refusal :=
  .next (
    let ref := (s.core core).acceptRef
    if (s.core core).status ≠ .spare ∨ (s.core core).accepting = false then s
    else
      match fail with
      | none => (s.countCases core ref 2048).updCore core (fun x => { x with accepted := true, accepting := false, acceptRef := none })
      | some e =>
        let s := s.countCases core ref (min 2048 (e.caseNo + 1))
        let s := s.emit none 0 .fieldTestFail core.die.val { coreSig 0x0E 5 core .informational with
          referee := (ref.map CoreId.value).getD 0x1FF, tile := e.caseNo, expected := e.ref, observed := e.tested
          strikes := min 3 (s.core core).live.length }
        let s := (s.updCore core (fun x => { x with status := .fenced, accepting := false, acceptRef := none })).acceptFor core
        let s := { s with cores := { s.cores with
          pruned := if s.cores.pruned.contains core then s.cores.pruned else s.cores.pruned ++ [core] } }
        (s.wornWithout core).emit none 0 .spareRejected core.die.val { coreSig 0x10 8 core .informational with
          strikes := min 3 (s.core core).live.length })

/-- The active set of a die has room for a core of a kind: 64 cores, 8 of them scan-capable (R19). -/
def State.activeRoom (s : State) (k : CoreId) : Bool :=
  let act := s.activeCores.filter (fun c => decide (c.die = k.die))
  let scan (c : CoreId) : Bool := Config.scanCapable c.num.val
  decide (act.length < 64) && (decide ((act.filter scan).length < 8) || !scan k)

/-- A core leaves the active set at a step boundary, whole: its accumulators, its outstanding passes and its referee work go
to others, and it is reset (R16, R19, R235, R264, R489). -/
def State.leaveActive (s : State) (p : CoreId) (status : CoreStatus) : State :=
  let s := (s.updCore p (fun x => { x with status := status })).loseGrads (fun k => k == p)
  ((s.reassign p).passReferee p).enterReset (.core p)

/-- A core joins the active set where that has room; else it stays a spare (R19). -/
def State.joinActive (s : State) (p : CoreId) : State :=
  s.updCore p (fun x => { x with status := if s.activeRoom p then .active else .spare })

/-- A spare takes the place of a core: the core is fenced and listed, the spare reset and in the active set (R16, R19, R243,
R244, R264, R286). A worn spare is fenced with none in its place (log 152). -/
def State.graftFor (s : State) (p : CoreId) : State :=
  let out (s : State) : State :=
    let s := (s.leaveActive p .fenced).updCore p (fun x => { x with toGraft := false })
    { s with cores := { s.cores with pruned := if s.cores.pruned.contains p then s.cores.pruned else s.cores.pruned ++ [p] } }
  if (s.core p).status = .spare then out s
  else
    match s.spareFor p.die (Config.scanCapable p.num.val) with
    | some k => (((out s).enterReset (.core k)).joinActive k).wornWithout k
    | none => s

/-- GRAFT (R243): at a step boundary every core of the die that waits for a graft gets one if a spare has passed. -/
def execGraft (d : Die) (s : State) : Host.Outcome State Fault Refusal :=
  .next (
    if !s.atBoundary then s
    else
    let waiting := (s.cores.tbl.filter (fun e => decide (e.1.die = d) && e.2.toGraft)).map (fun e => e.1)
    waiting.foldl State.graftFor s)

/-! ## Field tests (R251–R259) -/

/-- The outcome of a core's finished cases, its failing ones struck already (R241, R257–R259): passed, fully fenced, or in conditional use where its failures
share one condition. Which of two shared conditions restricts it is open (log 14). -/
def State.testVerdict (s : State) (k : CoreId) (t : CoreTest) : State :=
  let fence (s : State) : State := (s.fenceCore k none 0).passReferee k
  if t.fails.isEmpty then s
  else if bitOf (s.reg aFtPol) 1 = false ∨ t.fails.any (fun e => e.2.2) = true then fence s
  else
    let temps := t.fails.map (fun e => e.1)
    let tf := temps.foldl min (temps.headD 0)
    let shape := (t.fails.map (fun e => e.2.1)).headD 0
    let byTemp := if t.full && decide (t.low < tf) then [(some (tf - 10), (none : Option Nat))] else []
    let byShape := if t.fails.all (fun e => e.2.1 == shape) then [((none : Option Nat), some shape)] else []
    match byTemp ++ byShape with
    | [] => fence s
    | r :: rs =>
      let (r, s) := s.pick r (r :: rs)
      let s := s.updCore k (fun x => { x with condTemp := r.1, condShape := r.2 })
      s.emit none 0 .fieldTestFail k.die.val (coreSig 0x0E 6 k .informational)

/-- The last core of a test is done: the test ends, and its descriptor completes (R251, R370). -/
def State.testEnd (s : State) : State :=
  match s.cores.test with
  | none => s
  | some t =>
    let busy := s.cores.tbl.any (fun e => e.2.test.isSome)
    if !t.todo.isEmpty || busy then s
    else
      let s := { s with cores := { s.cores with test := none, sinceTest := if t.index.isNone then AL.set t.ctx 0 s.cores.sinceTest else s.cores.sinceTest } }
      match t.index with
      | some ix =>
        let tag := (((s.ring (setOf t.ctx)).service.flow.find? (fun f => f.index == ix)).map (·.userTag)).getD 0
        s.finishDone t.ctx .service ix tag 0 .success 0
      | none => s

/-- What the cases of a field test cycle through (R254). -/
inductive CaseKind
  | pass (tile row : Fmt) (broadcast : Bool)
  | turn
  | fused (fn : DrainFn)
  | vector (cls : Nat)
  | rake (op : Fin 8)
  | scan (op : Fin 5)
  deriving DecidableEq, Repr

/-- The kinds of cases in the order of R254, the scan operations for a core that has them (log 113). -/
def caseKinds (scan : Bool) : List CaseKind :=
  let fmts : List Fmt := [.int8, .int4, .int2, .e4m3, .e5m2, .fp4, .bf16]
  let pairs := (fmts.flatMap (fun t => fmts.map (fun r => (t, r)))).filter (fun e => pairingOk e.1 e.2)
  pairs.flatMap (fun e => [.pass e.1 e.2 false, .pass e.1 e.2 true]) ++ [.turn] ++
    ([DrainFn.relu, .sqRelu, .gelu, .silu, .swiglu, .softmax].map .fused) ++ (List.range 9).map .vector ++
    (List.finRange 8).map .rake ++ (if scan then (List.finRange 5).map .scan else [])

/-- The kind of case `n` of a test of a core (R254). -/
def caseKind (k : CoreId) (n : Nat) : CaseKind :=
  let ks := caseKinds (Config.scanCapable k.num.val)
  ks.getD (n % ks.length) .turn

/-- The passes of the loaded step programs (R255). -/
def State.loadedPasses (s : State) : List PassOrder :=
  allCtx.flatMap (fun c => (((s.ctx c).prog.map (·.placement)).getD []).map (fun e => e.2))

/-- A load pattern fits the kind of its case: the hash of the unit's operation, or of a pass shape of the loaded step programs in
the pairing, mode and drain of the case; any pass shape in a test of random shapes or while no program is loaded (R254, R255,
R261, R472). -/
def State.patternFits (s : State) (anyShape : Bool) (shape : Nat) : CaseKind → Bool
  | .vector c => (List.range 16).any (fun f => vecPattern c f == shape)
  | .rake _ => (List.range 16).any (fun f => vecPattern 9 f == shape)
  | .scan _ => (List.range 16).any (fun f => vecPattern 10 f == shape)
  | .pass t r b => anyShape || s.loadedPasses.isEmpty || s.loadedPasses.any (fun o =>
      patternHash { o with tileFmt := t, rowFmt := r, turn := false, fn := .none } b == shape)
  | .turn => anyShape || s.loadedPasses.isEmpty || s.loadedPasses.any (fun o => patternHash { o with turn := true, fn := .none } false == shape)
  | .fused fn => anyShape || s.loadedPasses.isEmpty || s.loadedPasses.any (fun o => patternHash { o with turn := false, fn := fn } false == shape)

/-- The condition sets of a full-mode test of a core (R255, R472): temperature targets from the present junction up to 95 °C by
5 °C, supplies within 3 % of the operating point and 0.70–0.80 V in whole steps of 10 mV, clocks from 600 to 750 MHz by 25
MHz; what is not swept stays at the operating point (log 113). -/
def State.sweep (s : State) (k : CoreId) (bits : Nat) : List TestCond :=
  let now := s.sensor (.junction (Fin.ofNat 7 (k.die.val + 1))) / 8
  let op := (s.sensor (.vdd k.die)).toNat
  let clk := 25 * s.ceiling k.die.val
  let temps : List (Option Int) :=
    if bitOf bits 0 then ((List.range 64).map (fun (i : Nat) => now + 5 * (i : Int))).filterMap (fun t => if t ≤ 95 then some (some t) else none)
    else [none]
  let mvs := if bitOf bits 1 then ((List.range 11).map (fun i => 700 + 10 * i)).filter (fun v =>
      decide (97 * op ≤ 100 * v) && decide (100 * v ≤ 103 * op)) else [op]
  let mhzs := if bitOf bits 2 then (List.range 7).map (fun i => 600 + 25 * i) else [clk]
  temps.flatMap (fun t => mvs.flatMap (fun v => mhzs.map (fun f => ⟨t, v, f, decide (v = op) && decide (f = clk)⟩)))

/-- The place in the sweep of the condition case `n` of a test runs at (R255; log 113). -/
def CoreTest.condNo (t : CoreTest) (n : Nat) : Nat := n * t.conds.length / max 1 t.cases

/-- The condition case `n` of a test runs at: the cases are spread over the sweep in its order (R255; log 113). -/
def CoreTest.cond (t : CoreTest) (n : Nat) : Option TestCond := t.conds[t.condNo n]?

/-- Supply, clock and load are the die's (R255): a core goes on to a condition once no core of its die has a case of an earlier one left. -/
def State.condTurn (s : State) (core : CoreId) (t : CoreTest) : Bool :=
  !s.cores.tbl.any (fun e => decide (e.1.die = core.die) && decide (e.1 ≠ core) && (match e.2.test with
    | some u => decide (u.done < u.cases) && decide (u.condNo u.done < t.condNo t.done)
    | none => false))

/-- The junction has reached the target of a condition (R255). -/
def TestCond.reached (c : Option TestCond) (temp : Nat) : Bool :=
  match c.bind (·.temp) with
  | some t => decide (t ≤ temp)
  | none => true

/-- The case is one of a scan operation. -/
def CaseKind.isScan : CaseKind → Bool
  | .scan _ => true
  | _ => false

/-- The reference core of a test's next case: the one it has while that may be one, else chosen as a referee is, scan-capable for a
scan operation (R119, R235, R254, R259). -/
def State.testRef (s : State) (core : CoreId) (t : CoreTest) : Option CoreId :=
  let scan := (caseKind core t.done).isScan
  match t.ref with
  | some r => if s.mayReferee scan r then some r else s.chooseReferee core scan
  | none => s.chooseReferee core scan

/-- FIELD_TEST_CASE_COMPLETE (R239, R241, R254–R258): the next case of a core, of its kind, ends at the condition its place in the sweep
gives it, once the junction has reached that condition's target; unequal outputs or a failed check of the tested core's own fail it
and strike it. A case whose reference core fails a check of its own is run again (log 113). Without conditional use the core is fenced
at its first failing case. `temp` in °C. -/
def execFieldTestCaseComplete (core : CoreId) (caseNo ref tested : Nat) (ownChecksOk refChecksOk : Bool) (temp shape : Nat)
    (s : State) : Host.Outcome State Fault Refusal :=
  .next (
    match (s.core core).test with
    | none => s
    | some t =>
      let cond := t.cond t.done
      let offPoint := (cond.map (fun c => !c.atOp)).getD false
      match s.testRef core t with
      | none => s
      | some r =>
      if caseNo ≠ t.done || !s.patternFits t.shapes shape (caseKind core caseNo) || !TestCond.reached cond temp || !s.condTurn core t then s
      else
      let s := s.countOp r
      if !refChecksOk then s.updCore core (fun x => { x with test := some { t with ref := none } }) else
      let s := s.countOp core
      let bad := !ownChecksOk || ref != tested
      let t := { t with done := t.done + 1, low := if t.done = 0 then temp else min t.low temp, ref := some r
                        fails := if bad then t.fails ++ [(temp, shape, offPoint)] else t.fails }
      let s := s.updCore core (fun x => { x with
        test := some t, strikes := if bad then x.strikes ++ [(x.ops, false)] else x.strikes })
      let s := if bad then
          s.emit none 0 .fieldTestFail core.die.val { coreSig 0x0E 5 core .informational with
            referee := r.value, pattern := shape, tile := caseNo, strikes := min 3 (s.core core).live.length
            seed := (s.cores.test.map (·.seed)).getD 0, expected := ref, observed := tested
            temp := if cond.isSome then 8 * (temp : Int) else 0, vdd := (cond.map (fun c => (c.mv : Int))).getD 0
            clock := (cond.map (fun c => c.mhz)).getD 0 }
        else s
      let stopNow := bad && !bitOf (s.reg aFtPol) 1
      if stopNow || decide (t.cases ≤ t.done) then
        let s := s.updCore core (fun x => { x with
          test := none, passedFull := t.full && t.fails.isEmpty
          status := if x.status = .testing ∧ t.grafted then .spare else x.status })
        (s.testVerdict core t).testEnd
      else s)

/-- The next core of a rolling test can leave the active set: no referee recomputation is its (coinciding events of
chapter 9). -/
def State.isReferee (s : State) (k : CoreId) : Bool :=
  s.cores.tbl.any (fun e => e.2.arbs.any (fun a => decide (a.referee = some k)))

/-- Cores that have passed their cases without a graft return to the active set (R256). -/
def State.backFromTest (s : State) : State :=
  ((s.cores.tbl.filter (fun e => decide (e.2.status = .testing) && e.2.test.isNone)).map (fun e => e.1)).foldl State.joinActive s

/-- ROLLING_TEST_CORE_SWITCH (R256): at a step boundary a core that passed without a graft returns to the active set, and
the next core of the mask leaves it for its cases, a spare taking its place. -/
def execRollingTestCoreSwitch (s : State) : Host.Outcome State Fault Refusal :=
  .next (
    if !s.atBoundary then s
    else
    let s := s.backFromTest
    match s.cores.test with
    | none => s
    | some t =>
      if t.full then s
      else
        if s.cores.tbl.any (fun e => e.2.test.isSome) then s
        else
          match t.todo with
          | [] => s.testEnd
          | k :: rest =>
            if s.isReferee k then s
            else if (s.core k).status = .fenced then
              { s with cores := { s.cores with test := some { t with todo := rest } } }.testEnd
            else
              let s := { s with cores := { s.cores with test := some { t with todo := rest } } }
              let active := decide ((s.core k).status = .active)
              let spare := if active then s.spareFor k.die (Config.scanCapable k.num.val) else none
              let s := if active then s.leaveActive k .testing else s.enterReset (.core k)
              let s := s.updCore k (fun x => { x with test := some ⟨t.cases, 0, [], 0, spare.isSome, false, [], false, none⟩ })
              match spare with
              | some r => (s.enterReset (.core r)).joinActive r
              | none => s)

/-- CONDITIONAL_USE_BOUNDARY (R19, R258): at a step boundary a core restricted by temperature leaves the active set above its
limit, and returns at or below it where the set has room. -/
def execConditionalUseBoundary (core : CoreId) (temp : Nat) (s : State) : Host.Outcome State Fault Refusal :=
  .next (
    match (s.core core).condTemp with
    | some limit =>
      if !s.atBoundary then s
      else if (s.core core).status = .active ∧ limit < temp then s.leaveActive core .conditional
      else if (s.core core).status = .conditional ∧ temp ≤ limit ∧ s.activeRoom core = true then
        s.updCore core (fun x => { x with status := .active })
      else s
    | none => s)

end Sys2Proof.Machine
end

