-- ==== Sys2Proof/Machine/SlotImage.lean ====
section
/-! DEFINITION. The bytes of scale records, of a version slot and of a shard image, its digest and its receipt (R29, R62,
R304–R307, R482). -/

namespace Sys2Proof.Machine

/-- A scale record in its 32 bytes, the fields of the other kind written 0 (R62). -/
def recBytes (r : ScaleRec) : List Byte :=
  let r := onlyUsed r
  let b (v : Bool) (n : Nat) : Nat := if v then 2 ^ n else 0
  leBytes 4 (r.tensor % 65536 + r.inst % 256 * 65536 + r.fmt % 16 * 2 ^ 24 + b r.rot 28 + b r.smooth 29 + b r.weight 30) ++
  leBytes 4 (r.step % 2 ^ 32) ++
  leBytes 4 (r.step / 2 ^ 32 % 65536 + r.epoch % 256 * 65536 + r.zp % 256 * 2 ^ 24) ++
  leBytes 4 r.scale.toNat ++ leBytes 4 r.mult ++
  leBytes 4 (r.shift % 64 + b r.strict 6 + b r.sealed 7 + ofSigned 11 r.fxrExp * 256 + r.guard % 32 * 2 ^ 19 +
    r.satT % 16 * 2 ^ 24 + r.histN % 8 * 2 ^ 28) ++
  leBytes 2 r.h0.toNat ++ leBytes 2 r.h1.toNat ++ leBytes 2 r.h2.toNat ++ leBytes 2 r.h3.toNat

/-- The record of a tensor in a list of records: its position 0 (R66). -/
def recOf (rs : List ScaleRec) (tensor : Nat) : Option ScaleRec :=
  rs.find? (fun r => r.tensor == tensor && r.inst == 0 && r.fmt != 0xF)

/-- The format of a slot's array (R494). -/
def slotFmt (p : Program) (tensor : Nat) : Fmt :=
  (((p.slotTensors.find? (fun a => a.tensor == tensor)).bind (fun a => Fmt.ofCode a.fmt))).getD .fp32

/-- A scale record from its 32 bytes (R62). -/
def recFrom (b : List Byte) : ScaleRec :=
  let w (i n : Nat) : Nat := leNat ((b.drop i).take n)
  { tensor := w 0 2, inst := w 2 1, fmt := w 3 1 % 16, rot := bitOf (w 3 1) 4, smooth := bitOf (w 3 1) 5, weight := bitOf (w 3 1) 6
    step := w 4 4 + w 8 2 * 2 ^ 32, epoch := w 10 1, zp := w 11 1, scale := BitVec.ofNat 32 (w 12 4), mult := w 16 4
    shift := w 20 1 % 64, strict := bitOf (w 20 1) 6, sealed := bitOf (w 20 1) 7, fxrExp := toSigned 11 (bitsOf (w 20 4) 18 8)
    guard := bitsOf (w 20 4) 23 19, satT := bitsOf (w 20 4) 27 24, histN := bitsOf (w 20 4) 30 28
    h0 := BitVec.ofNat 16 (w 24 2), h1 := BitVec.ofNat 16 (w 26 2), h2 := BitVec.ofNat 16 (w 28 2), h3 := BitVec.ofNat 16 (w 30 2) }

/-- A position of the scale tensor that the program does not use: FORMAT 0xF (R66), every other field 0 (DESIGN CHOICE, log 144). -/
def unusedRec : ScaleRec := { fmt := 0xF, satT := 0 }

/-- The body of a shard image: the slot in canonical order, then t, then the scale tensor (R304). -/
def slotBody (p : Program) (d : SlotData) : List Byte :=
  let arrays := sortBy (fun (a b : Nat × List Nat) => decide (a.1 ≤ b.1)) d.arrays
  let one (a : Nat × List Nat) : List Byte :=
    let f := slotFmt p a.1
    packCodes f.bits a.2 ++
      (if f.isNarrow || decide (f = .fxr64) then recBytes ((recOf d.records a.1).getD { fmt := 0xF }) else [])
  arrays.flatMap one ++ leBytes 4 (d.t % 2 ^ 32) ++
    (d.records ++ List.replicate (p.scaleLen - d.records.length) unusedRec).flatMap recBytes

/-- The clearing shape hash (R306). -/
def shapeHash (p : Program) : List Byte :=
  let members := sortBy (fun a b => decide (a ≤ b)) p.shards.flatten.eraseDups
  let rank (m : Nat) : Nat := (members.filter (fun k => decide (k < m))).length
  let arrays := sortBy (fun a b => decide (a.tensor ≤ b.tensor)) p.slotTensors
  sha512 (Config.shapeBytes
    ([[members.length, p.shards.length, (p.shards.map List.length).headD 0], p.bodyLens] ++
      arrays.map (fun a => [a.tensor, a.fmt, a.count]) ++ p.buddies.map (fun e => [rank e.1, rank e.2])))

/-- The shard a module holds, by routing identity (R306). -/
def shardOf (p : Program) (m : Nat) : Nat := (p.shards.findIdx? (fun ms => ms.contains m)).getD 0

/-- The writer of record of a shard: its lowest-numbered replica that is not lost (R303, R315). -/
def writerOf (p : Program) (lost : List Nat) (shard : Nat) : Option Nat :=
  match (p.shards.getD shard []).filter (fun m => !lost.contains m) with
  | [] => none
  | m :: ms => some (ms.foldl min m)

/-- The header of a shard image (R482). -/
def imageHeader (p : Program) (writer step bodyLen t : Nat) : List Byte :=
  leBytes 2 0x0100 ++ leBytes 6 step ++ leBytes 2 p.acr ++ leBytes 2 writer ++ leBytes 4 (shardOf p writer) ++
  leBytes 8 bodyLen ++ leBytes 4 (t % 2 ^ 32) ++ leBytes 4 (cdiv (4096 + bodyLen) 2097152) ++ leBytes 32 0 ++
  shapeHash p ++ leBytes 3968 0

/-- The 2 MiB blocks of bytes, the last padded with zeros (R304). -/
def blocksOf (bs : List Byte) : List (List Byte) :=
  (List.range (cdiv bs.length 2097152)).map (fun i =>
    let b := (bs.drop (2097152 * i)).take 2097152
    b ++ List.replicate (2097152 - b.length) 0)

/-- The leaf list of an image (R304, R305). -/
def leafList (headerBody : List Byte) : List Byte := (blocksOf headerBody).flatMap sha512

/-- The shard digest: SHA-512 of the header and the leaf list (R305). -/
def shardDigest (p : Program) (writer step : Nat) (d : SlotData) : List Byte :=
  let body := slotBody p d
  let h := imageHeader p writer step body.length d.t
  sha512 (h ++ leafList (h ++ body))

/-- Blocks of a shard image, its leaf list among them (R304). -/
def imageBlocks (p : Program) (d : SlotData) : Nat :=
  let n := 4096 + (slotBody p d).length
  cdiv (n + 64 * cdiv n 2097152) 2097152

/-- Bytes of a shard image. -/
def imageBytes (p : Program) (writer step : Nat) (d : SlotData) : List Byte :=
  let body := slotBody p d
  let h := imageHeader p writer step body.length d.t
  h ++ body ++ leafList (h ++ body)

/-- The shard image of a slot, as a drain writes it. -/
def shardImage (p : Program) (writer step : Nat) (d : SlotData) : ShardImage :=
  ⟨step, p.acr, writer, shardOf p writer, shapeHash p, d, shardDigest p writer step d, true⟩

/-- The signed bytes of a receipt (R482). -/
def receiptBytes (r : Receipt) : List Byte :=
  leBytes 2 0x0100 ++ leBytes 1 (match r.dest with | .s => 0 | .g => 1 | .e => 2) ++ leBytes 1 r.degraded ++
  leBytes 6 r.step ++ leBytes 2 r.acr ++ leBytes 4 r.shard ++ leBytes 2 r.writer ++ leBytes 2 r.clearing ++
  leBytes 4 0 ++ leBytes 8 r.serial ++ leBytes 32 0 ++ r.digest ++ r.shapeHash ++ leBytes 64 0

/-- The shard receipt of this module for a destination (R307, R482). -/
def State.receiptOf (s : State) (c : CtxId) (p : Program) (dest : Dest) (degraded step : Nat) (d : SlotData) : Receipt :=
  ⟨dest, degraded, step, p.acr, shardOf p s.ident, s.ident, s.clearingOf c, Config.serial, shardDigest p s.ident step d, shapeHash p⟩

/-- A shard receipt issued by this module for a destination (R307, R320). Its signature is a free value: a signature by
the module's identity key. The event that posts it has status 0x0000 (R486 gives no code; log 133); that of a failed context goes to ring set 16 (coinciding
events of chapter 13). -/
def State.issueReceipt (s : State) (c : CtxId) (p : Program) (dest : Dest) (degraded step : Nat) (d : SlotData) :
    Receipt × State :=
  let r := s.receiptOf c p dest degraded step d
  let n := s.draw
  let set := if (s.ring (setOf c)).step.stop = some .ctxFailed then moduleSet else setOf c
  (r, n.2.event set .success (.receipt r (Config.freeBytes n.1)))

end Sys2Proof.Machine
end

