-- ==== Sys2Proof/Machine/Formats.lean ====
section
/-! DEFINITION. The byte forms of what the module writes into host memory and onto its links: completions, progress records,
events with their payloads, metric headers, Kiyth records and their parts, beacons and packet headers (R8, R9, R11, R261, R333,
R344, R473–R480, R488). Every field is little-endian, stands in the low bits of its place, and every reserved bit is 0. -/

namespace Sys2Proof.Machine

/-- Fields of a word from bit 0 on, each a value and its width; what a value has above its width is cut off (R8, R11). -/
def packBits : List (Nat × Nat) → Nat
  | [] => 0
  | (v, w) :: fs => v % 2 ^ w + 2 ^ w * packBits fs

/-- Bytes padded with zeros to a length, or cut to it. -/
def padTo (n : Nat) (bs : List Byte) : List Byte := bs.take n ++ List.replicate (n - bs.length) 0

/-! ## Completions and progress records (R473, R474) -/

/-- A completion record of 32 bytes at a ring index (R473). -/
def completionBytes (index : Nat) (k : Completion) : List Byte :=
  leBytes 4 ((index + 1) % 2 ^ 32) ++ leBytes 1 k.kind.code ++ leBytes 1 k.attempt ++ leBytes 2 k.status.code ++
  leBytes 4 k.descIndex.toNat ++ leBytes 4 k.detail ++ leBytes 6 k.step ++ leBytes 2 0 ++ leBytes 8 k.userTag

/-- A progress record of 64 bytes of a ring set (R474). -/
def progressBytes (set : Nat) (p : Progress) : List Byte :=
  leBytes 2 (packBits [(p.modNo, 12)]) ++ leBytes 1 p.gen ++ leBytes 1 set ++ leBytes 8 p.count ++ leBytes 8 p.time ++
  (if set = 16 then leBytes 20 0
   else leBytes 6 p.committed ++ leBytes 1 p.prov ++ leBytes 1 (packBits [(p.wait, 3)]) ++ leBytes 4 (packBits [(p.status, 10)]) ++
     leBytes 4 p.cons0 ++ leBytes 4 p.cons1) ++ leBytes 24 0

/-! ## Signatures (R260, R261, R488) -/

/-- The vendor section of a signature: 24 words (R261). -/
def vendorSection (clearing : Nat) (g : Signature) : List Byte :=
  let w (fs : List (Nat × Nat)) : List Byte := leBytes 4 (packBits fs)
  w [(0x0100, 16), (96, 16)] ++
  w [(g.kind, 8), (g.outcome, 8), (g.unitType, 4), (0, 4), (g.ctx, 4)] ++
  w [(g.modNo, 12), (clearing, 12), (g.count, 8)] ++
  w [(g.unit, 16), (g.referee, 9), (g.strikes, 3), (if g.checksumPath then 1 else 0, 1)] ++
  w [(g.step, 32)] ++ w [(g.step / 2 ^ 32, 16), (g.attempt, 8)] ++
  w [(ofSigned 16 g.temp, 16), (ofSigned 16 g.vdd, 16)] ++ w [(g.clock, 16)] ++
  leBytes 8 g.pattern ++ leBytes 8 g.seed ++
  w [(g.tensor, 16), (g.inst, 8)] ++ w [(g.tileRow, 16), (g.tileCol, 16)] ++ w [(g.tile, 32)] ++ w [] ++
  leBytes 8 g.expected ++ leBytes 8 g.observed ++ leBytes 16 0

/-- A GUID in the byte order of UEFI: its first three fields little-endian, the rest as written. -/
def guidBytes (a b c : Nat) (rest : List Nat) : List Byte :=
  leBytes 4 a ++ leBytes 2 b ++ leBytes 2 c ++ rest.map (BitVec.ofNat 8)

/-- The section type GUID of a signature (R260). -/
def sectionGuid : List Byte := guidBytes 0x7E3A91C4 0x2B6D 0x4F08 [0x9C, 0x51, 0xA4, 0xD2, 0xE6, 0xF3, 0x0B, 0x17]

/-- The creator GUID of a record (R488). -/
def creatorGuid : List Byte := guidBytes 0x3C8E52A1 0x7D40 0x4B96 [0xA2, 0xF3, 0x19, 0xE6, 0xC0, 0xD8, 0x4B, 0x5A]

/-- A CPER record of 296 bytes: header, section descriptor, vendor section (R260, R476, R488). `cold`: the count of cold resets.
The places of the fields in header and descriptor are those of UEFI CPER (PRESUMED, log 128). -/
def cperBytes (cold clearing : Nat) (g : Signature) : List Byte :=
  let sev := g.severity.code
  let header := leBytes 4 0x52455043 ++ leBytes 2 0x0100 ++ leBytes 4 0xFFFFFFFF ++ leBytes 2 1 ++ leBytes 4 sev ++ leBytes 4 1 ++
    leBytes 4 296 ++ leBytes 8 0 ++ (leBytes 8 Config.serial ++ leBytes 2 g.modNo ++ leBytes 6 0) ++ leBytes 16 0 ++ creatorGuid ++
    sectionGuid ++ leBytes 8 (g.recordNo % 2 ^ 32 + 2 ^ 32 * cold) ++ leBytes 4 0 ++ leBytes 8 0 ++ leBytes 12 0
  let descriptor := leBytes 4 200 ++ leBytes 4 96 ++ leBytes 2 0x0100 ++ leBytes 1 2 ++ leBytes 1 0 ++ leBytes 4 1 ++ sectionGuid ++
    leBytes 16 0 ++ leBytes 4 sev ++ padTo 20 ([0x5A, 0x48, 0x4A, 0x2D, 0x31, 0x32, 0x38, 0x30, 0x2D, 0x41].map (BitVec.ofNat 8))
  header ++ descriptor ++ vendorSection clearing g

/-! ## Beacons and packet headers (R333, R344) -/

/-- A beacon: the 64-byte body of a beacon flit (R333). -/
def beaconBytes (b : Beacon) : List Byte :=
  let w (fs : List (Nat × Nat)) : List Byte := leBytes 4 (packBits fs)
  let bit (v : Bool) : Nat × Nat := (if v then 1 else 0, 1)
  w [(1, 8), (b.port, 6), (b.role, 2), (b.phys, 12), bit b.spare, bit b.sapling, bit b.accept] ++
  w [(b.ident, 12), (0, 12), (b.gen.toNat, 8)] ++ w [(b.level, 8)] ++ w [(b.fwBuild, 32)] ++
  leBytes 8 b.serial ++ leBytes 8 b.planId ++ w [(b.expPhys, 12), (b.expPort, 6)] ++ leBytes 28 0

/-- A packet header of 32 bytes (R344). -/
def packetBytesOf (h : PacketHdr) : List Byte :=
  let w (fs : List (Nat × Nat)) : List Byte := leBytes 4 (packBits fs)
  w [(h.dest, 12), (h.src, 12), (h.type, 8)] ++ w [(h.clearing, 12), (h.hops, 4), (h.epoch.toNat, 16)] ++
  w [(h.srcGen.toNat, 8), (h.domGen.toNat, 8), (h.length, 13), (if h.reply then 1 else 0, 1)] ++
  w [(h.dom, 16), (h.stream, 8)] ++ w [(h.seq, 32)] ++ w [(h.offset, 32)] ++ w [(h.offset / 2 ^ 32, 16), (h.residue, 16)] ++
  w [(h.markers, 16)]

/-! ## Events (R476) -/

/-- The payload code and the payload of an event (R476). The payloads of a
refused access (R187) and of a refused commit (R453) are the model's (log 110). -/
def payloadBytes (cold clearing : Nat) : Payload → Nat × List Byte
  | .none => (0, [])
  | .cper g => (1, cperBytes cold clearing g)
  | .decl d => (2, leBytes 1 d.kind ++ leBytes 1 0 ++ leBytes 2 d.issuer ++ leBytes 4 d.seqNo ++ leBytes 2 d.subject ++
      leBytes 2 d.physical ++ leBytes 2 d.epoch.toNat ++ leBytes 1 d.gen.toNat ++ leBytes 1 0)
  | .receipt r sig => (3, receiptBytes r ++ padTo 512 sig)
  | .link own peer => (4, beaconBytes own ++ beaconBytes peer)
  | .count n => (5, leBytes 8 n)
  | .bank b offset => (5, leBytes 8 (offset + 2 ^ 32 * bankBase b))
  | .access dva op => (5, leBytes 8 (dva + 2 ^ 48 * (match op with | .read => 0 | .write => 1 | .reduction => 2)))

/-- An event entry of 1,024 bytes at a ring index (R476). -/
def eventBytes (index cold modNo clearing : Nat) (e : Event) : List Byte :=
  let p := payloadBytes cold clearing e.payload
  leBytes 4 ((index + 1) % 2 ^ 32) ++ leBytes 2 e.status.code ++ leBytes 1 e.severity.code ++ leBytes 1 p.1 ++ leBytes 2 modNo ++
  leBytes 2 clearing ++ leBytes 1 e.set ++ leBytes 3 0 ++ leBytes 8 e.time ++ leBytes 6 e.step ++ leBytes 1 e.attempt ++ leBytes 33 0 ++
  padTo 960 p.2

/-! ## Metric headers and Kiyth records (R475, R477–R480) -/

/-- The 16-byte header of a provisional metric write (R475). -/
def metricHeader (step attempt len : Nat) : List Byte :=
  leBytes 6 step ++ leBytes 1 attempt ++ leBytes 1 1 ++ leBytes 4 len ++ leBytes 4 0

/-- A tensor entry of 64 bytes (R479). -/
def tensorEntryBytes (e : TensorEntry) : List Byte :=
  (match e.scale with | some r => recBytes r | none => leBytes 32 0) ++
  leBytes 2 e.tensor ++ leBytes 1 e.fmt ++ leBytes 1 e.flags.word ++ leBytes 4 e.amax.toNat ++ leBytes 16 e.sumSq ++ leBytes 8 e.crc

/-- A replay entry of 48 bytes (R480). -/
def replayEntryBytes (e : ReplayEntry) : List Byte :=
  recBytes e.record ++ leBytes 2 e.cause.code ++ leBytes 2 0 ++ leBytes 4 e.farOut ++ leBytes 8 0

/-- A cause entry of 8 bytes (R480). -/
def causeEntryBytes (e : CauseEntry) : List Byte :=
  leBytes 1 e.attempt ++ leBytes 1 0 ++ leBytes 2 e.status.code ++ leBytes 4 e.mask.toNat

/-- The distinct builds of a record, 15 at most, in the order of its modules (R478; the order is the model's, log 128). -/
def buildsOf (k : Kiyth) : List Nat := ((k.builds.map (fun e => e.2)).eraseDups).take 15

/-- The index of a module's build: 0xF outside the clearing or beyond 15 builds (R478). -/
def buildIndex (k : Kiyth) (m : Nat) : Nat :=
  match AL.find? m k.builds with
  | some b => ((buildsOf k).findIdx? (fun x => x == b)).getD 15
  | none => 15

/-- A Kiyth record in its bytes (R478). -/
def kiythBytes (k : Kiyth) : List Byte :=
  leBytes 2 k.acr ++ leBytes 1 (packBits [(if k.replay then 1 else 0, 1), (if k.skipped then 1 else 0, 1)]) ++ leBytes 1 k.profile ++
  leBytes 6 k.step ++ leBytes 1 k.attempt ++ leBytes 1 0 ++ leBytes 2 k.modNo ++ leBytes 2 k.clearing ++ leBytes 1 k.ctx ++ leBytes 3 0 ++
  leBytes 4 k.totalLen ++ leBytes 4 k.tensors.length ++ leBytes 4 k.replays.length ++ leBytes 4 k.replayUnlisted ++ leBytes 4 k.nCause ++
  leBytes 4 k.arbitrations ++ leBytes 4 k.tileReplays ++ leBytes 4 k.parityRepairs ++ leBytes 12 0 ++ padTo 64 k.batchDigest ++
  padTo 64 k.updateDigest ++ bytesOfUpd k.update ++ padTo 64 ((buildsOf k).flatMap (leBytes 4)) ++ leBytes 8 k.rngKey ++ leBytes 184 0 ++
  ((List.range 2048).map (fun i => BitVec.ofNat 8 (buildIndex k (2 * i) + 16 * buildIndex k (2 * i + 1)))) ++
  padTo 256 (k.causes.flatMap causeEntryBytes) ++ k.tensors.flatMap tensorEntryBytes ++ k.replays.flatMap replayEntryBytes

/-- An entry of a record ring: the 64-byte part header and the record bytes of the part (R477). -/
def kiythPartBytes (index : Nat) (p : KiythPart) : List Byte :=
  leBytes 4 ((index + 1) % 2 ^ 32) ++ leBytes 1 p.part ++ leBytes 1 p.parts ++ leBytes 2 0 ++ leBytes 6 p.record.step ++
  leBytes 1 p.record.ctx ++ leBytes 1 0 ++ leBytes 4 p.bytes ++ leBytes 44 0 ++
  ((kiythBytes p.record).drop (65472 * p.part)).take p.bytes

/-- The compared portion of a Kiyth record (R216, R481). -/
def kiythCompared (k : Kiyth) : List Byte :=
  let b := kiythBytes k
  let at_ (off len : Nat) : List Byte := (b.drop off).take len
  at_ 0 2 ++ at_ 4 6 ++ leBytes 1 (if k.skipped then 1 else 0) ++ at_ 24 12 ++ at_ 64 192 ++ at_ 320 8 ++
  k.tensors.flatMap tensorEntryBytes ++ k.replays.flatMap (fun e => (replayEntryBytes e).take 40)

/-! ## What the host reads in its rings (R359, R364) -/

/-- The bytes of every entry of a ring set that is visible to the host, by ring kind and index: completions, records, events and
replay records (R359, R473, R476, R477). -/
def State.hostEntries (s : State) (i : SetId) : List (Nat × Nat × List Byte) :=
  let r := s.ring i
  let clearing := if h : i.val < 16 then s.clearingOf ⟨i.val, h⟩ else 0
  r.cpl2.posted.map (fun e => (2, e.1, completionBytes e.1 e.2)) ++ r.cpl3.posted.map (fun e => (3, e.1, completionBytes e.1 e.2)) ++
  r.recs.posted.map (fun e => (4, e.1, kiythPartBytes e.1 e.2)) ++
  r.evs.posted.map (fun e => (5, e.1, eventBytes e.1 s.hub.coldCount s.ident clearing e.2)) ++
  r.reps.posted.map (fun e => (6, e.1, kiythPartBytes e.1 e.2))

end Sys2Proof.Machine
end

