-- ==== Sys2Proof/Machine/LinkOps.lean ====
section
/-! DEFINITION. What the commands of the fabric share: flits and credits, lasers, the states of a port, detours, routing
entries, and the samples of the wear monitors (R283, R323–R348). -/

namespace Sys2Proof.Machine

/-! ## Flits and credits (R326–R330) -/

/-- Initial credits of a lane (R329). -/
def initialCredits : Nat → Nat
  | 0 => 640 | 1 => 320 | 2 => 320 | 3 => 192 | 4 => 192 | 5 => 256 | 6 => 128 | _ => 0

/-- Credits a port holds for a lane. -/
def creditsOf (p : PortSt) (vl : Nat) : Nat := AL.get (initialCredits vl) vl p.credits

/-- Bytes 0–251 of a flit (R326). -/
def flitBytes (f : Flit) : List Byte :=
  leBytes 8 (f.vl % 8 + f.kind % 8 * 2 ^ 3 + f.sop.toNat * 2 ^ 6 + f.eop.toNat * 2 ^ 7 + f.seq % 4096 * 2 ^ 8 +
    f.ackSeq % 4096 * 2 ^ 20 + f.nak.toNat * 2 ^ 32 + f.crVl % 8 * 2 ^ 33 + f.crCount % 2048 * 2 ^ 36 + f.bodyLen % 256 * 2 ^ 48) ++
  (f.body.take 244) ++ List.replicate (244 - f.body.length) 0

/-- A flit with its CRC (R326). -/
def sealFlit (f : Flit) : Flit := { f with crc := crc32 (flitBytes f) }

/-- A flit sent by a port: numbered, acknowledging, returning credits, kept in the replay buffer (R327, R330). -/
def State.sendFlit (s : State) (p : PortId) (kind vl : Nat) (sop eop nak : Bool) (body : List Byte) : State :=
  let x := s.port p
  let owed : Nat × Nat := (List.find? (fun (e : Nat × Nat) => decide (0 < e.2)) x.owed).getD (0, 0)
  let f := sealFlit { vl := vl, kind := kind, sop := sop, eop := eop, seq := x.txSeq, ackSeq := (x.rxNext + 4095) % 4096
                      nak := nak, crVl := owed.1, crCount := min owed.2 2047, bodyLen := body.length, body := body, crc := 0 }
  let s := s.updPort p (fun x => { x with
    txSeq := (x.txSeq + 1) % 4096, replay := (x.replay ++ [f]).drop (x.replay.length + 1 - 2048), sinceIdle := 0
    owed := AL.upd 0 owed.1 (fun n => n - min owed.2 2047) x.owed })
  { s with out := { s.out with flits := (p, f) :: s.out.flits } }

/-- An idle flit (R327). -/
def State.sendIdle (s : State) (p : PortId) (nak : Bool) : State := s.sendFlit p 0 0 false false nak []

/-- Sequence numbers acknowledged: how many flits at the front of a replay buffer lie at or before `ack`. -/
def ackedCount (ack : Nat) (buf : List Flit) : Nat :=
  match buf.findIdx? (fun f => f.seq == ack) with
  | some i => i + 1
  | none => 0

/-- Flits of a packet of `len` payload bytes (R326). -/
def packetFlits (len : Nat) : Nat := cdiv (32 + len) 244

/-! ## Lasers (R325) -/

/-- The link die of a port (R15). -/
def linkDieOf (p : PortId) : Nat := p.val / 20

/-- A laser channel's use: at first channel n feeds port n of its die, 20–23 are spare. -/
def State.laserSt (s : State) (ld ch : Nat) : Laser :=
  AL.get (if ch < 20 then .feeds (Fin.ofNat 40 (20 * ld + ch)) else .spare) (ld, ch) s.link.lasers

/-- The laser channel that feeds a port. -/
def State.laserOf (s : State) (p : PortId) : Nat := ((s.port p).laser).getD (p.val % 20)

/-- LINK_PLAN_PORT_n: ROLE. -/
def State.planRole (s : State) (p : PortId) : Nat := bitsOf (s.reg (aPlanPort p.val)) 1 0
/-- LINK_PLAN_PORT_n: EXP_PORT. -/
def State.planPort (s : State) (p : PortId) : Nat := bitsOf (s.reg (aPlanPort p.val)) 7 2
/-- LINK_PLAN_PORT_n: EXP_PHYS. -/
def State.planPhys (s : State) (p : PortId) : Nat := bitsOf (s.reg (aPlanPort p.val)) 19 8

/-- A port the plan keeps dark (R323, R334). -/
def State.dark (s : State) (p : PortId) : Bool := s.planRole p == 0 || s.planRole p == 3

/-- Every port. -/
def allPorts : List PortId := List.finRange 40

/-- An ACTIVE port. -/
def State.isActive (s : State) (p : PortId) : Bool := (s.port p).state == 4

/-! ## Detours and routing (R340, R343) -/

/-- The port whose far end is a physical module, if one is ACTIVE. -/
def State.portTo (s : State) (m : Nat) : Option PortId :=
  allPorts.find? (fun p => s.isActive p && (s.port p).peer == m)

/-- The two-hop detour for a port's traffic of a routing table: the ACTIVE port to the lowest-numbered other module of the
grove that may carry it, any module for table 0 and a member of the clearing for the others (R340; the state of its link to
the far end is not known here, log 27). -/
def State.detourVia (s : State) (t : Nat) (p : PortId) : Option PortId :=
  let far := (s.port p).peer
  let here := s.phys
  let ok (q : PortId) : Bool :=
    let m := (s.port q).peer
    s.isActive q && q != p && m != far && groveOf m == groveOf here && (t == 0 || s.routeValid t m)
  match allPorts.filter ok with
  | [] => none
  | q :: qs => some (qs.foldl (fun a b => if (s.port b).peer < (s.port a).peer then b else a) q)

/-- The detour for a grove port's own flits (R340). A port to another grove has an ALT_PORT in its place. -/
def State.detourFor (s : State) (p : PortId) : Option PortId :=
  if groveOf (s.port p).peer = groveOf s.phys then s.detourVia 0 p else none

/-- The ACTIVE ports by which a port's traffic goes while it is away: the detour, or the ALT_PORTs of the routing entries that
name the port (R340, R343). -/
def State.wayAround (s : State) (p : PortId) : List PortId :=
  match (s.port p).detourBy with
  | some q => [(Fin.ofNat 40 q : PortId)].filter s.isActive
  | none =>
    let alts := s.regs.active.filterMap (fun (e : Nat × Word) =>
      let v := e.2.toNat
      let alt := bitsOf v 13 8
      let dest := (offsetOf e.1 - 0x40000) % 0x8000 / 8
      if blockOf e.1 = 8 ∧ 0x40000 ≤ offsetOf e.1 ∧ groveOf dest ≠ groveOf s.phys ∧ bitsOf v 5 0 = p.val ∧ bitOf v 6 = true ∧ alt < 40 then some (Fin.ofNat 40 alt : PortId)
      else none)
    (alts.eraseDups).filter s.isActive

/-- Where an entry's traffic of a lane leaves (R340, R343): its port, or while the port is down or the lane is still on the
way around, the detour or the ALT_PORT. -/
def State.egress (s : State) (t dest lane : Nat) : Option Nat :=
  let v := s.reg (aRtEntry t dest)
  let port := bitsOf v 5 0
  let alt := bitsOf v 13 8
  if 40 ≤ port ∨ bitOf v 6 = false then none
  else
    let p : PortId := Fin.ofNat 40 port
    let x := s.port p
    if x.state = 4 ∧ (x.detour = false ∨ x.markers.contains lane = true) then some port
    else if groveOf dest = groveOf s.phys then (s.detourVia t p).map (fun q => q.val)
    else if alt < 40 then some alt
    else none

/-- The table that admits transit of a clearing towards a destination (R347). -/
def State.transitTable (s : State) (clearing dest : Nat) : Option Nat :=
  (List.range 17).find? (fun t =>
    let v := s.reg (aRtEntry t dest)
    s.tableValid t && bitOf v 16 && bitsOf v 28 17 == clearing)

/-- Where a packet for another module leaves, and whether as transit (R345, R347). -/
def State.wayOut (s : State) (lane clearing dest : Nat) : Option (Nat × Bool) :=
  if clearing = 0 then (s.egress 0 dest lane).map (fun q => (q, false))
  else
    match s.tableOfClearing clearing with
    | some t => (s.egress t dest lane).map (fun q => (q, false))
    | none => (s.transitTable clearing dest).map (fun t => (bitsOf (s.reg (aRtEntry t dest)) 5 0, true))

/-- Bytes of a packet on a link, in whole flits (R348). -/
def packetBytes (h : PacketHdr) : Nat := 256 * packetFlits h.length

/-- A packet leaves through an egress port: its credits are taken and it has crossed one link more (R330, R340). -/
def State.passOn (s : State) (port lane : Nat) (h : PacketHdr) (transit : Bool) : State :=
  let s := s.updPort (Fin.ofNat 40 port) (fun x => { x with credits := AL.set lane (creditsOf x lane - packetFlits h.length) x.credits })
  { s with out := { s.out with packets := (port, { h with hops := h.hops + 1 }) :: s.out.packets }
           link := { s.link with fates := (h, .forward port transit) :: s.link.fates } }

/-- An ACTIVE egress port has the credits of a packet (R330). -/
def State.hasRoom (s : State) (port lane : Nat) (h : PacketHdr) : Bool :=
  let q : PortId := Fin.ofNat 40 port
  s.isActive q && decide (packetFlits h.length ≤ creditsOf (s.port q) lane)

/-- The lane a packet leaves on: VL5 where the entry of its own clearing says that the path passes another one (R343, R347;
DEDUCED for a packet forwarded, log 134), else the lane it came on. -/
def State.outLane (s : State) (lane : Nat) (h : PacketHdr) : Nat :=
  match s.tableOfClearing h.clearing with
  | some t => if h.clearing ≠ 0 ∧ bitOf (s.reg (aRtEntry t h.dest)) 7 = true then 5 else lane
  | none => lane

/-- A packet sent on, if its way out has room; on VL5 the cap of its egress port may hold it back (R348). -/
def State.trySend (s : State) (came : Nat) (h : PacketHdr) : Option State :=
  let lane := s.outLane came h
  match s.wayOut lane h.clearing h.dest with
  | some (port, transit) =>
    let q : PortId := Fin.ofNat 40 port
    if port < 40 ∧ s.hasRoom port lane h = true then
      if lane = 5 then
        if (s.port q).vl5Wait = [] ∧ (s.port q).vl5Sent + packetBytes h ≤ 1000 * bitsOf (s.reg aLinkPol) 22 16 then
          some ((s.updPort q (fun x => { x with vl5Sent := x.vl5Sent + packetBytes h })).passOn port 5 h transit)
        else
          let s := s.updPort q (fun x => { x with vl5Wait := x.vl5Wait ++ [h] })
          some { s with link := { s.link with fates := (h, .wait) :: s.link.fates } }
      else some (s.passOn port lane h transit)
    else none
  | none => none

/-- Packets that must keep their order (R331). -/
def sameFlow (a b : Nat × PacketHdr) : Bool :=
  a.1 == b.1 && a.2.src == b.2.src && a.2.dest == b.2.dest && a.2.clearing == b.2.clearing

/-- A received packet for another module goes on, or waits at the port it came by; packets of one flow keep their order
(R330, R331, R340). -/
def State.forward (s : State) (p : PortId) (lane : Nat) (h : PacketHdr) : State :=
  let hold := s.updPort p (fun x => { x with waiting := x.waiting ++ [(lane, h)] })
  let hold := { hold with link := { hold.link with fates := (h, .wait) :: hold.link.fates } }
  if (s.port p).waiting.any (sameFlow (lane, h)) then hold
  else (s.trySend lane h).getD hold

/-- What waits at a port goes on where it can, in order: the packets kept, and the state after. -/
def serveList : List (Nat × PacketHdr) → List (Nat × PacketHdr) → State → List (Nat × PacketHdr) × State
  | kept, [], s => (kept, s)
  | kept, e :: es, s =>
    if kept.any (sameFlow e) then serveList (kept ++ [e]) es s
    else match s.trySend e.1 e.2 with
      | some t => serveList kept es t
      | none => serveList (kept ++ [e]) es s

/-- No packet waits for a credit or a path. -/
def State.quiet (s : State) : Bool := allPorts.all (fun p => (s.port p).waiting.isEmpty)

/-- Credits came back or a path changed: what waits at every port goes on where it can. -/
def State.serveAll (s : State) : State :=
  if s.quiet then s
  else
    allPorts.foldl (fun (s : State) p =>
      let r := serveList [] (s.port p).waiting s
      r.2.updPort p (fun x => { x with waiting := r.1 })) s

/-- The lane, clearing and destination of a data flit that starts a packet (R326, R344). -/
def flitWay (f : Flit) : Nat × Nat × Nat :=
  (f.vl, leNat ((f.body.drop 4).take 2) % 4096, leNat (f.body.take 2) % 4096)

/-- Unacknowledged data flits with their new ways, each lane's packet following its first flit (R340). -/
def resendFlits (s : State) : AL Nat Nat → List Flit → List (PortId × Flit)
  | _, [] => []
  | ways, f :: fs =>
    let w := flitWay f
    let ways := if f.sop then
        match s.wayOut w.1 w.2.1 w.2.2 with
        | some (q, _) => AL.set f.vl q ways
        | none => AL.del f.vl ways
      else ways
    match AL.find? f.vl ways with
    | some q => if f.kind = 1 ∧ q < 40 then (Fin.ofNat 40 q, f) :: resendFlits s ways fs else resendFlits s ways fs
    | none => resendFlits s ways fs

/-- The traffic of a port leaves it (R340): unacknowledged flits go again on the new path. -/
def State.moveTraffic (s : State) (p : PortId) : State :=
  let q := s.detourFor p
  let buf := (s.port p).replay
  let s := s.updPort p (fun x => { x with detour := true, detourBy := q.map (fun q => q.val), markers := [] })
  let s := { s with out := { s.out with flits := (resendFlits s [] buf).reverse ++ s.out.flits } }
  s.serveAll

/-- A port goes DOWN: it holds off 2 ms, and its traffic moves (R332, R340). -/
def State.portDown (s : State) (p : PortId) : State :=
  let s := s.updPort p (fun x => { x with state := 0, holdOff := true, accept := false, stage := none, nakked := false })
  (s.moveTraffic p).event moduleSet .linkPortDown (.count p.val)

/-- A port is fenced: laser off, its traffic on the detour (R332, R341). -/
def State.fencePort (s : State) (p : PortId) (st : Status) : State :=
  let s := s.updPort p (fun x => { x with state := 5, lit := false, holdOff := false, accept := false, stage := none })
  (s.moveTraffic p).event moduleSet st (.count p.val)

/-- A port takes the lowest free spare channel of its link die, and its domain is reset: at once as a step boundary's change
or while it trains, else after the 2 ms it is down first (R325, R332; log 52). Without a spare it is fenced. A fence stands. -/
def State.swapLaser (s : State) (p : PortId) (atOnce : Bool) : State :=
  let ld := linkDieOf p
  let old := s.laserOf p
  let s := { s with link := { s.link with lasers := AL.set (ld, old) .failed s.link.lasers } }
  let st := (s.port p).state
  match (List.range 24).find? (fun ch => decide (s.laserSt ld ch = .spare)) with
  | some ch =>
    let s := { s with link := { s.link with lasers := AL.set (ld, ch) (.feeds p) s.link.lasers } }
    let s := s.updPort p (fun x => { x with laser := some ch })
    if st = 5 ∨ (s.port p).holdOff = true then s
    else if atOnce = true ∨ st < 2 then
      ((s.updPort p (fun x => { x with state := 0, accept := false, stage := none })).moveTraffic p).enterReset (.port p)
    else s.portDown p
  | none => if st = 5 then s else s.fencePort p .linkLaserExhausted

/-- What a worn laser channel or port starts at a step boundary (R286): its port changes to a spare channel, or is fenced. -/
def State.eolMove (s : State) (u : WearUnit) : State :=
  match u with
  | .laser ld ch =>
    match s.laserSt ld.val ch with
    | .feeds p => s.swapLaser p true
    | .spare | .failed => s
  | .port p => if (s.port p).state = 5 then s else s.fencePort p .linkPortFenced
  | _ => s

/-- No step is provisional in any context: what waits for a step boundary need not wait. -/
def State.noSteps (s : State) : Bool := allCtx.all (fun c => (s.ctx c).steps.isEmpty)

/-- A step boundary: worn laser channels and ports that waited for it are replaced (R286). -/
def State.eolBoundary (s : State) : State :=
  s.hub.eolDue.foldl State.eolMove { s with hub := { s.hub with eolDue := [] } }

/-- A routing register changed in the active copy, the staged image and a pending commit (R346, R457). -/
def State.rewriteRt (s : State) (a : Nat) (f : Nat → Nat) : State :=
  let r := s.regs
  let put (w : Word) : Word := BitVec.ofNat 32 (f w.toNat)
  let snap (e : AL Nat Word × List Nat) : AL Nat Word × List Nat := (AL.set a (put (AL.get (r.val a) a e.1)) e.1, e.2)
  let r' := r.updBank .rt (fun k => { k with pending := k.pending.map snap })
  { s with regs := { r' with active := AL.set a (put (r.val a)) r.active, staged := AL.set a (put (r.stg a)) r.staged } }

/-- PORT of a routing entry replaced. -/
def withPort (v port : Nat) : Nat := v / 64 * 64 + port % 64

/-- Every routing entry that names port `q` names port `p` instead (R341). -/
def State.renamePort (s : State) (q p : PortId) : State :=
  let ren (e : Nat × Word) : Nat × Word :=
    if blockOf e.1 = 8 ∧ 0x40000 ≤ offsetOf e.1 ∧ e.2.toNat % 64 = q.val then (e.1, BitVec.ofNat 32 (withPort e.2.toNat p.val)) else e
  let snap (e : AL Nat Word × List Nat) : AL Nat Word × List Nat := (e.1.map ren, e.2)
  let r := s.regs.updBank .rt (fun k => { k with pending := k.pending.map snap })
  { s with regs := { r with active := r.active.map ren, staged := r.staged.map ren } }

/-! ## Beacons (R333) -/

/-- The active firmware bundle. -/
def State.bundle (s : State) : Option Bundle := (if s.mss.activeB then s.mss.slotB else s.mss.slotA).bundle

/-- The sapling bit: a sapling not yet admitted (R287, R333). -/
def State.isSapling (s : State) : Bool := s.grove.sapling.any (fun x => !x.admitted)

/-- This module is a hot spare: no job holds it and it is no sapling (R279, R333; log 32). -/
def State.hotSpareHere (s : State) : Bool := s.grove.spare && !s.grove.retired && !s.isSapling && !s.inClearing

/-- The beacon a port sends (R333). -/
def State.ownBeacon (s : State) (p : PortId) : Beacon :=
  { port := p.val, role := s.planRole p, phys := s.phys, spare := s.hotSpareHere, sapling := s.isSapling
    accept := (s.port p).accept, ident := s.ident, gen := s.moduleGen, level := (s.bundle.map (·.level)).getD 0
    fwBuild := (s.bundle.map (·.build)).getD 0, serial := Config.serial
    planId := s.reg aPlanIdLo + 2 ^ 32 * s.reg aPlanIdHi, expPhys := s.planPhys p, expPort := s.planPort p }

/-- A beacon sent, in a beacon flit on VL6 (R326, R332, R333). -/
def State.sendBeacon (s : State) (p : PortId) : State :=
  let b := s.ownBeacon p
  ({ s with out := { s.out with beacons := (p, b) :: s.out.beacons } }).sendFlit p 2 6 true true false (beaconBytes b)

/-- Every port past training sends a beacon at once: IDENT or GEN has changed (R332). -/
def State.beaconAll (s : State) : State :=
  (allPorts.filter (fun p => decide (2 ≤ (s.port p).state) && decide ((s.port p).state ≤ 4))).foldl State.sendBeacon s

/-! ## Samples of the wear monitors (R283) -/

/-- A sample of an ageing indicator, while the MSS runs (R283, R284): margining results are fitted one by one, the others by hourly means.
The first sample ever is the value at first power-on (log 151). -/
def State.takeWear (s : State) (u : WearUnit) (i : Indicator) (v : Nat) : State :=
  if !s.mssRuns then s
  else
  let w : WearSt := AL.get ⟨none, 0, 0, 0, [], false, false⟩ (u, i) s.mss.wear
  let w := { w with first := some (w.first.getD v), last := v }
  let w := if i = .refreshMargin then { w with hourly := (s.now, v, 1) :: w.hourly } else { w with sum := w.sum + v, count := w.count + 1 }
  { s with mss := { s.mss with wear := AL.set (u, i) w s.mss.wear } }

end Sys2Proof.Machine
end

