-- ==== Sys2Proof/Machine/Fabric.lean ====
section
/-! DEFINITION. The fabric ports: flits, ports going down and coming up, beacons, packets, the control tree (R267,
R325–R348, R352). -/

namespace Sys2Proof.Machine

/-! ## Flits (R326–R330) -/

/-- Acknowledgement and replay as a received flit asks for them (R327): eight replays without success take the port down. -/
def State.takeAck (s : State) (p : PortId) (f : Flit) : State :=
  let x := s.port p
  let n := ackedCount f.ackSeq x.replay
  let s := s.updPort p (fun x => { x with replay := x.replay.drop n, replays := if n = 0 then x.replays else 0 })
  if f.nak then
    let s := s.updPort p (fun x => { x with replays := x.replays + 1 })
    let x := s.port p
    if 8 ≤ x.replays then s.portDown p
    else { s with out := { s.out with flits := (x.replay.map (fun g => (p, g))).reverse ++ s.out.flits } }
  else s

/-- FLIT_RECEIVE (R327–R330): CRC and sequence are checked; a flit in order acknowledges, returns credits and is passed
on; a bad one is discarded with every later one and answered with NAK. -/
def execFlitReceive (p : PortId) (f : Flit) (fecBad : Bool) (s : State) : Host.Outcome State Fault Refusal :=
  .next (
    let x := s.port p
    if x.state < 2 || 5 ≤ x.state then s
    else if fecBad || crc32 (flitBytes f) ≠ f.crc then
      if x.nakked then s else (s.updPort p (fun x => { x with nakked := true })).sendIdle p true
    else
      let s := s.takeAck p f
      if (s.port p).state = 0 then s
      else if f.seq ≠ (s.port p).rxNext then s
      else
        let idle := decide (64 ≤ (s.port p).sinceIdle + 1)
        let lane7 := decide (f.vl = 7) || (decide ((s.port p).state ≠ 4) && decide (f.vl ≠ 6) && decide (f.kind = 1))
        let s := s.updPort p (fun x => { x with
          rxNext := (x.rxNext + 1) % 4096, nakked := false, sinceIdle := x.sinceIdle + 1
          credits := AL.set f.crVl (min 2047 (creditsOf x f.crVl + f.crCount)) x.credits
          silent := if lane7 then AL.upd 0 .lane (· + 1) x.silent else x.silent
          owed := if decide (f.kind = 1) && !lane7 then AL.upd 0 f.vl (· + 1) x.owed else x.owed })
        (if idle then s.sendIdle p false else s).serveAll)

/-- IDLE_FLIT_TIMER (R327): a port with no traffic of its own sends an idle flit. -/
def execIdleFlitTimer (p : PortId) (s : State) : Host.Outcome State Fault Refusal :=
  .next (
    let st := (s.port p).state
    if 2 ≤ st ∧ st ≤ 4 then s.sendIdle p (s.port p).nakked else s)

/-! ## Ports going down and coming up (R325, R328, R332) -/

/-- A cause meets its limit (R327, R328): over 100 codewords in 1 ms, over 1.0 × 10⁻³, eight replays. -/
def downNow : DownCause → Bool
  | .lossOfLock => true
  | .fecErrors n => decide (100 < n)
  | .ber n => decide (1000 < n)
  | .replays n => decide (8 ≤ n)

/-- LINK_PORT_DOWN (R328, R332, R340). -/
def execLinkPortDown (p : PortId) (cause : DownCause) (s : State) : Host.Outcome State Fault Refusal :=
  .next (
    let st := (s.port p).state
    if downNow cause && decide (2 ≤ st) && decide (st ≤ 4) then s.portDown p else s)

/-- LASER_LOSS_OF_LIGHT (R325, R332): the port a channel feeds goes down and takes a spare channel, or is fenced. The laser of
a dark or fenced port is off. -/
def execLaserLossOfLight (ld : Fin 2) (ch : Fin 24) (s : State) : Host.Outcome State Fault Refusal :=
  .next (
    match s.laserSt ld.val ch.val with
    | .feeds p => if s.laserOf p = ch.val ∧ (s.port p).state ≠ 5 ∧ s.dark p = false then s.swapLaser p false else s
    | .spare => { s with link := { s.link with lasers := AL.set (ld.val, ch.val) .failed s.link.lasers } }
    | .failed => s)

/-- PORT_HOLD_OFF_EXPIRE (R332): 2 ms after going down, the port resets its domain and retrains. -/
def execPortHoldOffExpire (p : PortId) (s : State) : Host.Outcome State Fault Refusal :=
  .next (
    if (s.port p).holdOff then (s.updPort p (fun x => { x with holdOff := false })).enterReset (.port p) else s)

/-- The stage before a stage of bring-up. -/
def stageBefore : BringUpStage → Option BringUpStage
  | .power => none
  | .cdr => some .power
  | .lock => some .cdr
  | .fec => some .lock
  | .beacon => some .fec

/-- PORT_TRAINING_STAGE_COMPLETE (R332): stages complete in order; with FEC locked the port is in BEACON. -/
def execPortTrainingStageComplete (p : PortId) (stage : BringUpStage) (s : State) : Host.Outcome State Fault Refusal :=
  .next (
    let x := s.port p
    if (x.state = 1 ∨ x.state = 2) ∧ x.stage = stageBefore stage then
      let s := s.updPort p (fun x => { x with stage := some stage, state := if stage = .fec then 2 else x.state, lit := true })
      if stage = .fec then s.sendBeacon p else s
    else s)

/-- BRING_UP_STAGE_TIMEOUT (R332): the attempt fails; the third in a row fences the port. -/
def execBringUpStageTimeout (p : PortId) (s : State) : Host.Outcome State Fault Refusal :=
  .next (
    let x := s.port p
    if x.state = 1 ∨ x.state = 2 then
      if 2 ≤ x.attempts then (s.updPort p (fun x => { x with attempts := 3 })).fencePort p .linkPortFenced
      else s.updPort p (fun x => { x with attempts := x.attempts + 1, state := 1, stage := none })
    else s)

/-- BEACON_TIMER (R332): a beacon every 10 µs in BEACON and QUARANTINE, every 1 ms in ACTIVE. -/
def execBeaconTimer (p : PortId) (s : State) : Host.Outcome State Fault Refusal :=
  .next (
    let st := (s.port p).state
    if 2 ≤ st ∧ st ≤ 4 then s.sendBeacon p else s)

/-! ## Beacons (R335, R337, R341) -/

/-- Every module number of a context's clearing: the VALID entries of its table and this module (R342, R343). -/
def State.members (s : State) (c : CtxId) : List Nat :=
  match s.tableOf c with
  | some t => (List.range 4096).filter (fun m => m == s.ident || s.routeValid t m)
  | none => [s.ident]

/-- A generation notice goes to every member of each clearing when the module first reaches ACTIVE after a module reset
(R337). -/
def State.announce (s : State) : State :=
  if s.link.announced then s
  else
    let s := { s with link := { s.link with announced := true } }
    allCtx.foldl (fun (s : State) c =>
      ((s.members c).filter (fun m => m != s.ident)).foldl (fun (s : State) m => s.send (.genNotice c m s.moduleGen)) s) s

/-- A fenced port whose role and expected peer an ACTIVE spare port now has (R341). -/
def State.replacedBy (s : State) (p : PortId) : Option PortId :=
  allPorts.find? (fun q => q != p && (s.port q).state == 5 && s.planRole q == s.planRole p && s.planPhys q == s.planPhys p)

/-- A port takes over the detour of the fenced port whose entries now name it (R341). -/
def State.takeDetour (s : State) (p q : PortId) : State :=
  let x := s.port q
  (s.updPort p (fun y => { y with detour := x.detour, detourBy := x.detourBy })).updPort q (fun y => { y with detour := false, detourBy := none })

/-- A port enters ACTIVE (R330, R332, R335, R340, R341): sequence numbers and credits start, routing entries of a fenced port it
replaces change to it, and traffic on a detour comes back behind markers, at once where it had no way around. -/
def State.portActive (s : State) (p : PortId) (b : Beacon) : State :=
  let s := match s.replacedBy p with
    | some q => (s.renamePort q p).takeDetour p q
    | none => s
  let was := (s.port p).detour
  let around := s.wayAround p
  let s := s.updPort p (fun x => { x with
    state := 4, accept := true, attempts := 0, peer := b.phys, beacon := some b, txSeq := 0, rxNext := 0, replay := []
    replays := 0, nakked := false, sinceIdle := 0, credits := [], owed := [], markers := [] })
  let s := if !was then s
    else if around.isEmpty then s.updPort p (fun x => { x with detour := false, detourBy := none })
    else around.foldl (fun (s : State) q => (List.range 7).foldl (fun (s : State) vl => s.sendFlit q 3 vl false false false []) s) s
  (s.announce.sendBeacon p).serveAll

/-- The rows of R335: the new state and the status, for a port, its peer's beacon, and whether another port of the same
role sees the crossed peer. -/
def State.beaconRow (s : State) (p : PortId) (b : Beacon) (crossed : Bool) : Nat × Option Status :=
  let pol := s.reg aLinkPol
  let accept := bitOf pol 0
  let swap : Nat × Option Status := if accept then (4, some .linkSwapAccepted) else (5, some .linkSwapFound)
  if b.planId ≠ s.reg aPlanIdLo + 2 ^ 32 * s.reg aPlanIdHi then (3, some .linkPlanMismatch)
  else if b.level < bitsOf pol 15 8 then (3, some .linkLevelLow)
  else if b.phys = s.planPhys p ∧ b.port = s.planPort p then (4, none)
  else if b.phys = s.planPhys p then swap
  else if crossed then swap
  else (3, some .linkWiringMismatch)

/-- The port of the same role that the peer of `p` was planned for, if it sees the peer planned for `p` (R335). -/
def State.crossedWith (s : State) (p : PortId) (b : Beacon) : Option PortId :=
  allPorts.find? (fun q =>
    q != p && s.planRole q == s.planRole p && s.planPhys q == b.phys && s.planPort q == b.port &&
      (s.port q).beacon.any (fun e => e.phys == s.planPhys p && e.port == s.planPort p))

/-- The state a beacon comparison gives a port. -/
def State.applyRow (s : State) (p : PortId) (b : Beacon) (row : Nat × Option Status) : State :=
  let old := (s.port p).state
  let seen (s : State) : State := s.updPort p (fun x => { x with beacon := some b, rowStatus := row.2 })
  let s := match row.2 with
    | some st =>
      if old = row.1 ∧ (s.port p).rowStatus = row.2 then s
      else (s.event moduleSet st (.link (s.ownBeacon p) b)).addLog .event .informational st [Config.serial, b.serial] none
    | none => s
  let s := seen s
  if row.1 = 4 then (if old = 4 then s else s.portActive p b)
  else if row.1 = 5 then
    (s.updPort p (fun x => { x with state := 5, lit := false, accept := false, stage := none })).moveTraffic p
  else s.updPort p (fun x => { x with state := 3, attempts := 0, accept := false })

/-- A port applies R335 to a beacon, with the port crossed with it. -/
def State.compareBeacon (s : State) (p : PortId) (b : Beacon) : State :=
  let other := s.crossedWith p b
  let row := s.beaconRow p b other.isSome
  let s := s.applyRow p b row
  match other with
  | some q =>
    match (s.port q).beacon with
    | some e => if b.phys ≠ s.planPhys p ∧ ((s.port q).state = 2 ∨ (s.port q).state = 3) then s.applyRow q e (s.beaconRow q e true) else s
    | none => s
  | none => s

/-- BEACON_RECEIVE (R333, R335, R337): the peer's beacon gives its generation, and in BEACON and QUARANTINE decides the
port's state. -/
def execBeaconReceive (p : PortId) (b : Beacon) (s : State) : Host.Outcome State Fault Refusal :=
  .next (
    let st := (s.port p).state
    if st < 2 ∨ 4 < st then s
    else
      let s := { s with link := { s.link with gens := AL.set b.ident b.gen s.link.gens } }
      if st = 4 then s.updPort p (fun x => { x with beacon := some b, peer := b.phys }) else s.compareBeacon p b)

/-- MARKER_RECEIVE (R340): the far end reports, over the direct link, that it has a lane's marker; the lane moves back, and
the detour ends with the last. -/
def execMarkerReceive (p : PortId) (lane : Nat) (s : State) : Host.Outcome State Fault Refusal :=
  .next (
    let x := s.port p
    if x.state = 4 ∧ x.detour = true ∧ lane < 7 then
      let ms := if x.markers.contains lane then x.markers else x.markers ++ [lane]
      let all := (List.range 7).all (fun l => ms.contains l)
      (s.updPort p (fun x => { x with
        markers := if all then [] else ms, detour := !all, detourBy := if all then none else x.detourBy })).serveAll
    else s)

/-! ## Packets (R345, R347, R348) -/

/-- A packet dropped with a status, counted against its port; with a notice at most one a millisecond for a source and
reason (R345). -/
def State.dropPacket (s : State) (p : PortId) (h : PacketHdr) (st : Status) (notice : Bool) : State :=
  let s := s.updPort p (fun x => { x with drops := AL.upd 0 st (· + 1) x.drops })
  let s := { s with link := { s.link with fates := (h, .drop) :: s.link.fates } }
  if notice then
    let due := match AL.find? (h.src, st) s.link.noticeAt with
      | some t => decide (t + 1000 ≤ s.now)
      | none => true
    if due then
      { s.send (.dropNotice h.src st.code) with link := { s.link with noticeAt := AL.set (h.src, st) s.now s.link.noticeAt } }
    else s
  else s

/-- A packet dropped silently, and counted by its reason. -/
def State.dropSilent (s : State) (p : PortId) (h : PacketHdr) (why : SilentDrop) : State :=
  let s := s.updPort p (fun x => { x with silent := AL.upd 0 why (· + 1) x.silent })
  { s with link := { s.link with fates := (h, .drop) :: s.link.fates } }

/-- The lane of a packet type (R483); none for a reserved type. -/
def typeLane (t : Nat) : Option Nat :=
  if t = 0 then none
  else if t ≤ 3 then some 0
  else if t = 4 then some 1
  else if t ≤ 7 then some 2
  else if t ≤ 9 then some 3
  else if t ≤ 15 then some 4
  else if t ≤ 17 then some 6
  else none

/-- The domain a DOM field names (R483). -/
def domainOf (dom : Nat) : Option Domain :=
  let i := dom % 4096
  match dom / 4096 with
  | 0 => if h : i / 128 < 4 ∧ i % 128 < 72 then some (.core ⟨⟨i / 128, h.1⟩, ⟨i % 128, h.2⟩⟩) else none
  | 1 => if h : i < 20 then some (.hbm ⟨i, h⟩) else none
  | 2 => if h : i < 40 then some (.port ⟨i, h⟩) else none
  | 3 => if h : i < 4 then some (.die ⟨i, h⟩) else none
  | 4 => some .guest
  | 5 => some .cp
  | 6 => some .mss
  | 7 => some .warm
  | _ => none

/-- The present generation of a domain as requests carry it: the module's for the warm domain (R265, R268). -/
def State.genTag (s : State) (d : Domain) : BitVec 8 :=
  match d with
  | .warm | .cold => s.moduleGen
  | d => s.genOf d

/-- Transit of a foreign clearing (R347): on VL5, by an entry that admits it, while the cap is not 0 and the module holds a
context. -/
def State.transit (s : State) (p : PortId) (lane : Nat) (h : PacketHdr) : State :=
  if lane = 5 ∧ (s.transitTable h.clearing h.dest).isSome = true ∧ bitsOf (s.reg aLinkPol) 22 16 ≠ 0 ∧ s.anyLoaded = true then
    s.forward p lane h
  else s.dropPacket p h .transitDenied true

/-- Rows 6 to 10 of R345: the packet is for this module. -/
def State.forMe (s : State) (p : PortId) (lane : Nat) (h : PacketHdr) : State :=
  let local_ := groveOf h.src = groveOf s.ident ∧ (lane = 3 ∨ lane = 4 ∨ lane = 6)
  let table := s.tableOfClearing h.clearing
  let ctx : Option CtxId := table.map (fun t => Fin.ofNat 16 (s.tableCtx t))
  if h.clearing = 0 ∧ ¬ local_ then s.dropPacket p h .fabGroveDenied true
  else if h.clearing ≠ 0 ∧ (table.isNone || !(table.any (fun t => s.routeValid t h.src))) then
    s.dropPacket p h .fabClearingDenied true
  else if ctx.any (fun c => decide ((s.ctx c).epoch ≠ h.epoch)) && h.clearing != 0 then
    (ctx.toList.foldl (fun (s : State) c => s.updCtx c (fun x => { x with epochDrops := x.epochDrops + 1 })) s).dropSilent p h .epoch
  else if h.reply && (match domainOf h.dom with
      | some d => decide (s.genTag d ≠ h.domGen)
      | none => false) then s.dropSilent p h .reply
  else
    match typeLane h.type with
    | some l =>
      if lane = l ∨ lane = 5 then
        { (if lane ≤ 5 then s.wake else s) with link := { s.link with fates := (h, .deliver (if h.clearing = 0 then none else ctx) h.type) :: s.link.fates } }
      else s.dropSilent p h .engine
    | none => s.dropSilent p h .engine

/-- PACKET_RECEIVE (R345): the rows of the table, in order. -/
def execPacketReceive (p : PortId) (lane : Nat) (h : PacketHdr) (s : State) : Host.Outcome State Fault Refusal :=
  .next (
    if (s.port p).state ≠ 4 ∧ ¬ (lane = 6 ∧ ((s.port p).state = 2 ∨ (s.port p).state = 3)) then s
    else if 5 ≤ h.hops then s.dropPacket p h .fabHopLimit false
    else if (AL.find? h.src s.link.gens).any (fun g => decide (g ≠ h.srcGen)) then s.dropSilent p h .generation
    else
      let s := { s with link := { s.link with gens := AL.set h.src h.srcGen s.link.gens } }
      if h.dest = s.ident then s.forMe p lane h
      else if h.clearing = 0 then
        if groveOf h.src = groveOf s.ident ∧ groveOf h.dest = groveOf s.ident ∧ (lane = 3 ∨ lane = 4 ∨ lane = 6) then
          s.forward p lane h
        else s.dropPacket p h .fabGroveDenied true
      else if (s.tableOfClearing h.clearing).isSome then s.forward p lane h
      else s.transit p lane h)

/-- Packets held by the cap that the new window and the credits have room for, in order. -/
def takeTransit (cap credits : Nat) : Nat → Nat → List PacketHdr → List PacketHdr × Nat × List PacketHdr
  | sent, _, [] => ([], sent, [])
  | sent, used, h :: hs =>
    if sent + packetBytes h ≤ cap ∧ used + packetFlits h.length ≤ credits then
      let r := takeTransit cap credits (sent + packetBytes h) (used + packetFlits h.length) hs
      (h :: r.1, r.2)
    else ([], sent, h :: hs)

/-- TRANSIT_CAP_WINDOW (R348): a new 1 µs window; packets that waited for it go on. -/
def execTransitCapWindow (p : PortId) (s : State) : Host.Outcome State Fault Refusal :=
  .next (
    let cap := 1000 * bitsOf (s.reg aLinkPol) 22 16
    let r := takeTransit cap (if s.isActive p then creditsOf (s.port p) 5 else 0) 0 0 (s.port p).vl5Wait
    let s := s.updPort p (fun x => { x with vl5Sent := r.2.1, vl5Wait := r.2.2 })
    r.1.foldl (fun (s : State) h => s.passOn p.val 5 h (s.tableOfClearing h.clearing).isNone) s)

/-- QUEUE_LIFE_EXPIRY (R267, R348): what a lane of a port has held for more than 64 ms is dropped and counted. -/
def execQueueLifeExpiry (lane : Nat) (p : PortId) (s : State) : Host.Outcome State Fault Refusal :=
  .next (
    let x := s.port p
    if lane = 5 ∧ x.vl5Wait ≠ [] then s.updPort p (fun x => { x with vl5Wait := x.vl5Wait.drop 1, silent := AL.upd 0 .age (· + 1) x.silent })
    else
      match x.waiting.findIdx? (fun e => e.1 == lane) with
      | some i => s.updPort p (fun x => { x with waiting := x.waiting.eraseIdx i, silent := AL.upd 0 .age (· + 1) x.silent })
      | none =>
        match x.replay.findIdx? (fun f => f.vl == lane && f.kind == 1) with
        | some i => s.updPort p (fun x => { x with replay := x.replay.eraseIdx i, silent := AL.upd 0 .age (· + 1) x.silent })
        | none => s)

/-- DROP_NOTICE_RECEIVE (R345): the source's context reports ROUTE_DENIED, a failed Link CRC class, and posts the notice. -/
def execDropNoticeReceive (c : CtxId) (src : ModNo) (reason : Nat) (s : State) : Host.Outcome State Fault Refusal :=
  .next (
    let t := (s.ctx c).steps.head?
    let s := s.eventFull (setOf c) .routeDenied (.count reason) t.isSome ((t.map (·.number)).getD 0) ((t.map (·.attempt)).getD 0)
      .event none
    let s := s.addLog .event .informational .routeDenied [src.val, reason] none
    match (s.ctx c).working, t with
    | some t, _ => s.failClass c t.number 3 .routeDenied
    | none, some t => s.failClass c t.number 3 .routeDenied
    | none, none => s)

/-- GENERATION_NOTICE_RECEIVE (R337). -/
def execGenerationNoticeReceive (src : ModNo) (gen : BitVec 8) (s : State) : Host.Outcome State Fault Refusal :=
  .next { s with link := { s.link with gens := AL.set src.val gen s.link.gens } }

/-- BER_REPORT (R283, R328): a port's bit error ratio goes to the wear monitors. -/
def execBerReport (p : PortId) (ber : Nat) (s : State) : Host.Outcome State Fault Refusal :=
  .next ((s.updPort p (fun x => { x with ber := ber })).takeWear (.port p) .portBer ber)

/-! ## The control tree (R352) -/

/-- What is combined by AND rather than OR: the completion of a checkpoint (R314). -/
def combinesByAnd : ControlKind → Bool
  | .ckptDone _ => true
  | _ => false

/-- A module belongs to a context's clearing (R342, R343). -/
def State.isMember (s : State) (c : CtxId) (m : Nat) : Bool :=
  match s.tableOf c with
  | some t => decide (m < 4096) && (m == s.ident || s.routeValid t m)
  | none => m == s.ident

/-- Every module of one grove that belongs to a context's clearing. -/
def State.membersOf (s : State) (c : CtxId) (g : Nat) : List Nat :=
  let near := (List.range 32).map (fun p => 32 * (g % 128) + p)
  match s.tableOf c with
  | some t => near.filter (fun m => m == s.ident || s.routeValid t m)
  | none => near.filter (fun m => m == s.ident)

/-- Senders a steward awaits: the healthy members of its grove and those waiting for a takeover (R279 step 1), and the other groves by their numbers behind 4,096. -/
def State.awaited (s : State) (c : CtxId) : List Nat × List Nat :=
  let ms := s.members c
  let mine := groveOf s.ident
  (ms.filter (fun m => groveOf m == mine && ((s.ctx c).healthy m || (AL.find? m (s.ctx c).takeoverOf).isSome)),
   ((ms.map groveOf).eraseDups.filter (fun g => g != mine)).map (fun g => 4096 + g))

/-- The lowest-numbered healthy member of another grove: its steward as this module knows it (R274). -/
def State.stewardOf (s : State) (c : CtxId) (g : Nat) (but : Option Nat) : Option Nat :=
  match (s.membersOf c g).filter (fun m => (s.ctx c).healthy m && some m != but) with
  | [] => none
  | m :: ms => some (ms.foldl min m)

/-- CONTROL_TREE_CONTRIBUTION (R352): a steward counts each sender once, exchanges its grove's combined value with the other
stewards, and returns the result to its members when every grove's is in. -/
def execControlTreeContribution (c : CtxId) (k : ControlKind) (sender : ModNo) (fromSteward : Bool) (mask : Word) (s : State) :
    Host.Outcome State Fault Refusal :=
  .next (
    if !s.isSteward c then s
    else
      let x := s.ctx c
      let who := if fromSteward then 4096 + groveOf sender.val else sender.val
      let old : List Nat × BitVec 32 := AL.get ([], if combinesByAnd k then 0xFFFFFFFF else 0) k x.control
      if old.1.contains who then s
      else
        let now := (old.1 ++ [who], if combinesByAnd k then old.2 &&& mask else old.2 ||| mask)
        let (mine, others) := s.awaited c
        let has (l : List Nat) (ws : List Nat) : Bool := ws.all (fun w => l.contains w)
        let s := s.updCtx c (fun x => { x with control := AL.set k now x.control })
        let s := if has now.1 mine && !has old.1 mine then
            others.foldl (fun (s : State) g => match s.stewardOf c (g - 4096) none with
              | some m => s.send (.exchange c m k now.2)
              | none => s) s
          else s
        if has now.1 mine && has now.1 others then
          (s.updCtx c (fun x => { x with control := AL.del k x.control })).send (.distribute c k now.2)
        else s)

end Sys2Proof.Machine
end

