-- ==== Sys2Proof/Machine/MemRepair.lean ====
section
/-! DEFINITION. Where a device address lies, the channel map, map-outs, and the repair of parity errors (R167–R172,
R180–R193). -/

namespace Sys2Proof.Machine

/-! ## Addresses and channels (R167, R171, R172) -/

/-- A_d: the logical pseudo-channels of die d (R171). -/
def State.chanCount (s : State) (d : Nat) : Nat := 160 - s.reg (aPartResv d)

/-- The channel map's entry i of die d (R172, R464): at reset its own number. -/
def State.chEntry (s : State) (d i : Nat) : ChEntry := AL.get ⟨d, i, false⟩ (d, i) s.mem.chmap

/-- Die window of a DPA (R171). -/
def dpaDie (a : Nat) : Nat := a / 2 ^ 39 % 4

/-- Offset in the die window of a DPA (R171). -/
def dpaOffset (a : Nat) : Nat := a % 2 ^ 39

/-- The DPA is populated: its offset lies below A_d × 2 GiB (R171). -/
def State.populated (s : State) (a : Nat) : Bool := decide (dpaOffset a < s.chanCount (dpaDie a) * 2 ^ 31)

/-- The channel address of a DPA in its logical channel (R171). -/
def State.chanAddr (s : State) (a : Nat) : Nat :=
  dpaOffset a / 512 / s.chanCount (dpaDie a) * 512 + dpaOffset a % 512

/-- The stack of a physical pseudo-channel: stacks are numbered over the module, five to a die (R167). -/
def stackOf (p : Chan) : Nat := 5 * p.1 + p.2 % 5

/-- The number of a physical pseudo-channel within its stack (R167). -/
def chanInStack (p : Chan) : Nat := p.2 / 5

/-- The controller of a physical pseudo-channel's stack (R167, R264). -/
def hbmOf (p : Chan) : Fin 20 := Fin.ofNat 20 (stackOf p)

/-- The logical channel of a DPA, with its die (R171). -/
def State.logicalOf (s : State) (a : Nat) : Chan := (dpaDie a, dpaOffset a / 512 % s.chanCount (dpaDie a))

/-- The physical channel that backs a DPA (R171, R172). -/
def State.chanOf (s : State) (a : Nat) : Chan :=
  let l := s.logicalOf a
  let e := s.chEntry l.1 l.2
  (e.die, e.ch)

/-- The physical channels that back a logical channel of the module. -/
def State.backing (s : State) : List Chan :=
  (List.range 4).flatMap (fun d => (List.range (s.chanCount d)).map (fun i => ((s.chEntry d i).die, (s.chEntry d i).ch)))

/-- The free reserve channels of a die, lowest first: neither fenced, backing, being filled, nor in margining (R172, R189,
R193). -/
def State.freeReserve (s : State) (d : Nat) : List Chan :=
  let used := s.backing
  ((List.range 160).map (fun i => ((d, i) : Chan))).filter (fun p =>
    !used.contains p && !s.mem.fenced.contains p && !s.mem.margining.contains p && !s.mem.mapouts.any (fun m => m.target == p))

/-- Free reserve channels of the module. -/
def State.freeReserveAll (s : State) : Nat := ((List.range 4).map (fun d => (s.freeReserve d).length)).foldl (· + ·) 0

/-- MEM_RESERVE_LOW where free reserve channels were taken since the state `old`: a die has lost its last one, or the module's
count has fallen to 4 (R190). -/
def State.reserveLow (old s : State) : State :=
  let dieOut := (List.range 4).any (fun d => !(old.freeReserve d).isEmpty && (s.freeReserve d).isEmpty)
  if dieOut || (decide (4 < old.freeReserveAll) && decide (s.freeReserveAll ≤ 4)) then s.modEvent .memReserveLow else s

/-- A physical channel fenced (R188, R189): no replacement any more, with the report of R190. -/
def State.fenceChan (s : State) (p : Chan) : State :=
  if s.mem.fenced.contains p then s
  else s.reserveLow { s with mem := { s.mem with fenced := s.mem.fenced ++ [p] } }

/-- The replacement for a channel of die d: the lowest free reserve channel of the die, else of the lowest-numbered die
that has one (R189). -/
def State.replacement (s : State) (d : Nat) : Option Chan :=
  match s.freeReserve d with
  | p :: _ => some p
  | [] => ((List.range 4).flatMap s.freeReserve).head?

/-- The step a rollback for lost data falls on: the one the context computes, else its oldest provisional one. -/
def Ctx.faultStep (x : Ctx) : Option Step :=
  match x.working with
  | some t => some t
  | none => x.steps.head?

/-- A rollback of the clearing for data that cannot be repaired in place: the parity class of the step fails (R199,
R210). -/
def State.parityRollback (s : State) (c : CtxId) (st : Status) : State :=
  match (s.ctx c).faultStep with
  | some t => s.failClass c t.number 2 st
  | none => s

/-! ## Words in doubt (R168, R169) -/

/-- The even parity of a 32-bit word: its parity bit is 1 where it has an odd number of ones (R169). -/
def evenParity (w : BitVec 32) : Bool := ((List.range 32).foldl (fun (a : Bool) i => xor a (w.getLsbD i)) false)

/-- A word read with some of its bits flipped fails (R168, R169): its parity bit, written with the word, does not match the
data read; the stack reported it uncorrected; or more than 4 repeats met an interface parity error. -/
def wordFails (f : WordFault) (w : BitVec 32) : Bool :=
  let read := w ^^^ f.flips.setWidth 32
  let bit := xor (evenParity w) (f.flips.getLsbD 32)
  evenParity read != bit || f.uncorrected || decide (4 < f.retries)

/-- The bytes of a read with the flips of one word: what a fault that no check catches delivers (R180). -/
def flipWord (bs : List Byte) (f : WordFault) : List Byte :=
  let w := leNat ((bs.drop (4 * f.word)).take 4)
  bs.take (4 * f.word) ++ leBytes (min 4 (bs.length - 4 * f.word)) (w ^^^ (f.flips.setWidth 32 : BitVec 32).toNat) ++ bs.drop (4 * f.word + 4)

/-- The word a fault names among the bytes of a read. -/
def faultWord (bs : List Byte) (f : WordFault) : BitVec 32 := BitVec.ofNat 32 (leNat ((bs.drop (4 * f.word)).take 4))

/-- A severity report is collected for its channel (R168, R169). -/
def State.report (s : State) (p : Chan) (f : WordFault) : State :=
  if f.uncorrected then { s with mem := { s.mem with reports := AL.upd 0 p (· + 1) s.mem.reports } }
  else if f.corrected then { s with mem := { s.mem with corrected := AL.upd 0 p (· + 1) s.mem.corrected } }
  else s

/-! ## Pieces of a region (R176) -/

/-- The DPA at an offset of a region's pieces: (die, base unit, units) each (R171, R176). -/
def pieceAddr : List (Nat × Nat × Nat) → Nat → Option Nat
  | [], _ => none
  | (d, b, n) :: ps, off =>
    if off < n * 2097152 then some (d * 2 ^ 39 + b * 2097152 + off) else pieceAddr ps (off - n * 2097152)

/-- The dies that hold the units `first` to `first + len - 1` of a region. -/
def pieceDies : List (Nat × Nat × Nat) → Nat → Nat → List Nat
  | [], _, _ => []
  | (d, _, n) :: ps, first, len =>
    let here := min len (n - first)
    (if here = 0 then [] else [d]) ++ pieceDies ps (first - n) (len - here)

/-- The DPA of a granule of a slot of a context: partition 0 live, 2 mirror (R174, R176). -/
def Ctx.slotAddr (x : Ctx) (part : Nat) (i : Fin 3) (granule : Nat) : Option Nat :=
  let units := (x.prog.map (fun p => if part = 0 then p.slotUnits else p.mirrorUnits)).getD 0
  pieceAddr (AL.get [] part x.regions) (i.val * units * 2097152 + granule * 512)

/-- The DPA of a word's location in a version slot or the snapshot. -/
def State.locAddr (s : State) (loc : Loc) : Option Nat :=
  match loc with
  | .live c i g => (s.ctx c).slotAddr 0 i g
  | .mirror c i g => (s.ctx c).slotAddr 2 i g
  | .snapshot c g => pieceAddr (AL.get [] 4 (s.ctx c).regions) (512 * g)
  | _ => none

/-- Repair traffic of a die, which no partition is charged for (R177). -/
def State.chargeRepair (s : State) (a : Option Nat) (bytes : Nat) : State :=
  match a with
  | some a => { s with mem := { s.mem with waiting := s.mem.waiting ++ [(dpaDie a, 7, bytes)] } }
  | none => s

/-- Dies that hold a kept version: its copy is the one its number modulo r names (R176, R211; log 125). -/
def Ctx.keepDies (x : Ctx) (r v : Nat) : List Nat :=
  let units := (x.prog.map (fun p => p.slotUnits)).getD 0
  pieceDies (AL.get [] 1 x.regions) (v % max 1 r * units) units

/-- Stripe units reserved before a row of a region, in the order of the regions and their sets; they lie in this order in the
stripe partition (log 125). -/
def State.stripeIndex (s : State) (seat wctx set row : Nat) : Nat :=
  let rowsOf (e : (Nat × Nat) × StripeRegion) : List (Nat × Nat × Nat × Nat) :=
    e.2.rows.flatMap (fun r => (List.range r.2).map (fun i => (e.1.1, e.1.2, r.1, i)))
  ((s.ckpt.stripes.flatMap rowsOf).findIdx? (fun q => q == (seat, wctx, set, row))).getD 0

/-- The pieces of the stripe partition: its range on every die (R173). -/
def State.stripePieces (s : State) : List (Nat × Nat × Nat) :=
  (List.range 4).map (fun d => (d, bitsOf (s.reg (aPartBase d 5)) 17 0, bitsOf (s.reg (aPartSize d 5)) 17 0))

/-- The stripe units that lie on a die fail their parity: a channel of it has lost its contents, and every unit of 2 MiB has
granules in every logical channel of its die (R171, R180, R189, R193). -/
def State.losePartStripes (s : State) (d : Nat) : State :=
  let on (k : Nat × Nat) (e : Nat × Nat × Nat) : Bool :=
    (pieceDies s.stripePieces (s.stripeIndex k.1 k.2 e.1 e.2.1) 1).contains d
  { s with ckpt := { s.ckpt with stripes := s.ckpt.stripes.map (fun r =>
    (r.1, { r.2 with sets := r.2.sets.map (fun e => if on r.1 e.1 then (e.1, (e.2.1, false)) else e) })) } }

/-! ## Refetch requests (R181, R183) -/

/-- The buddy of this module for a context's shard (R165). -/
def State.buddy (s : State) (c : CtxId) : Option Nat := ((s.ctx c).prog).bind (fun p => buddyOf p s.ident)

/-- The shard whose words a partition of this module holds: its own, or in the mirror its buddy's (R147). -/
def State.partShard (s : State) (c : CtxId) (part : RefetchPart) : Nat :=
  match (s.ctx c).prog with
  | some p =>
    match part with
    | .live | .landed => shardOf p s.ident
    | .mirror | .received => shardOf p ((buddyOf p s.ident).getD s.ident)
  | none => 0

/-- A refetch request goes to a module (R181): shard, partition, version, granule. -/
def State.ask (s : State) (c : CtxId) (m : Nat) (part : RefetchPart) (version granule : Nat) : State :=
  s.send (.refetch c m ⟨s.partShard c part, part⟩ version granule)

/-- A refetch of a word begins (R180, R181): the request goes to the buddy. -/
def State.refetch (s : State) (c : CtxId) (loc : Loc) (part : RefetchPart) (version granule : Nat) : State :=
  let s := ({ s with mem := { s.mem with repairs := s.mem.repairs ++ [(loc, false)] } }).chargeRepair (s.locAddr loc) 512
  match s.buddy c with
  | some m => s.ask c m part version granule
  | none => s

/-- The granules of a context's committed slot of a partition that lie in a logical channel (R171, R189). -/
def State.granulesIn (s : State) (c : CtxId) (part : Nat) (i : Fin 3) (t : Slot) (l : Chan) : List Nat :=
  match (s.ctx c).prog with
  | some p => (List.range (cdiv (slotBody p t.data).length 512)).filter (fun g =>
      match (s.ctx c).slotAddr part i g with
      | some a => decide (s.logicalOf a = l)
      | none => false)
  | none => []

/-- The committed granules of a context that lay in an unreadable channel are refetched (R189). -/
def State.rebuildSlots (s : State) (l : Chan) (c : CtxId) : State :=
  let one (part : Nat) (s : State) (i : Fin 3) : State :=
    let t : Slot := AL.get {} i (if part = 0 then (s.ctx c).live else (s.ctx c).mirror)
    if t.state = .committed then
      (s.granulesIn c part i t l).foldl (fun (s : State) g =>
        s.refetch c (if part = 0 then .live c i g else .mirror c i g) (if part = 0 then .live else .mirror) t.version g) s
    else s
  (List.finRange 3).foldl (one 2) ((List.finRange 3).foldl (one 0) s)

/-- Snapshot contents rebuilt from the live slot or keep of the same version; the buddy's mirror slot is the third
source (R180). -/
def Ctx.snapshotSource (x : Ctx) (v : Nat) : Bool :=
  let t := x.liveSlot v
  (t.version == v && (decide (t.state = .committed) || decide (t.state = .retained))) || x.keep.any (fun e => e.1 == v)

/-- Granules of a snapshot that lay in an unreadable channel are refetched from the buddy's mirror slot where neither the live slot nor
keep holds the version (R180, R189). -/
def State.rebuildSnapshot (s : State) (l : Chan) (c : CtxId) : State :=
  match (s.ctx c).snapshot, (s.ctx c).prog with
  | some f, some p =>
    if (s.ctx c).snapshotSource f.step || decide (f.step ≠ (s.ctx c).committed) || (s.buddy c).isNone then s
    else
      ((List.range (cdiv (slotBody p f.data).length 512)).filter (fun g =>
        (s.locAddr (.snapshot c g)).any (fun a => decide (s.logicalOf a = l)))).foldl (fun (s : State) g =>
          s.refetch c (.snapshot c g) .live f.step g) s
  | _, _ => s

/-! ## Map-outs (R188–R190) -/

/-- A context has a piece of a region on a die; every channel of the die has granules of it (R171, R176). -/
def Ctx.onDie (x : Ctx) (d : Nat) : Bool := x.regions.any (fun (e : Nat × List (Nat × Nat × Nat)) => e.2.any (fun q => q.1 == d))

/-- An unreadable channel's loss (R189): the clearing of every context with a piece on its die rolls back (log 146), committed granules
and those of a snapshot are refetched, kept versions with a piece on the die are gone, and the stripe units on it are lost. -/
def State.channelLost (s : State) (l : Chan) : State :=
  let s := allCtx.foldl (fun (s : State) c =>
    if (s.ctx c).loaded && (s.ctx c).onDie l.1 then
      let s := ((s.parityRollback c .memMapout).rebuildSlots l c).rebuildSnapshot l c
      s.updCtx c (fun x => { x with keep := x.keep.filter (fun e => !(x.keepDies s.retention e.1).contains l.1) })
    else s) s
  s.losePartStripes l.1

/-- A map-out begins: a replacement is taken, with the report of R190; without one the module is lost, with a report to its
steward. An unreadable channel's contents are rebuilt (R189, R190). -/
def State.mapoutStart (s : State) (d i : Nat) (readable : Bool) : State :=
  match s.replacement d with
  | none => (s.modEvent .memReserveExhausted).selfFence (some .memReserveExhausted)
  | some p =>
    let t := s.reserveLow { s with mem := { s.mem with
      mapouts := s.mem.mapouts ++ [⟨d, i, p, readable, false⟩], atTrigger := AL.del (d, i) s.mem.atTrigger } }
    let t := { t with mem := { t.mem with waiting := t.mem.waiting ++ [(d, 7, 2 ^ 31)] } }
    if readable then t else t.channelLost (d, i)

/-- A logical channel has met a trigger of R188: it is mapped out, or reported and left for the MSS where AUTO is 0. A channel
that stops reading while it is copied is rebuilt as an unreadable one (R189). -/
def State.mapoutTrigger (s : State) (d i : Nat) (readable : Bool) : State :=
  if !readable && s.mem.mapouts.any (fun m => m.die == d && m.logical == i && m.readable && !m.copied) then
    let turn (m : MapOut) : MapOut := if m.die = d ∧ m.logical = i then { m with readable := false } else m
    { s with mem := { s.mem with mapouts := s.mem.mapouts.map turn } }.channelLost (d, i)
  else if s.mem.mapouts.any (fun m => m.die == d && m.logical == i) then s
  else if (AL.find? (d, i) s.mem.atTrigger).isSome then
    { s with mem := { s.mem with atTrigger := AL.upd true (d, i) (· && readable) s.mem.atTrigger } }
  else if bitOf (s.reg aMapout) 4 then s.mapoutStart d i readable
  else { s.modEvent .memMapout with mem := { (s.modEvent .memMapout).mem with atTrigger := AL.set (d, i) readable s.mem.atTrigger } }

/-- The logical channel a physical one backs. -/
def State.logicalFor (s : State) (p : Chan) : Option Chan :=
  ((List.range 4).flatMap (fun d => (List.range (s.chanCount d)).map (fun i => ((d, i) : Chan)))).find? (fun l =>
    let e := s.chEntry l.1 l.2
    decide ((e.die, e.ch) = p))

/-- A granule of a physical channel has become a hard fault; HARD_COUNT distinct ones trigger a map-out (R188). -/
def State.hardFault (s : State) (p : Chan) (granule : Nat) : State :=
  let had := AL.get [] p s.mem.hardFaults
  let now := if had.contains granule then had else had ++ [granule]
  let s := { s with mem := { s.mem with hardFaults := AL.set p now s.mem.hardFaults } }
  if bitsOf (s.reg aMapout) 3 0 ≤ now.length then
    match s.logicalFor p with
    | some l => s.mapoutTrigger l.1 l.2 true
    | none => s
  else s

/-! ## Drains that end (R309, R313–R315) -/

/-- A surviving data-parallel replica of this module's shard holds the same frozen snapshot (R300, R315; log 51). -/
def State.snapshotReplica (s : State) (c : CtxId) : Bool :=
  match (s.ctx c).prog with
  | some p => p.shards.any (fun ms => ms.contains s.ident && ms.any (fun m => m != s.ident && (s.ctx c).healthy m))
  | none => false

/-- The frozen snapshot is lost and no source rebuilds it: its checkpoint is abandoned for every destination (R180,
R315). -/
def State.snapshotLost (s : State) (c : CtxId) : State :=
  let s := s.updCtx c (fun x => { x with
    snapshot := none, exports := []
    drain := x.drain.map (fun d => if d.contributed then d else { d with sDone := some false, gDone := some false, gWait := [] }) })
  (s.event (setOf c) .ckptSnapshotLost .none).drainContribute c

/-! ## Parity repair (R180–R184) -/

/-- The step ledger of the step a context computes counts a parity repair (R180, R478). -/
def State.countRepair (s : State) (c : CtxId) : State :=
  match (s.ctx c).faultStep with
  | some t => s.updStep c t.number (fun t => { t with nParity := t.nParity + 1 })
  | none => s

/-- The signature of a parity repair (R260, R262): a channel of a die. A patrol scrub's belongs to no step of a context (R263).
The failing word is none the model holds: its value is free. -/
def State.paritySig (s : State) (c : Option CtxId) (p : Chan) (repaired : Bool) : State :=
  let t := c.bind (fun c => (s.ctx c).faultStep)
  let step := (t.map (·.number)).getD 0
  let n := s.draw
  n.2.emit c step .memParityRefetched p.1 { mkSig 0x0F (if repaired then 9 else 3) 1 (p.1 * 256 + p.2)
    (if repaired then .corrected else .recoverable) with
    ctx := (c.map Fin.val).getD 0, step := step, attempt := (t.map (·.attempt)).getD 0, observed := n.1 % 2 ^ 32 }

/-- The repair of a word that fails parity, by where it lies (R180); `p` is its physical channel. `scrub`: a patrol scrub read
it, not a step (R184). -/
def State.parityRepair (s : State) (p : Chan) (loc : Loc) (scrub : Bool) : State :=
  let s := { s with mem := { s.mem with parity := AL.upd 0 p (· + 1) s.mem.parity } }
  let sig (s : State) (c : CtxId) (repaired : Bool) : State :=
    (s.countRepair c).paritySig (if scrub then none else some c) p repaired
  let ask (s : State) (c : CtxId) (part : RefetchPart) (version granule : Nat) : State :=
    let s := if scrub then { s with mem := { s.mem with scrubs := s.mem.scrubs ++ [loc] } } else s
    s.refetch c loc part version granule
  match loc with
  | .live c i g =>
    let t : Slot := AL.get {} i (s.ctx c).live
    match t.state with
    | .committed => ask s c .live t.version g
    | .writing | .provisional => sig s c true
    | .retained => sig (s.updCtx c (fun x => { x with
        keepCopy := x.keepCopy.filter (fun j => j != i), live := AL.set i { t with state := .free, readers := t.readers - 1 } x.live })) c false
    | .free => s
  | .mirror c i g =>
    let t : Slot := AL.get {} i (s.ctx c).mirror
    match t.state with
    | .committed => ask s c .mirror t.version g
    | .writing | .provisional => sig s c true
    | .retained | .free => s
  | .keep c v => sig (s.updCtx c (fun x => { x with keep := x.keep.filter (fun e => e.1 != v) })) c false
  | .woodpile c _ _ => sig s c true
  | .workDup c => sig s c true
  | .workSlice c g => ask s c .landed (s.workNo c) g
  | .workRecvSlice c g => ask s c .received (s.workNo c) g
  | .workBatch c _ same =>
    let s := sig s c same
    if same then s
    else
      match (s.ctx c).faultStep with
      | some t => s.stopStep c t.number .batchRefetchMismatch
      | none => s
  | .workOther c held =>
    let s := sig s c held
    if held then s else s.parityRollback c .memParityRefetched
  | .snapshot c g =>
    match (s.ctx c).snapshot with
    | none => s
    | some f =>
      if (s.ctx c).snapshotSource f.step then sig s c true
      else if f.step = (s.ctx c).committed ∧ (s.buddy c).isSome = true then ask s c .live f.step g
      else if s.snapshotReplica c then sig s c true
      else (sig s c false).snapshotLost c
  | .stripe seat wctx set row unit =>
    let bad (r : StripeRegion) : StripeRegion := { r with
      sets := r.sets.map (fun e => if e.1 = (set, row, unit) then (e.1, (e.2.1, false)) else e) }
    let s := if h : wctx < 16 then s.countRepair ⟨wctx, h⟩ else s
    { s.paritySig none p true with ckpt := { s.ckpt with
      stripes := s.ckpt.stripes.map (fun e => if e.1 = (seat, wctx) then (e.1, bad e.2) else e) } }

/-- The context a location belongs to. -/
def locCtx : Loc → Option CtxId
  | .live c _ _ | .mirror c _ _ | .keep c _ | .woodpile c _ _ | .workDup c | .workSlice c _ | .workRecvSlice c _
  | .workBatch c _ _ | .workOther c _ | .snapshot c _ => some c
  | .stripe _ _ _ _ _ => none

/-- A read meets the words in doubt among those it covers: one fails parity and is repaired, or is being repaired; the reader waits
(R180). None where all it reads are good. -/
def State.badUpset (s : State) (reads : Chan → Loc → Bool) : Option State :=
  match s.mem.upsets.find? (fun e => reads e.1 e.2.loc) with
  | some e =>
    let s := { s with mem := { s.mem with upsets := s.mem.upsets.filter (fun u => u != e) } }
    some ((s.report e.1 e.2).parityRepair e.1 e.2.loc false)
  | none => if s.mem.repairs.any (fun e => (s.locAddr e.1).any (fun a => reads (s.chanOf a) e.1)) then some s else none

/-- Words in doubt of a version slot that is written anew are gone. -/
def State.dropUpsets (s : State) (which : Loc → Bool) : State :=
  { s with mem := { s.mem with upsets := s.mem.upsets.filter (fun e => !which e.2.loc) } }

end Sys2Proof.Machine
end

