-- ==== Sys2Proof/Machine/Memory.lean ====
section
/-! DEFINITION. Refetch, patrol scrub, the end of a map-out, margining's end, the regulators and controller faults (R177–R194,
R264). -/

namespace Sys2Proof.Machine

/-! ## Refetch (R181–R183) -/

/-- A granule of 512 bytes of a slot, by its offset in the shard (R181). -/
def slotGranule (p : Program) (d : SlotData) (granule : Nat) : List Byte := ((slotBody p d).drop (512 * granule)).take 512

/-- Codes of a width, from packed bytes (R29). -/
def unpackCodes (bits n : Nat) (bs : List Byte) : List Nat :=
  let v := leNat bs
  (List.range n).map (fun i => v / 2 ^ (bits * i) % 2 ^ bits)

/-- The arrays of a slot as a body's bytes hold them, in canonical order (R304); a record's bytes are passed over. -/
def arraysFrom (p : Program) : List (Nat × List Nat) → List Byte → List (Nat × List Nat)
  | [], _ => []
  | a :: as, bs =>
    let f := slotFmt p a.1
    let n := cdiv (f.bits * a.2.length) 8
    let rec_ := if f.isNarrow || decide (f = .fxr64) then 32 else 0
    (a.1, unpackCodes f.bits a.2.length (bs.take n)) :: arraysFrom p as (bs.drop (n + rec_))

/-- Bytes of the arrays with their records in a body. -/
def arraysLen (p : Program) (arrays : List (Nat × List Nat)) : Nat :=
  (arrays.map (fun a => cdiv ((slotFmt p a.1).bits * a.2.length) 8 + (if (slotFmt p a.1).isNarrow || decide (slotFmt p a.1 = .fxr64) then 32 else 0))).foldl (· + ·) 0

/-- A slot with a granule written whole: arrays, optimiser count and scale records (R181 step 4). -/
def putGranule (p : Program) (d : SlotData) (granule : Nat) (bytes : List Byte) : SlotData :=
  let body := slotBody p d
  let new := body.take (512 * granule) ++ bytes.take (body.length - 512 * granule) ++ body.drop (512 * granule + 512)
  let arrays := sortBy (fun (a b : Nat × List Nat) => decide (a.1 ≤ b.1)) d.arrays
  let rest := new.drop (arraysLen p arrays)
  { arrays := arraysFrom p arrays new, t := leNat (rest.take 4)
    records := (List.range d.records.length).map (fun i => recFrom ((rest.drop (4 + 32 * i)).take 32)) }

/-- A gradient slice in bytes, 8 to an entry (R144). -/
def sliceBytes (sl : Slice) : List Byte := sl.vals.flatMap (fun v => leBytes 8 (ofSigned 64 v))

/-- A gradient slice with the entries that bytes hold. -/
def sliceOf (sl : Slice) (bs : List Byte) : Slice :=
  { sl with vals := (List.range sl.vals.length).map (fun i => toSigned 64 (leNat ((bs.drop (8 * i)).take 8))) }

/-- What a holder has of a refetch request (R180, R181): its own live slot of the version, its mirror slot of it, if the shard is
its own or its buddy's and the slot is COMMITTED; the slice it received, or owns. -/
def State.holds (s : State) (c : CtxId) (key : RefetchKey) (version granule : Nat) : Option (List Byte) :=
  let x := s.ctx c
  match x.prog with
  | none => none
  | some p =>
    let from_ (t : Slot) : Option (List Byte) :=
      if t.state = .committed ∧ t.version = version then some (slotGranule p t.data granule) else none
    match key.part with
    | .live | .mirror =>
      if key.shard = shardOf p s.ident then from_ (x.liveSlot version)
      else if key.shard = s.partShard c .mirror then from_ (x.mirSlot version)
      else none
    | .landed => ((x.stepNo version).bind (fun t => AL.find? granule t.recvSlices)).map sliceBytes
    | .received => ((x.stepNo version).bind (fun t => AL.find? granule t.slices)).map sliceBytes

/-- REFETCH_REQUEST_RECEIVE (R180, R181): the holder answers with the granule or the slice, or refuses: it does not hold it in a
COMMITTED slot, or its own copy fails parity. -/
def execRefetchRequestReceive (c : CtxId) (src : ModNo) (key : RefetchKey) (version granule : Nat) (parityBad : Bool)
    (s : State) : Host.Outcome State Fault Refusal :=
  .next (s.send (.refetchReply c src.val version granule (if parityBad then none else s.holds c key version granule)))

/-- The lowest-numbered other data-parallel replica of a shard that is not lost (R183). -/
def State.replica (s : State) (c : CtxId) (shard : Nat) : Option Nat :=
  match (s.ctx c).prog with
  | some p =>
    match (p.shards.getD shard []).filter (fun m => m != s.ident && some m != buddyOf p s.ident && !(s.ctx c).lostMods.contains m) with
    | [] => none
    | m :: ms => some (ms.foldl min m)
  | none => none

/-- The partition a refetch request names for a location, with version and granule. -/
def State.askFor (s : State) (c : CtxId) : Loc → RefetchPart × Nat × Nat
  | .live _ i g => (.live, (AL.get {} i (s.ctx c).live : Slot).version, g)
  | .mirror _ i g => (.mirror, (AL.get {} i (s.ctx c).mirror : Slot).version, g)
  | .workSlice _ g => (.landed, s.workNo c, g)
  | .workRecvSlice _ g => (.received, s.workNo c, g)
  | .snapshot _ g => (.live, (((s.ctx c).snapshot.map (·.step)).getD (s.ctx c).committed), g)
  | _ => (.live, (s.ctx c).committed, 0)

/-- A refetch that no source could answer is in the step ledger as every error is, with its signature (R180, R262). -/
def State.repairFailed (s : State) (c : CtxId) (loc : Loc) : State :=
  (s.countRepair c).paritySig (some c) (s.chanOf ((s.locAddr loc).getD 0)) false

/-- A refetch that was refused, failed parity or went unanswered: the next replica is asked; without one, committed state
is lost, and other data rolls the clearing back (R180, R183). -/
def State.refetchFailed (s : State) (c : CtxId) (loc : Loc) (tried : Bool) : State :=
  let drop (s : State) : State := { s with mem := { s.mem with
    repairs := s.mem.repairs.filter (fun e => e.1 != loc), scrubs := s.mem.scrubs.filter (fun l => l != loc) } }
  let want := s.askFor c loc
  let again (s : State) (m : Nat) : State :=
    let mark (e : Loc × Bool) : Loc × Bool := if e.1 = loc then (loc, true) else e
    { s with mem := { s.mem with repairs := s.mem.repairs.map mark } }.ask c m want.1 want.2.1 want.2.2
  match loc with
  | .workSlice _ _ | .workRecvSlice _ _ => ((drop s).repairFailed c loc).parityRollback c .memParityRefetched
  | .snapshot _ _ => if s.snapshotReplica c then drop s else ((drop s).repairFailed c loc).snapshotLost c
  | _ =>
    match s.replica c (s.partShard c want.1) with
    | some m => if tried then ((drop s).repairFailed c loc).memStateLost c else again s m
    | none => ((drop s).repairFailed c loc).memStateLost c

/-- A granule or a slice written back where it lies (R181 step 4). -/
def State.writeBack (s : State) (c : CtxId) (loc : Loc) (bytes : List Byte) : State :=
  let put (x : Ctx) (g : Nat) (t : Slot) : Slot := match x.prog with
    | some p => { t with data := putGranule p t.data g bytes }
    | none => t
  match loc with
  | .live _ i g => s.updCtx c (fun x => { x with live := AL.upd {} i (put x g) x.live })
  | .mirror _ i g => s.updCtx c (fun x => { x with mirror := AL.upd {} i (put x g) x.mirror })
  | .snapshot _ g => s.updCtx c (fun x => { x with snapshot := x.snapshot.map (fun f => match x.prog with
      | some p => { f with data := putGranule p f.data g bytes }
      | none => f) })
  | .workSlice _ g => s.updStep c (s.workNo c) (fun t => { t with
      slices := t.slices.map (fun e => if e.1 = g then (e.1, sliceOf e.2 bytes) else e) })
  | .workRecvSlice _ g => s.updStep c (s.workNo c) (fun t => { t with
      recvSlices := t.recvSlices.map (fun e => if e.1 = g then (e.1, sliceOf e.2 bytes) else e) })
  | _ => s

/-- REFETCH_REPLY_RECEIVE (R181): a granule whose parity is good is written back and read again; a second failure is a hard fault,
and the reader is served from the refetched data. A refusal goes on under R183. -/
def execRefetchReplyReceive (c : CtxId) (loc : Loc) (granule : Option (List Byte)) (parityOk secondOk : Bool) (s : State) :
    Host.Outcome State Fault Refusal :=
  .next (
    match s.mem.repairs.find? (fun e => e.1 == loc) with
    | none => s
    | some e =>
      match granule, parityOk with
      | some bytes, true =>
        let scrub := s.mem.scrubs.contains loc
        let s := { s with mem := { s.mem with
          repairs := s.mem.repairs.filter (fun f => f.1 != loc), scrubs := s.mem.scrubs.filter (fun l => l != loc) } }
        let a := (s.locAddr loc).getD 0
        let p := s.chanOf a
        let s := (((s.writeBack c loc bytes).chargeRepair (s.locAddr loc) bytes.length).countRepair c).paritySig (if scrub then none else some c) p true
        if secondOk then s
        else match s.locAddr loc with
          | some a => s.hardFault p (s.chanAddr a / 512)
          | none => s
      | _, _ => s.refetchFailed c loc e.2)

/-- Words the patrol scrub reads: committed words of live and mirror, keep and snapshot (R184). -/
def State.scrubbed (s : State) (loc : Loc) : Bool :=
  match loc with
  | .live c i _ => decide ((AL.get {} i (s.ctx c).live : Slot).state = .committed)
  | .mirror c i _ => decide ((AL.get {} i (s.ctx c).mirror : Slot).state = .committed)
  | .keep _ _ | .snapshot _ _ => true
  | _ => false

/-- The word a fault names at a location, as the memory holds it; of data the model keeps by other names, its parity alone counts. -/
def State.wordAt (s : State) (f : WordFault) : BitVec 32 :=
  match s.locAddr f.loc with
  | some a => faultWord (s.hbmGet a 512) f
  | none => 0

/-- PATROL_SCRUB_READ (R184): a channel is read while the scrub is on and the module is awake (R432); a failing word is repaired
with no waiting reader. A word in doubt that the scrub does not read waits for its reader (R180; log 154). -/
def execPatrolScrubRead (d : Die) (ch : Nat) (bad : Option WordFault) (s : State) : Host.Outcome State Fault Refusal :=
  .next (
    if bitsOf (s.reg aScrub) 15 0 = 0 ∨ s.hub.power = .asleep ∨ s.hub.power = .dormant then s
    else
      let s := { s with mem := { s.mem with scrubPos := AL.set d.val ch s.mem.scrubPos } }
      match bad with
      | some f =>
        let s := s.report (d.val, ch) f
        if !wordFails f (s.wordAt f) then s
        else if s.scrubbed f.loc then s.parityRepair (d.val, ch) f.loc true
        else { s with mem := { s.mem with upsets := s.mem.upsets ++ [((d.val, ch), f)] } }
      | none => s)

/-! ## Map-outs (R188, R189) -/

/-- The map entry of a logical channel changes to the replacement and the old channel is fenced (R189); no reserve channel is taken by
it (R190). -/
def State.mapSwitch (s : State) (m : MapOut) : State :=
  let old := s.chEntry m.die m.logical
  { s with mem := { s.mem with
    chmap := AL.set (m.die, m.logical) ⟨m.target.1, m.target.2, true⟩ s.mem.chmap
    mapouts := s.mem.mapouts.filter (fun k => !(k.die == m.die && k.logical == m.logical))
    fenced := if s.mem.fenced.contains (old.die, old.ch) then s.mem.fenced else s.mem.fenced ++ [(old.die, old.ch)] } }.modEvent .memMapout

/-- A snapshot with a piece on a die that lost a channel is rebuilt from its sources (R180, R189); without one it is lost. -/
def State.snapshotOn (d : Nat) (s : State) (c : CtxId) : State :=
  match (s.ctx c).snapshot with
  | none => s
  | some f =>
    if (AL.get [] 4 (s.ctx c).regions).any (fun e => e.1 == d) && !(s.ctx c).snapshotSource f.step &&
        !(decide (f.step = (s.ctx c).committed) && (s.buddy c).isSome) && !s.snapshotReplica c then s.snapshotLost c
    else s

/-- MAPOUT_COPY_COMPLETE (R180, R189): the copy of a readable channel ends, once no granule of it is in doubt; the rebuild of an
unreadable one ends with its last refetch and its entry changes, a snapshot no source rebuilds being lost. -/
def execMapoutCopyComplete (d : Die) (logical : Nat) (s : State) : Host.Outcome State Fault Refusal :=
  .next (
    match s.mem.mapouts.find? (fun m => m.die == d.val && m.logical == logical) with
    | none => s
    | some m =>
      let e := s.chEntry m.die m.logical
      if m.readable then
        match s.badUpset (fun p _ => decide (p = (e.die, e.ch))) with
        | some s' => s'
        | none =>
        { s with mem := { s.mem with mapouts := s.mem.mapouts.map (fun (k : MapOut) =>
          if k.die = d.val ∧ k.logical = logical then { k with copied := true } else k) } }
      else if s.mem.repairs.any (fun r => (s.locAddr r.1).any (fun a => decide (s.logicalOf a = (d.val, logical)))) then s
      else allCtx.foldl (State.snapshotOn d.val) (s.mapSwitch m))

/-- MAPOUT_SWITCH (R189): at the first step boundary after the copy, the map entry changes. -/
def execMapoutSwitch (d : Die) (logical : Nat) (s : State) : Host.Outcome State Fault Refusal :=
  .next (
    match s.mem.mapouts.find? (fun m => m.die == d.val && m.logical == logical && m.copied) with
    | some m => if s.atBoundary then s.mapSwitch m else s
    | none => s)

/-- A channel that fails training, that lane repair cannot restore, or that a command names, is mapped out; one that backs nothing
is fenced (R188). -/
def State.channelFails (s : State) (p : Chan) (readable : Bool) : State :=
  match s.logicalFor p with
  | some l => s.mapoutTrigger l.1 l.2 readable
  | none => s.fenceChan p

/-- A reserve channel that is not being filled (R21, R193): it backs nothing, is not fenced and no map-out fills it. -/
def State.idleReserve (s : State) (p : Chan) : Bool :=
  decide (p.2 < 160) && !s.backing.contains p && !s.mem.fenced.contains p && !s.mem.mapouts.any (fun m => m.target == p)

/-- A channel on which the MSS's commands to the IEEE 1500 ports act (R21): an idle reserve channel, one whose controller is in its
own reset domain for training, or any while no program is loaded. The network refuses a command to any other. -/
def State.outOfService (s : State) (p : Chan) : Bool :=
  s.idleReserve p || s.inReset (.hbm (hbmOf p)) || !s.anyLoaded

/-- DQ lane repair of a channel from its stack's spare lanes, at training or after margining (R168, R188); a channel it does not
restore is mapped out, unreadable. -/
def State.laneRepair (s : State) (d : Nat) (t : ChanTraining) : State :=
  let p : Chan := (d, t.ch)
  if !s.outOfService p then s
  else if t.restored then
    if t.lanes = [] then s else { s with mem := { s.mem with lanes := AL.set p t.lanes s.mem.lanes } }
  else s.channelFails p false

/-- HBM_CONTROLLER_FAULT (R167, R168, R188, R264): a training failure or a hang resets the stack's controller domain; its channels are
trained again, with lane repair, and those that fail are mapped out. -/
def execHbmControllerFault (k : Fin 20) (training : Bool) (channels : List ChanTraining) (s : State) :
    Host.Outcome State Fault Refusal :=
  .next (
    let s := s.enterReset (.hbm k)
    if training then
      (channels.filter (fun t => decide (t.ch < 160) && decide (hbmOf (k.val / 5, t.ch) = k))).foldl (fun (s : State) t =>
        s.laneRepair (k.val / 5) t) s
    else s)

/-- The margins of a run as the MSS log holds them (R194). -/
def marginDetail (m : Margins) : List Nat :=
  m.readEye.flatMap (fun e => [e.1, e.2]) ++ m.writeEye.flatMap (fun e => [e.1, e.2]) ++ [ofSigned 8 m.supply, m.rate, m.refresh]

/-- A margining run's values lie in the sweeps of R194: eyes within the unit interval of 64 steps, the supply within 3 % of nominal,
the rate between 6.4 and 12.8 Gb/s. -/
def marginsOk (m : Margins) : Bool :=
  (m.readEye ++ m.writeEye).all (fun e => decide (e.1 ≤ 64)) && decide (-6 ≤ m.supply) && decide (m.supply ≤ 6) &&
    decide (8 ≤ m.rate) && decide (m.rate ≤ 16)

/-- MARGINING_COMPLETE (R193, R194): the margins are kept and logged and feed the refresh-margin trend, the channel's contents are
gone, lane repair is applied again, and the controller is reset (R264). -/
def execMarginingComplete (d : Die) (ch : Nat) (margins : Margins) (s : State) : Host.Outcome State Fault Refusal :=
  .next (
    if s.mem.margining.contains (d.val, ch) && marginsOk margins then
      let keep (e : Host.Cell) : Bool := decide (s.chanOf e.1 ≠ (d.val, ch))
      let backs := (s.logicalFor (d.val, ch)).isSome
      let s := { s with mem := { s.mem with
        hbm := s.mem.hbm.filter keep, margining := s.mem.margining.filter (fun p => p != (d.val, ch))
        margins := AL.set (d.val, ch) margins s.mem.margins } }
      let s := if backs then s.losePartStripes d.val else s
      let s := s.takeWear (.channel d ch) .refreshMargin margins.refresh
      ((s.enterReset (.hbm (hbmOf (d.val, ch)))).laneRepair d.val { margins.repair with ch := ch }).addLog .event .informational
        .success (d.val :: ch :: marginDetail margins) none
    else s)

/-! ## The regulators (R177–R179) -/

/-- Bytes of one share unit in a window: 1/64 of a die's bandwidth (R177). -/
def shareUnit : Nat := 128000

/-- One turn of a rotation: each partition that still wants bytes gets an equal part of what is left. -/
def shareRound (left : Nat) (want : List Nat) : Nat × List Nat :=
  let n := (want.filter (fun w => decide (0 < w))).length
  let part := if n = 0 then 0 else left / n
  let got := want.map (fun w => min w part)
  (left - got.foldl (· + ·) 0, got)

/-- The last bytes of a window, fewer than the partitions that want them, in the order of the partitions. -/
def shareLast : Nat → List Nat → Nat × List Nat
  | left, [] => (left, [])
  | left, w :: ws =>
    let got := min left w
    let rest := shareLast (left - got) ws
    (rest.1, got :: rest.2)

/-- Partitions served in rotation from `left` bytes: how much each gets (R178; the grain of the rotation is the model's,
log 16). Nothing stays idle while bytes are wanted. -/
def rotate : Nat → Nat → List Nat → Nat × List Nat
  | 0, left, want => shareLast left want
  | n + 1, left, want =>
    let (left', got) := shareRound left want
    let rest := rotate n left' (List.zipWith (· - ·) want got)
    (rest.1, List.zipWith (· + ·) got rest.2)

/-- One window of a die (R177, R178): repair traffic first and uncharged, then floors, then up to the caps, then the rest. The bytes
each partition is served, repair traffic last. -/
def State.windowServe (s : State) (want : List Nat) : List Nat :=
  let floor (p : Nat) : Nat := bitsOf (s.reg (aMemReg p)) 5 0 * shareUnit
  let cap (p : Nat) : Nat := bitsOf (s.reg (aMemReg p)) 14 8 * shareUnit
  let repair := min (want.getD 7 0) (64 * shareUnit)
  let want := want.take 7
  let first := want.zipIdx.map (fun e => min e.1 (floor e.2))
  let a := rotate 8 (64 * shareUnit - repair) first
  let second := want.zipIdx.map (fun e => min e.1 (cap e.2) - a.2.getD e.2 0)
  let b := rotate 8 a.1 second
  let third := want.zipIdx.map (fun e => e.1 - a.2.getD e.2 0 - b.2.getD e.2 0)
  let c := rotate 8 b.1 third
  List.zipWith (· + ·) a.2 (List.zipWith (· + ·) b.2 c.2) ++ [repair]

/-- Requests of a partition served from `left` bytes, oldest first (R178): what each still waits for. -/
def serveRequests : Nat → List Nat → List Nat
  | _, [] => []
  | left, r :: rs => (if r ≤ left then [] else [r - left]) ++ serveRequests (left - r) rs

end Sys2Proof.Machine
end

