-- ==== Sys2Proof/Machine/Banks.lean ====
section
/-! DEFINITION. The commit of a bank of staged registers: snapshot, checks, safe points, what applying a unit does (R104, R172,
R175, R179, R188, R209, R252, R272, R285, R291, R297, R298, R334, R336, R342, R358, R361, R379, R395, R400, R415, R451–R456). -/

namespace Sys2Proof.Machine

/-! ## Values and checks -/

/-- A rule of a bank: it fails, and the registers it involves. -/
abbrev BankRule := Bool × List Nat

/-- The bank a staged register belongs to (R456). -/
def bankOf (a : Nat) : Option Bank := (regInfo a).map (·.bank)

/-- The addresses of a bank that do not hold their reset value in some copy, in increasing order. -/
def Regs.known (r : Regs) (b : Bank) : List Nat :=
  sortBy (fun x y => decide (x ≤ y))
    (((r.staged ++ r.active).map (fun e => e.1)).filter (fun a => decide (bankOf a = some b))).eraseDups

/-- A snapshot of the whole staging copy of a bank (R453 step 1). -/
def Regs.snapshot (r : Regs) (b : Bank) : AL Nat Word := (r.known b).map (fun a => (a, r.stg a))

/-- A value under a snapshot, as a number. -/
def State.under (s : State) (snap : AL Nat Word) (a : Nat) : Nat := (AL.get (s.regs.val a) a snap).toNat

/-- One rule for each member of a list. -/
def eachRule {α : Type} (l : List α) (f : α → BankRule) : List BankRule := l.map f

/-- The hedge's rules that depend on values only (R415): this part's site is empty. -/
def hedgeRules (v : Nat → Nat) : List BankRule :=
  eachRule (List.range 8) (fun n => (bitOf (v (aHedgeWin n)) 0 && bitsOf (v (aHedgeWin n)) 16 7 == 0, [aHedgeWin n])) ++
  eachRule (List.range 8) (fun n => (bitOf (v (aHedgeWin n)) 0 && bitsOf (v (aHedgeWin n)) 31 17 == 0, [aHedgeWin n])) ++
  [(bitOf (v aHedgeCfg) 0, [aHedgeCfg])]

/-- A ring size is allowed (R361). -/
def ringSizeOk (n : Nat) : Bool := decide (16 ≤ n) && decide (n ≤ 65536) && 2 ^ Nat.log2 n == n

/-- The ring bank's rules on values (R361). -/
def ringRules (v : Nat → Nat) : List BankRule :=
  let rings : List (Nat × Nat) := (List.range 17).flatMap (fun c => (List.range 7).map (fun k => (c, k)))
  eachRule rings (fun e => (bitOf (v (aRingCfg e.1 e.2)) 18 && !ringSizeOk (bitsOf (v (aRingCfg e.1 e.2)) 16 0), [aRingCfg e.1 e.2])) ++
  eachRule rings (fun e => (v (aRingBase e.1 e.2) % 4096 != 0, [aRingBase e.1 e.2])) ++
  eachRule (List.range 17) (fun c => (v (aRingDb c) % 64 != 0, [aRingDb c])) ++
  eachRule (List.range 17) (fun c => (v (aRingProg c) % 64 != 0, [aRingProg c])) ++
  eachRule (List.range 7) (fun k => (k != 5 && bitOf (v (aRingCfg 16 k)) 18, [aRingCfg 16 k]))

/-- The partition map's rules on values (R175). -/
def partRules (v : Nat → Nat) : List BankRule :=
  let range (d p : Nat) : Nat × Nat := (bitsOf (v (aPartBase d p)) 17 0, bitsOf (v (aPartSize d p)) 17 0)
  let count (d : Nat) : Nat := bitsOf (v (aPartResv d)) 7 0
  let pairs : List (Nat × Nat × Nat) := (List.range 4).flatMap (fun d => (List.range 7).flatMap (fun p => (List.range p).map (fun q => (d, q, p))))
  let clash (e : Nat × Nat × Nat) : Bool :=
    let a := range e.1 e.2.1
    let b := range e.1 e.2.2
    decide (0 < a.2) && decide (0 < b.2) && decide (a.1 < b.1 + b.2) && decide (b.1 < a.1 + a.2)
  let ranges : List (Nat × Nat) := (List.range 4).flatMap (fun d => (List.range 7).map (fun p => (d, p)))
  eachRule pairs (fun e => (clash e, [aPartBase e.1 e.2.1, aPartSize e.1 e.2.1, aPartBase e.1 e.2.2, aPartSize e.1 e.2.2])) ++
  eachRule ranges (fun e => (decide ((160 - count e.1) * 1024 < (range e.1 e.2).1 + (range e.1 e.2).2),
    [aPartBase e.1 e.2, aPartSize e.1 e.2, aPartResv e.1])) ++
  eachRule (List.range 4) (fun d => (decide (64 < count d), [aPartResv d])) ++
  [(decide (((List.range 4).map count).foldl (· + ·) 0 < 16), (List.range 4).map aPartResv),
   ((List.range 4).all (fun d => (range d 6).2 == 0), (List.range 4).map (fun d => aPartSize d 6))]

/-- The wiring plan's rules (R334). -/
def planRules (v : Nat → Nat) : List BankRule :=
  let role (n : Nat) : Nat := bitsOf (v (aPlanPort n)) 1 0
  let used (n : Nat) : Bool := role n == 1 || role n == 2
  let peer (n : Nat) : Nat × Nat := (bitsOf (v (aPlanPort n)) 19 8, bitsOf (v (aPlanPort n)) 7 2)
  let self := bitsOf (v aPlanSelf) 11 0
  eachRule (List.range 40) (fun n => (used n && (peer n).1 == self, [aPlanPort n, aPlanSelf])) ++
  eachRule (List.range 40) (fun n => (decide (39 < (peer n).2), [aPlanPort n])) ++
  eachRule ((List.range 40).flatMap (fun n => (List.range n).map (fun m => (m, n))))
    (fun e => (used e.1 && used e.2 && peer e.1 == peer e.2, [aPlanPort e.1, aPlanPort e.2]))

/-- The routing tables' rules (R342): `known` are the entries a copy names. -/
def rtRules (v : Nat → Nat) (known : List Nat) : List BankRule :=
  let valid (t : Nat) : Bool := bitOf (v (aRtTable t)) 16
  let clr (t : Nat) : Nat := bitsOf (v (aRtTable t)) 11 0
  let badPort (p : Nat) : Bool := decide (39 < p) && p != 63
  eachRule ctxTables (fun t => (valid t && clr t == 0, [aRtTable t])) ++
  eachRule ((List.range 17).flatMap (fun t => (List.range t).map (fun u => (u, t))))
    (fun e => (valid e.1 && valid e.2 && clr e.1 == clr e.2, [aRtTable e.1, aRtTable e.2])) ++
  eachRule (known.filter (fun a => decide (0x40000 ≤ offsetOf a)))
    (fun a => (badPort (bitsOf (v a) 5 0) || badPort (bitsOf (v a) 13 8), [a]))

/-- The rules of a bank that depend on values only (R453 step 2), in the order of the rules that lay them down. -/
def valueRules (b : Bank) (v : Nat → Nat) (known : List Nat) : List BankRule :=
  let ctxs := List.range 16
  match b with
  | .hubHedge => hedgeRules v
  | .cpCtx => []
  | .cpStep => eachRule ctxs (fun c => (bitsOf (v (aStepPol c)) 3 0 == 0, [aStepPol c]))
  | .cxlPri => [(bitsOf (v aPriCfg) 31 16 == 0, [aPriCfg])]
  | .ring => ringRules v
  | .memPart => partRules v
  | .memReg =>
    let cap (p : Nat) : Nat := bitsOf (v (aMemReg p)) 14 8
    let floor (p : Nat) : Nat := bitsOf (v (aMemReg p)) 5 0
    eachRule (List.range 7) (fun p => (cap p == 0 || decide (64 < cap p), [aMemReg p])) ++
    eachRule (List.range 7) (fun p => (decide (cap p < floor p), [aMemReg p])) ++
    [(decide (64 < ((List.range 7).map floor).foldl (· + ·) 0), (List.range 7).map aMemReg)]
  | .memPol => [(bitsOf (v aMapout) 3 0 == 0, [aMapout])]
  | .coreRbatch =>
    eachRule ctxs (fun c => (bitsOf (v (aRbatch c)) 12 0 == 0 || decide (4096 < bitsOf (v (aRbatch c)) 12 0), [aRbatch c]))
  | .coreFt => [(bitsOf (v aFtPol) 15 8 == 0, [aFtPol]), (bitsOf (v aFtPol) 31 24 == 0, [aFtPol])]
  | .linkPlan => planRules v
  | .linkPol => [(decide (100 < bitsOf (v aLinkPol) 22 16), [aLinkPol])]
  | .linkTmo => [(bitsOf (v aPeerTmo) 7 0 == 0, [aPeerTmo])]
  | .rt => rtRules v known
  | .ckpt => [(decide (bitsOf (v aCkptCfg) 3 0 < 2), [aCkptCfg]), (bitsOf (v aCkptCfg) 15 4 == 0, [aCkptCfg])]
  | .mssEol => [(bitsOf (v aEolPol) 7 0 == 0, [aEolPol]), (bitsOf (v aEolPol) 15 8 == 0, [aEolPol])]
  | .mssSap => [(bitsOf (v aSapCfg) 15 0 == 0, [aSapCfg]), (bitsOf (v aSapCfg) 19 16 == 0, [aSapCfg])]
  | .pwr =>
    let lim := bitsOf (v aPwrLimit) 11 0
    let brk := bitsOf (v aPwrLimit) 23 12
    [(decide (lim < 1000) || decide (2400 < lim), [aPwrLimit]), (decide (brk < 1000) || decide (lim < brk), [aPwrLimit])]

/-- Physical channels of die d that are usable (R172): neither fenced nor backing a logical channel of another die. -/
def State.usableChans (s : State) (d : Nat) : List Nat :=
  let others := (List.range 4).flatMap (fun e => if e = d then [] else
    (List.range (s.chanCount e)).map (fun i => ((s.chEntry e i).die, (s.chEntry e i).ch)))
  (List.range 160).filter (fun ch => !s.mem.fenced.contains (d, ch) && !others.contains (d, ch))

/-- A device page of a context as its table maps it (R185): VALID and WRITE, and the partition. -/
def Ctx.pageBits (x : Ctx) (page : Nat) : Nat := (AL.get 0 page x.pages).toNat

/-- The rules of a unit that depend on the module's state (R453 step 3). -/
def State.stateRules (s : State) (b : Bank) (u : Nat) (v : Nat → Nat) : List BankRule :=
  match b with
  | .cpCtx =>
    let on := bitOf (v (aCtxCfg u)) 0
    [(!on && (s.ctx (Fin.ofNat 16 u)).loaded, [aCtxCfg u]), (on && s.mss.profile.isNone, [aCtxCfg u])]
  | .ring =>
    let c := u / 7
    let k := u % 7
    let held := decide (c < 16) && s.ringOn (Fin.ofNat 17 c) k && (s.ctx (Fin.ofNat 16 c)).loaded
    [(held && (v (aRingBase c k) != s.reg (aRingBase c k) || v (aRingBase c k + 4) != s.reg (aRingBase c k + 4) ||
      bitsOf (v (aRingCfg c k)) 16 0 != s.ringSize (Fin.ofNat 17 c) k), [aRingBase c k, aRingBase c k + 4, aRingCfg c k])]
  | .memPart =>
    eachRule (List.range 4) (fun d =>
      (v (aPartResv d) != s.reg (aPartResv d) && decide ((s.usableChans d).length < 160 - bitsOf (v (aPartResv d)) 7 0), [aPartResv d]))
  | .hubHedge =>
    let pages (n : Nat) : List Nat := (List.range (bitsOf (v (aHedgeWin n)) 16 7)).map (fun i => bitsOf (v (aHedgeBase n)) 19 0 + i)
    let x (n : Nat) : Ctx := s.ctx (Fin.ofNat 16 (bitsOf (v (aHedgeWin n)) 6 3))
    let on (n : Nat) : Bool := bitOf (v (aHedgeWin n)) 0
    eachRule (List.range 8) (fun n =>
      (on n && (pages n).any (fun p => !bitOf ((x n).pageBits p) 0 || bitsOf ((x n).pageBits p) 5 3 != 6), [aHedgeBase n, aHedgeWin n])) ++
    eachRule (List.range 8) (fun n =>
      (on n && bitOf (v (aHedgeWin n)) 1 && (pages n).any (fun p => bitOf ((x n).pageBits p) 2), [aHedgeBase n, aHedgeWin n]))
  | _ => []

/-! ## Safe points (R456) -/

/-- A bank cannot act: its plane is in reset, or the module sleeps (R458, R459). -/
def State.bankWaits (s : State) (b : Bank) : Bool :=
  (match b with
    | .cpCtx | .cpStep => s.inReset .cp
    | .mssEol | .mssSap => s.inReset .mss || s.hub.mssLost
    | _ => false) || decide (s.hub.power = .asleep) || decide (s.hub.power = .dormant)

/-- A commit given after a profile selection that still waits applies after the profile (R455). -/
def State.behindProfile (s : State) (b : Bank) : Bool :=
  (s.regs.bank b).afterSel && s.mss.selecting.isSome && profileBanks.contains b

/-- The safe point of a unit (R456), as far as the state shows it: the boundaries themselves are the command. -/
def State.safePoint (s : State) (b : Bank) (u : Nat) : Bool :=
  !s.bankWaits b && !s.behindProfile b &&
  (match b with
    | .hubHedge => s.guest.outstanding == 0
    | .cpCtx =>
      let r := s.ring (Fin.ofNat 17 u)
      r.step.flow.isEmpty && r.service.flow.isEmpty
    | .cpStep => (s.ctx (Fin.ofNat 16 u)).steps.isEmpty
    | .ring => !(s.cxl.a.inflight ++ s.cxl.b.inflight).any (fun w => w.set == u / 7 && w.kind == u % 7)
    | .memPart => !s.anyLoaded
    | .coreRbatch => (s.ctx (Fin.ofNat 16 u)).batch.isNone
    | .ckpt => if u = 16 then allCtx.all (fun c => !(s.ctx c).draining) else !(s.ctx (Fin.ofNat 16 u)).copying
    | _ => true)

/-- Banks that apply at once (R456). -/
def atOnce : Bank → Bool
  | .cxlPri | .memPol | .linkPlan => true
  | _ => false

/-! ## What applying does -/

/-- The channel map as a changed reserve count leaves it (R172): `old` and `new` are A_d. -/
def State.resizeMap (s : State) (d old new : Nat) : State :=
  if new ≤ old then
    { s with mem := { s.mem with chmap := List.filter (fun (e : Chan × ChEntry) => !(e.1.1 == d && decide (new ≤ e.1.2))) s.mem.chmap } }
  else
    ((List.range (new - old)).map (· + old)).foldl (fun (s : State) i =>
      let mine := (List.range i).map (fun j => ((s.chEntry d j).die, (s.chEntry d j).ch))
      match (s.usableChans d).find? (fun ch => !mine.contains (d, ch)) with
      | some ch => { s with mem := { s.mem with chmap := AL.set (d, i) ⟨d, ch, ch != i⟩ s.mem.chmap } }
      | none => s) s

/-- A port whose plan entry changed goes through bring-up again (R334). -/
def State.replan (s : State) (p : PortId) : State :=
  let s := if s.isActive p then s.moveTraffic p else s
  (s.updPort p (fun x => { x with
    state := 0, attempts := 0, stage := none, accept := false, holdOff := false, lit := false })).enterReset (.port p)

/-- What a bank's values do as they apply, beyond their value: `s0` is the state before. -/
def State.applied (s0 s : State) (b : Bank) : State :=
  match b with
  | .memPart =>
    let t := (List.range 4).foldl (fun (s : State) d =>
      if s.reg (aPartResv d) = s0.reg (aPartResv d) then s else s.resizeMap d (s0.chanCount d) (s.chanCount d)) s
    s0.reserveLow t
  | .memPol =>
    s.mem.hardFaults.foldl (fun (s : State) (e : Chan × List Nat) =>
      if bitsOf (s.reg aMapout) 3 0 ≤ e.2.length then
        match s.logicalFor e.1 with
        | some l => s.mapoutTrigger l.1 l.2 true
        | none => s
      else s) s
  | .linkPlan =>
    let s := (allPorts.filter (fun p => s.reg (aPlanPort p.val) != s0.reg (aPlanPort p.val))).foldl State.replan s
    if s.phys = s0.phys then s else s.beaconAll
  | .linkPol =>
    (allPorts.filter (fun p => decide (2 ≤ (s.port p).state) && decide ((s.port p).state ≤ 4))).foldl (fun (s : State) p =>
      match (s.port p).beacon with
      | some e => s.compareBeacon p e
      | none => s) s
  | _ => s

/-! ## Commits (R453, R454) -/

/-- The block offset charged with a refusal (R453): of the registers the failing rule involves, the lowest the commit
changed, else the lowest. -/
def chargedOffset (changed : List Nat) (r : BankRule) : Nat :=
  let lowest (l : List Nat) : Nat := match l with
    | [] => 0
    | a :: as => as.foldl min a
  match r.2.filter (fun a => changed.contains a) with
  | [] => offsetOf (lowest r.2)
  | l => offsetOf (lowest l)

/-- Registers of a snapshot whose values are not the active ones. -/
def State.changedBy (s : State) (snap : AL Nat Word) : List Nat :=
  (snap.filter (fun e => decide (e.2 ≠ s.regs.val e.1))).map (fun e => e.1)

/-- Units a snapshot changes (R453 step 4). -/
def State.unitsOf (s : State) (snap : AL Nat Word) : List Nat :=
  ((s.changedBy snap).filterMap (fun a => (regInfo a).map (·.unit))).eraseDups

/-- A bank's control changed. -/
def State.updBank (s : State) (b : Bank) (f : BankCtl → BankCtl) : State := { s with regs := s.regs.updBank b f }

/-- A commit is refused (R453). -/
def State.refuseBank (s : State) (b : Bank) (snap : AL Nat Word) (r : BankRule) : State :=
  let off := chargedOffset (s.changedBy snap) r
  (s.updBank b (fun k => { k with state := 3, fault := off, pending := none })).event moduleSet .bankInvalid (.bank b off)

/-- A ring that a failover moved returns to its preferred port (R377). -/
def State.homeRing (s : State) (u : Nat) : State :=
  s.updRing (Fin.ofNat 17 (u / 7)) (fun r => { r with movedTo := AL.del (u % 7) r.movedTo })

/-- One unit of a pending commit at its safe point: its state rules are checked, then its values apply in one step; when
the last unit has, STATE becomes 2 (R453). -/
def State.applyUnit (s : State) (b : Bank) (u : Nat) : State :=
  match (s.regs.bank b).pending with
  | none => s
  | some (snap, units) =>
    if !units.contains u then s
    else
      match (s.stateRules b u (s.under snap)).find? (fun r => r.1) with
      | some r => s.refuseBank b snap r
      | none =>
        let mine := snap.filter (fun e => decide ((regInfo e.1).map (·.unit) = some u))
        let left := units.filter (fun w => w != u)
        let s' := { s with regs := { s.regs with active := mine.foldl (fun (m : AL Nat Word) (e : Nat × Word) => AL.set e.1 e.2 m) s.regs.active } }
        let s' := s'.updBank b (fun k => if left.isEmpty then { k with state := 2, pending := none } else { k with pending := some (snap, left) })
        let s' := if b = .ring then s'.homeRing u else s'
        s.applied s' b

/-- GO of a bank (R453, R454): snapshot, value check, and the units that need no safe point. A RING commit brings a ring it
leaves as it is home at once (R377). -/
def State.commitGo (s : State) (b : Bank) (tag : Nat) : State :=
  let snap := s.regs.snapshot b
  let s := s.updBank b (fun k => { k with
    tag := tag % 65536, superseded := k.superseded || k.pending.isSome, pending := none, afterSel := s.mss.selecting.isSome })
  match (valueRules b (s.under snap) (s.regs.known b)).find? (fun r => r.1) with
  | some r => s.refuseBank b snap r
  | none =>
    let units := s.unitsOf snap
    let s := s.updBank b (fun k => if units.isEmpty then { k with state := 2 } else { k with state := 1, pending := some (snap, units) })
    let s := if b = .ring then ((List.range 119).filter (fun u => !units.contains u)).foldl State.homeRing s else s
    if atOnce b && !s.bankWaits b && !s.behindProfile b then units.foldl (fun (s : State) u => s.applyUnit b u) s else s

/-- DISCARD of a bank (R452): the staging copy is reloaded from the active values; a pending snapshot stays (R454). -/
def State.discardStaged (s : State) (b : Bank) : State :=
  { s with regs := { s.regs with staged := List.filter (fun (e : Nat × Word) => decide (bankOf e.1 ≠ some b)) s.regs.staged } }

/-- The safe point of a unit arrives: a pending commit of it applies (R453 step 3, R456). -/
def State.reachPoint (s : State) (b : Bank) (unit : Nat) : State := if s.safePoint b unit then s.applyUnit b unit else s

/-- BANK_SAFE_POINT_APPLY (R453 step 3, R456): the safe point of a unit of a pending commit arrives. Commands that are a safe point
themselves (a window, an evaluation, a step or a batch that takes effect) call `reachPoint` of their own. -/
def execBankSafePointApply (b : Bank) (unit : Nat) (s : State) : Host.Outcome State Fault Refusal :=
  .next (s.reachPoint b unit)

/-- REGULATOR_WINDOW (R177–R179): a pending commit of the regulators applies at the window's boundary; the shares of every die are renewed and its requests, those that waited first and then the
window's new ones, are served; what a window does not serve waits. -/
def execRegulatorWindow (demand : List (Nat × Nat × Nat)) (s : State) : Host.Outcome State Fault Refusal :=
  .next (
    let s := s.reachPoint .memReg 0
    let all := s.mem.waiting ++ demand
    let mine (d p : Nat) : List Nat := (all.filter (fun e => e.1 == d && e.2.1 == p)).map (fun e => e.2.2)
    let got (d : Nat) : List Nat := s.windowServe ((List.range 8).map (fun p => (mine d p).foldl (· + ·) 0))
    let each (d : Nat) : List ((Nat × Nat) × Nat) := (got d).zipIdx.map (fun e => ((d, e.2), e.1))
    let served := (List.range 4).flatMap each
    { s with mem := { s.mem with
      served := served
      waiting := served.flatMap (fun e => (serveRequests e.2 (mine e.1.1 e.1.2)).map (fun r => (e.1.1, e.1.2, r))) } })

end Sys2Proof.Machine
end

