-- ==== Sys2Proof/Machine/StepLife.lean ====
section
/-! DEFINITION. The life of a step: taking effect, forward, voting, decision, acknowledgement, retention (R195–R212). -/

namespace Sys2Proof.Machine

/-! ## STEP (R195–R197) -/

/-- The conditions of R195 beyond the order of the ring: step N − 2 committed, with its deferred writes
done (R202 action 7) and no completion waiting for a full ring (R372), a ledger record free, the context not pre-empted; and nothing else that holds the context's own steps (R207, R223, R281, R282, R294). -/
def State.admits (s : State) (c : CtxId) : Bool :=
  let x := s.ctx c
  decide (x.steps.length < 2) && x.heldCommits.isEmpty && x.commitWait.isEmpty && decide (x.ledger.length < 16) &&
    !x.paused && !x.ackWait && x.replaying.isNone && x.switching.isNone && x.restoring.isNone && !x.waitSpare &&
    (match x.swapAfter with
      | some e => decide (x.committed + x.steps.length < e.2)
      | none => true)

/-- A STEP takes effect (R197): the copies are held, the reference on version N − 1 is taken, the attempt is numbered, a
ledger record is allocated, and the takeover record goes to the buddy. -/
def State.stepEffect (s : State) (c : CtxId) (q : QDesc) (batch : Fetch (List (List Byte))) : State :=
  let x := s.ctx c
  let n := dStep q.bytes
  let attempt := match AL.find? n x.attempts with
    | some a => (a + 1) % 256
    | none => 0
  let data := match batch with
    | .data b => b
    | .noPage _ _ => []
  let t := { newStep n attempt q data (x.streamsFrom x.steps) with
    causes := AL.get [] n x.causesOf
    batchWait := match batch with
    | .data _ => false
    | .noPage _ _ => true }
  let s := s.takeEffect c .step q
  let t := t.takeEarly x.early
  let s := s.updCtx c (fun x => (({ x with
    early := x.early.filter (fun e => decide (n < e.1))
    steps := x.steps ++ [t], attempts := AL.set n attempt x.attempts, lastUpd := some q.upd, fresh := false
    ledger := x.ledger ++ [(⟨n, none⟩ : LedgerRec)] } : Ctx).addReader (n - 1)).startOldest)
  let s := match batch with
    | .data _ => s.hostAccess c (dDataAddr q.bytes)
    | .noPage off got => s.fetchStops c (.stepBatch n) off got
  let s := s.feed c (.stepInputs n q.bytes data q.upd)
  (s.zeroLanes.placeStep c n).send (.takeoverRecord c (takeoverRec (s.ring (setOf c)) t))

/-- The batch of a step whose fetch had waited arrives: after a page (R380, R381), or on a spare that has taken the step
over, where it must have the CRC-64 list of the takeover record (R279 step 7). -/
def State.fillBatch (s : State) (c : CtxId) (b : List (List Byte)) : State :=
  match (s.ctx c).steps.find? (fun t => t.batchWait) with
  | none => s
  | some t =>
    let b := (s.ctx c).wholeBlocks (.stepBatch t.number) 2097152 b
    let s := s.updCtx c (fun x => x.endTransfer (.stepBatch t.number))
    let bad := !t.batchCrcs.isEmpty && t.batchCrcs != b.map crc64
    let s := s.updStep c t.number (fun t => { t with batchWait := false, batch := b, batchCrcs := b.map crc64 })
    if bad then s.stopStep c t.number .batchRefetchMismatch else s.feed c (.stepInputs t.number t.desc.bytes b t.upd)

/-- A batch fetch of the context waits for a page still. -/
def State.batchPending (s : State) (c : CtxId) : Bool :=
  s.cxl.pris.any (fun e => decide (e.2.ctx = c) && (match e.2.what with
    | .stepBatch _ => true
    | _ => false))

/-- STEP (R195, R196): the STEP at the head of its ring takes effect once R195 holds; a number that is not the committed
version plus the provisional steps plus 1 stops the ring. It is the boundary a pending commit of the context's registers
waits for (R209, R297). A second call with data for a step whose fetch waited ends the
wait. -/
def execStep (c : CtxId) (batch : Fetch (List (List Byte))) (s : State) : Host.Outcome State Fault Refusal :=
  .next (
    match s.headOf c .step .step with
    | some q =>
      if s.admits c then
        let x := s.ctx c
        if dStep q.bytes ≠ x.committed + x.steps.length + 1 then s.stopHead c .step q .stepSequence 0
        else ((s.reachPoint .cpStep c.val).reachPoint .ckpt c.val).stepEffect c q batch
      else s
    | none =>
      match batch with
      | .data b => if s.batchPending c then s else s.fillBatch c b
      | .noPage _ _ => s)

/-! ## Forward -/

/-- Provisional metric writes of a step land at once while METRICS is 1 with their headers (R221, R475); here, as its forward pass completes
(DESIGN CHOICE, log 13). -/
def State.metrics (s : State) (c : CtxId) (t : Step) : State :=
  let ws := ((s.ctx c).prog.map (·.metricWrites)).getD []
  if bitOf (s.reg (aStepPol c.val)) 5 && !t.replay then
    ws.foldl (fun s w =>
      let addr := dHostOut t.desc.bytes + w.1
      let s := s.hostWrite c t.number addr (16 + w.2)
      { s with out := { s.out with metrics := (c, addr, metricHeader t.number t.attempt w.2) :: s.out.metrics } }) s
  else s

/-- The narrow outputs a step has written so far are all sealed (R68, R128). -/
def Step.sealedAll (t : Step) : Bool :=
  t.outTiles.all (fun e => match recAt t.records e.1.1 e.1.2.1 with
    | some r => r.sealed || !((recFmt r).map Fmt.isNarrow).getD false
    | none => true)

/-- STEP_FORWARD_COMPLETE (R128, R198): every micro-batch of the oldest step in FORWARD has completed forward: no forward pass
of it is outstanding on any core, and its outputs are sealed. -/
def execStepForwardComplete (c : CtxId) (s : State) : Host.Outcome State Fault Refusal :=
  .next (
    let x := s.ctx c
    match x.steps.find? (fun t => decide (t.state = .forward)) with
    | none => s
    | some t =>
      if t.batchWait || !s.noneLeft c t.number (fun o => !o.backward && !o.regrow) || !t.sealedAll || x.steps.any (fun u => decide (u.number < t.number) &&
          (decide (u.state = .backward) || decide (u.state = .update))) then s
      else (s.metrics c t).updStep c t.number (fun t => { t with state := .backward }))

/-- NEXT_STEP_FORWARD_START (R152, R166): the forward operations of step N + 1 for a layer begin once the update of step N has
written every tensor of that layer; the update writes the layers in increasing order, and they begin in it. -/
def execNextStepForwardStart (c : CtxId) (layer : Nat) (s : State) : Host.Outcome State Fault Refusal :=
  .next (
    match (s.ctx c).steps with
    | [t, u] =>
      if t.layersReady.contains layer && decide (u.state = .forward) &&
          t.layersReady.all (fun l => decide (layer ≤ l) || u.forwardLayers.contains l) then
        s.updStep c u.number (fun u =>
          let u := u.start (s.ctx c).rescales t.records
          { u with forwardLayers := if u.forwardLayers.contains layer then u.forwardLayers else u.forwardLayers ++ [layer] })
      else s
    | _ => s)

/-! ## Voting and decision -/

/-- A refetch of data of the step's own gradient slices is outstanding: its Parity and tags class is not resolved (R181, R199). -/
def State.repairsOwed (s : State) (c : CtxId) : Bool :=
  s.mem.repairs.any (fun r => match r.1 with
    | .workSlice d _ | .workRecvSlice d _ => decide (d = c)
    | _ => false)

/-- Every local check class of a step is clean: nothing outstanding, both digest comparisons made (R199). -/
def Step.allClean (t : Step) : Bool :=
  decide (t.state = .checking) && !t.dirty && t.outstanding == 0 && t.ownCompared && t.mirCompared

/-- LOCAL_RESULT_KNOWN (R198–R200): the step goes from CHECKING to VOTING with a clean vote. -/
def execLocalResultKnown (c : CtxId) (step : Nat) (s : State) : Host.Outcome State Fault Refusal :=
  .next (
    match (s.ctx c).stepNo step with
    | some t => if t.allClean && !s.repairsOwed c then (s.updStep c step (fun t => { t with state := .voting })).castVotes c else s
    | none => s)

/-- VOTE_REDUCED (R201): the reduced mask of a step that has voted; decisions follow in step order while the command
processor runs (R22); a commit is a step boundary for what waits for one (R286). -/
def execVoteReduced (c : CtxId) (tag : StepTag) (mask : Word) (duration : Nat) (noPage : List Bool) (s : State) :
    Host.Outcome State Fault Refusal :=
  .next (s.inEpoch c tag.epoch (
    let step := tag.step
    match (s.ctx c).stepNo step with
    | some t =>
      if t.voted.isSome && t.reduced.isNone && decide (t.state = .voting) then
        let s := s.updStep c step (fun t => { t with reduced := some mask, duration := duration })
        if s.inReset .cp then s
        else
          let s' := State.decideSteps c step noPage 2 s
          if (s'.ctx c).committed = (s.ctx c).committed then s' else { s' with cores := { s'.cores with boundary := true } }.eolBoundary
      else s
    | none => s))

/-- ROLLBACK_ACK_COMPLETE (R207): the acknowledgement all-reduce completes; discarded steps are re-executed, or wait for
a spare (R281), a takeover (R279) or the rebuild of an unreadable channel (R189). -/
def execRollbackAckComplete (c : CtxId) (s : State) : Host.Outcome State Fault Refusal :=
  .next (
    let x := s.ctx c
    if x.ackWait && !x.waitSpare && x.takeoverOf.isEmpty && s.mem.mapouts.all (fun m => m.readable) then s.reexecute c else s)

/-- KEEP_COPY_COMPLETE (R212): the RETAINED slot whose copy began first is in keep, over the oldest version when r are held; the slot becomes
FREE. -/
def execKeepCopyComplete (c : CtxId) (s : State) : Host.Outcome State Fault Refusal :=
  .next (
    match (s.ctx c).keepCopy with
    | [] => s
    | i :: rest =>
      match s.badUpset (fun _ l => match l with
        | .live d j _ => decide (d = c) && decide (j = i)
        | _ => false) with
      | some s' => s'
      | none =>
      let bytes := 2097152 * (((s.ctx c).prog.map (fun p => p.slotUnits)).getD 0)
      ((s.chargePart c 0 bytes).chargePart c 1 bytes).updCtx c (fun x =>
        let t := AL.get {} i x.live
        let held := if x.keep.length < s.retention then x.keep else x.keep.drop (x.keep.length + 1 - s.retention)
        { x with
          keep := held ++ [(t.version, t.data)], keepCopy := rest
          live := AL.set i { t with state := .free, readers := t.readers - 1 } x.live }))

end Sys2Proof.Machine
end

