-- ==== Sys2Proof/Machine/Pause.lean ====
section
/-! DEFINITION. Rollout batches forming, the pause of a context, saved core state and page requests (R104, R105, R358, R371,
R378–R385). -/

namespace Sys2Proof.Machine

/-! ## Rollout batches (R104, R105) -/

/-- The open batch dispatches: it joins those that execute, in dispatch order; while the context is pre-empted it waits to be the
first at its resume (R105 rules 7, 8). -/
def Ctx.dispatch (x : Ctx) : Ctx :=
  match x.batch with
  | some b =>
    if x.paused then { x with lateBatches := x.lateBatches ++ [b], batch := none }
    else { x with batches := x.batches ++ [b], batch := none }
  | none => x

/-- A request enters an empty batch: it opens with the registers' present values, and dispatches at once when it reaches
TARGET or WINDOW_US is 0 (R104, R105 rules 2, 3, 5). -/
def Ctx.openBatch (x : Ctx) (target window now rows : Nat) (r : BitVec 32 × Nat × Nat) : Ctx :=
  let x := { x with batch := some ⟨rows, [r], target, window, now⟩ }
  if target ≤ rows ∨ window = 0 then x.dispatch else x

/-- A request enters (R105): it joins the open batch, or dispatches it and opens the next. -/
def Ctx.enter (x : Ctx) (target window now rows : Nat) (r : BitVec 32 × Nat × Nat) : Ctx :=
  match x.batch with
  | none => x.openBatch target window now rows r
  | some b =>
    if b.target < b.rows + rows then x.dispatch.openBatch target window now rows r
    else
      let x := { x with batch := some { b with rows := b.rows + rows, reqs := b.reqs ++ [r] } }
      if b.rows + rows = b.target then x.dispatch else x

/-! ## Pause and resume (R358, R382, R385) -/

/-- The passes of the batch that executes become outstanding, for a context that runs a batch (R105, R489). -/
def State.placeBatch (s : State) (c : CtxId) : State := if (s.ctx c).batches.isEmpty then s else s.placeStep c 0

/-- The context runs on once no source is set: saved core state is restored, and the batches dispatched meanwhile come first (R105
rule 8, R382, R385). -/
def State.resumeIf (s : State) (c : CtxId) : State :=
  let x := s.ctx c
  if x.paused then s
  else
    let s := if x.saved then s.restoreCores c else s
    let s := s.updCtx c (fun x => { x with saved := false, resumedAt := some s.now, batches := x.batches ++ x.lateBatches, lateBatches := [] })
    if x.batches.isEmpty then s.placeBatch c else s

/-- A pause source of this module cleared: RESUME goes out when it was the last (R382). -/
def State.clearPause (s : State) (c : CtxId) (f : Ctx → Ctx) : State :=
  let x := s.ctx c
  let s' := s.updCtx c f
  let s' := if (x.pauseHost || x.pausePage) && !((s'.ctx c).pauseHost || (s'.ctx c).pausePage) then s'.send (.pause c s.ident false)
    else s'
  s'.resumeIf c

/-- PAUSE of CP_CTX_CTL_c: bit [0] without bit [1] sets the host source (R358). -/
def execPause (c : CtxId) (w : Word) (s : State) : Host.Outcome State Fault Refusal :=
  .next (if s.barTakes (aCtxCfg c.val + 4) && bitOf w.toNat 0 && !bitOf w.toNat 1 then s.setPause c (fun x => { x with pauseHost := true }) else s)

/-- RESUME of CP_CTX_CTL_c: bit [1] without bit [0] clears the host source (R358). -/
def execResume (c : CtxId) (w : Word) (s : State) : Host.Outcome State Fault Refusal :=
  .next (if s.barTakes (aCtxCfg c.val + 4) && bitOf w.toNat 1 && !bitOf w.toNat 0 then s.clearPause c (fun x => { x with pauseHost := false }) else s)

/-- PAUSE_RESUME_MESSAGE (R382): a PAUSE or RESUME of another module reaches this one; a steward distributes it. -/
def execPauseResumeMessage (c : CtxId) (src : ModNo) (pause : Bool) (s : State) : Host.Outcome State Fault Refusal :=
  .next (
    let s := if s.isSteward c then s.send (.pause c src.val pause) else s
    if pause then
      s.updCtx c (fun x =>
        { x with pausePeers := if x.pausePeers.contains src.val then x.pausePeers else x.pausePeers ++ [src.val] })
    else
      (s.updCtx c (fun x => { x with pausePeers := x.pausePeers.filter (fun m => m != src.val) })).resumeIf c)

/-- CORE_STATE_SAVE (R101, R385): at a pass boundary the core state of a paused context goes to its save area. -/
def execCoreStateSave (c : CtxId) (s : State) : Host.Outcome State Fault Refusal :=
  .next (
    let x := s.ctx c
    let busy := s.cores.tbl.any (fun e => e.2.mx.running.any (fun p => decide (p.ctx = c)))
    if x.paused && x.loaded && !x.saved && !busy then (s.saveCores c).updCtx c (fun x => { x with saved := true }) else s)

/-! ## Page requests (R378–R384) -/

/-- The deferred write that waited is done or abandoned: the writes behind it and the commits behind that go on (R202, R221,
R383). -/
def State.writeSettled (s : State) (c : CtxId) (n : Nat) (failed : Bool) : State :=
  let settle (h : HeldCommit) : HeldCommit :=
    if h.step = n then
      { h with todo := h.todo.drop 1, cpl := if failed then { h.cpl with status := .hostWriteFault } else h.cpl }
    else h
  s.runHeld c ((s.ctx c).heldCommits.map settle)

/-- The outcome of a failed page request, by the access (R383). -/
def State.pageFail (s : State) (r : PageReq) (st : Status) : State :=
  let c := r.ctx
  let s := s.updCtx c (fun x => x.endTransfer r.what)
  match r.what with
  | .stepBatch n => s.stopStep c n st
  | .updateRec desc =>
    let u := (s.ring (setOf c)).step
    let q : QDesc := ⟨u.consumer, .step, desc, (s.ctx c).lastUpd.getD {}⟩
    if s.admits c && dStep desc == (s.ctx c).committed + (s.ctx c).steps.length + 1 then
      (s.stepEffect c q (.data [])).stopStep c (dStep desc) st
    else s.stopHead c .step q st 0
  | .descData =>
    match (s.ring (setOf c)).step.head with
    | some q => s.stopHead c .step q st 0
    | none => s
  | .deferredWrite n _ _ => s.writeSettled c n true
  | .generateOut ix _ _ =>
    let tag := (((s.ring (setOf c)).step.flow.find? (fun f => f.index == ix)).map (·.userTag)).getD 0
    s.finishDone c .step ix tag 0 .hostWriteFault 0
  | .metric => s
  | .ringLine => s.failContext c

/-- A page request resumed: its transfer goes on from its saved offset (R380, R381). -/
def State.pageResume (s : State) (r : PageReq) : State :=
  let c := r.ctx
  match r.what with
  | .deferredWrite n addr len => (s.hostWrite c n addr len).writeSettled c n false
  | .generateOut ix addr len =>
    let tag := (((s.ring (setOf c)).step.flow.find? (fun f => f.index == ix)).map (·.userTag)).getD 0
    let s := s.hostWrite c ix.toNat addr len
    s.finishDone c .step ix tag 0 .success 0
  | _ => s

/-- A page request leaves the list; its context's page source clears when no other request keeps it set. -/
def State.dropPage (s : State) (id : Nat) (r : PageReq) : State :=
  let s := { s with cxl := { s.cxl with pris := AL.del id s.cxl.pris } }
  let keep := s.cxl.pris.any (fun e => decide (e.2.ctx = r.ctx) && e.2.paused)
  if r.paused && !keep then s.clearPause r.ctx (fun x => { x with pausePage := false }) else s

/-- PAGE_RESPONSE (R380): a page response resumes the transfer, or ends it with HOST_PAGE_FAULT. -/
def execPageResponse (id : Nat) (resp : PageResp) (s : State) : Host.Outcome State Fault Refusal :=
  .next (
    match AL.find? id s.cxl.pris with
    | none => s
    | some r =>
      let s := s.dropPage id r
      match resp with
      | .success => s.pageResume r
      | .invalid | .failure => s.pageFail r .hostPageFault)

/-- PAGE_PAUSE_TIMEOUT (R379, R380): PAUSE_US passes first; the page source is set and the context pauses. -/
def execPagePauseTimeout (id : Nat) (s : State) : Host.Outcome State Fault Refusal :=
  .next (
    match AL.find? id s.cxl.pris with
    | none => s
    | some r =>
      if r.what.pauses && !r.paused && decide (r.issued + r.pauseUs ≤ s.now) then
        let s := { s with cxl := { s.cxl with pris := AL.set id { r with paused := true } s.cxl.pris } }
        s.setPause r.ctx (fun x => { x with pausePage := true })
      else s)

/-- PAGE_REQUEST_TIMEOUT (R379, R380): no response within TIMEOUT_MS; the request ends with HOST_PAGE_TIMEOUT. -/
def execPageRequestTimeout (id : Nat) (s : State) : Host.Outcome State Fault Refusal :=
  .next (
    match AL.find? id s.cxl.pris with
    | none => s
    | some r => if r.issued + 1000 * r.timeoutMs ≤ s.now then (s.dropPage id r).pageFail r .hostPageTimeout else s)

end Sys2Proof.Machine
end

