-- ==== Sys2Proof/Machine/CxlPorts.lean ====
section
/-! DEFINITION. The host ports: training, PERST, translation, failover, the loss of both (R354–R357, R376, R377, R427,
R463). -/

namespace Sys2Proof.Machine

/-- A port that was usable before `s0` and is not now is lost, and the time both have been unusable runs (R376, R377). -/
def State.noteLoss (s s0 : State) : State :=
  let f (p : HostPort) (s : State) : State :=
    if s0.usable p && !s.usable p then s.updCxl p (fun x => { x with lost := true }) else s
  let s := f .b (f .a s)
  let down := s.hub.firstReady && !s.usable .a && !s.usable .b
  { s with cxl := { s.cxl with
    bothDown := if down then (match s.cxl.bothDown with
      | some t => some t
      | none => some s.now) else none } }

/-- CXL_LINK_TRAINED (R355, R427, R463): a port whose PERST is not asserted has trained; one that trained to less than
x4 at 32 GT/s is reported and serves no ring. -/
def execCxlLinkTrained (p : HostPort) (width rate : Nat) (ats pasid pri : Bool) (s : State) :
    Host.Outcome State Fault Refusal :=
  .next (
    if (s.cxlPort p).perst then s
    else
      let s' := s.updCxl p (fun x =>
        { x with up := true, width := width, rate := rate, ats := ats, pasid := pasid, pri := pri })
      let s' := if (width = 4 ∨ width = 8) ∧ (rate = 32 ∨ rate = 64) then s' else s'.modEvent .cxlPortDegraded
      s'.noteLoss s)

/-- PERST_ASSERT (R427): the pin resets only the port's controller and PHY; the port is unusable. -/
def execPerstAssert (p : HostPort) (s : State) : Host.Outcome State Fault Refusal :=
  .next ((s.updCxl p (fun x =>
    { x with perst := true, up := false, width := 0, rate := 0, ats := false, pasid := false, pri := false })).noteLoss s)

/-- PERST_DEASSERT (R427): the port trains. -/
def execPerstDeassert (p : HostPort) (s : State) : Host.Outcome State Fault Refusal :=
  .next (s.updCxl p (fun x => { x with perst := false }))

/-- ATS_INVALIDATION (R357): the page leaves the port's translation cache once the accesses in flight that use it have
completed. -/
def execAtsInvalidation (p : HostPort) (page : Nat) (s : State) : Host.Outcome State Fault Refusal :=
  .next (s.updCxl p (fun x => { x with atc := x.atc.filter (fun q => q.2 != page), inflight := [] }))

/-- The ring sets an enabled ring belongs to. -/
def State.usedSets (s : State) : List SetId :=
  (List.finRange 17).filter (fun i => (List.range 7).any (fun k => s.ringOn i k))

/-- CXL_PORT_FAILOVER (R376): every ring, doorbell line and outstanding access of the lost port moves to the other;
translations and filter entries of the lost port go; writes in place are not repeated, the others are reissued in order; the SPDM
session on the lost port's DOE ends (coinciding events of chapter 14). -/
def execCxlPortFailover (p : HostPort) (inPlace : List Nat) (s : State) : Host.Outcome State Fault Refusal :=
  .next (
    if !s.usable p && s.usable (otherPort p) && (s.cxlPort p).lost then
      let old := (s.cxlPort p).inflight
      let again := (old.zipIdx.filter (fun e => !inPlace.contains e.2)).map (fun e => e.1)
      let old_ := (s.cxl.pris.filter (fun (e : Nat × PageReq) => decide (e.2.port = p))).map (fun e => e.1)
      let s := s.updCxl p (fun x => { x with inflight := [], atc := [], lost := false })
      let s := s.updCxl (otherPort p) (fun x => { x with inflight := x.inflight ++ again })
      let s := s.usedSets.foldl (fun s i => s.updRing i (fun r => { r with movedTo := (List.range 7).map (fun k => (k, otherPort p)) })) s
      let s := { s with cxl := { s.cxl with
        filter := List.filter (fun (e : Nat × HostPort) => decide (e.2 ≠ p)) s.cxl.filter
        pris := s.cxl.pris.map (fun (e : Nat × PageReq) => if e.2.port = p then (e.1, { e.2 with port := otherPort p }) else e) } }
      let s := { s with mss := { s.mss with
        sessions := List.filter (fun (e : Nat × Session) => decide (e.2.path ≠ SpdmPath.doe p)) s.mss.sessions } }
      let again := (s.cxl.pris.filter (fun (e : Nat × PageReq) => decide (old_.any (fun i => i == e.1)))).map (fun e => (e.1, e.2.pasid, e.2.page))
      let s := { s with out := { s.out with pris := again.reverse ++ s.out.pris } }
      let s := s.usedSets.foldl State.flushSet s
      s.modEvent .cxlPortFailover
    else s)

/-- BOTH_PORTS_UNUSABLE_TIMEOUT (R377): both ports unusable for 20 ms; the module reports MODULE_SELF_FENCE and resets. -/
def execBothPortsUnusableTimeout (s : State) : Host.Outcome State Fault Refusal :=
  .next (
    match s.cxl.bothDown with
    | some t => if t + 20000 ≤ s.now then s.selfFence none else s
    | none => s)

end Sys2Proof.Machine
end

