-- ==== Sys2Proof/Machine/DeviceAccess.lean ====
section
/-! DEFINITION. Accesses of step programs to device memory: translation, permissions, the partition map, and the fault they
take (R24, R171, R173, R185–R187). -/

namespace Sys2Proof.Machine

/-- The DPA a DVA of a context stands for with the permission at `bit`, if its entry gives one (R185). -/
def Ctx.translate (x : Ctx) (dva bit : Nat) : Option Nat :=
  let e := (AL.get 0 (dva / 2 ^ 21) x.pages).toNat
  if dva < 2 ^ 41 ∧ bitOf e 0 = true ∧ bitOf e bit = true then some (bitsOf e 27 8 * 2 ^ 21 + dva % 2 ^ 21) else none

/-- The permission bit of an access (R185). -/
def Access.bit : Access → Nat
  | .read => 1
  | .write | .reduction => 2

/-- The partition a DPA lies in, by the partition ranges of its die (R24, R173). -/
def State.partOf (s : State) (a : Nat) : Option Nat :=
  let d := dpaDie a
  let u := dpaOffset a / 2 ^ 21
  (List.range 7).find? (fun p =>
    let base := bitsOf (s.reg (aPartBase d p)) 17 0
    decide (base ≤ u) && decide (u < base + bitsOf (s.reg (aPartSize d p)) 17 0))

/-- The DPA an access of a step program of a context reaches (R24, R171, R185, R186): translated and permitted, populated, in
the working or the woodpile partition. -/
def State.reach (s : State) (c : CtxId) (dva : Nat) (op : Access) : Option Nat :=
  match (s.ctx c).translate dva op.bit with
  | some a => if s.populated a && (s.partOf a == some 6 || s.partOf a == some 3) then some a else none
  | none => none

/-- A device translation fault (R187): reported with its DVA and its operation; the step votes STOP, and a rollout's ring stops
at the request it executes. -/
def State.devFault (s : State) (c : CtxId) (n dva : Nat) (op : Access) : State :=
  let s := s.event (setOf c) .devTranslationFault (.access dva op)
  match (s.ctx c).stepNo n with
  | some t => s.stopStep c t.number .devTranslationFault
  | none =>
    match s.flowOf c .step .generate with
    | some f => s.stopAfterEffect c .step f 0 .devTranslationFault
    | none => s

/-- An access is charged to the partition it addresses: its bytes wait for the window that serves them (R177). -/
def State.charge (s : State) (a bytes : Nat) : State :=
  match s.partOf a with
  | some p => { s with mem := { s.mem with waiting := s.mem.waiting ++ [(dpaDie a, p, bytes)] } }
  | none => s

/-- A reduction target as the instance that writes it finds it (R192). -/
def State.targetFor (s : State) (c : CtxId) (n tensor inst a width : Nat) : RedTarget :=
  let now := leNat (s.hbmGet a width)
  match AL.find? a s.mem.targets with
  | some e => if e.ctx = c ∧ e.step = n ∧ e.tensor = tensor ∧ e.inst = inst then e else ⟨c, n, tensor, inst, width, now⟩
  | none => ⟨c, n, tensor, inst, width, now⟩

/-- A reduction's bytes at an address, whose line they make dirty for the tensor instance (R191, R192). -/
def State.reduceTo (s : State) (c : CtxId) (n tensor inst a : Nat) (bytes : List Byte) : State :=
  let e := s.targetFor c n tensor inst a bytes.length
  let s := (s.hbmPut a bytes).charge a bytes.length
  { s with mem := { s.mem with cacheLost := s.mem.cacheLost.filter (fun l => l != a), targets := AL.set a e s.mem.targets } }

/-- Chunk sums a step program deposits at a DVA (R116, R185, R187, R191). -/
def State.storeAt (s : State) (c : CtxId) (n tensor inst dva : Nat) (bytes : List Byte) : State :=
  match s.reach c dva .reduction with
  | some a => s.reduceTo c n tensor inst a bytes
  | none => s.devFault c n dva .reduction

end Sys2Proof.Machine
end

