-- ==== Sys2Proof/Machine/Window.lean ====
section
/-! DEFINITION. The CXL.mem window: mapping, host accesses, the snoop filter (R320, R321, R386–R388). -/

namespace Sys2Proof.Machine

/-- Lines of 64 bytes in a 2 MiB window page. -/
def linesPerPage : Nat := 32768

/-- State of a window page (R386). -/
def State.winPage (s : State) (page : Nat) : WinPage := AL.get .unmapped page s.cxl.window

/-- Lines the snoop filter holds in a page (R387). -/
def State.pageLines (s : State) (page : Nat) : List Nat :=
  (List.filter (fun (e : Nat × HostPort) => decide (e.1 / linesPerPage = page)) s.cxl.filter).map (fun e => e.1)

/-- A back-invalidate snoop is sent for a line the filter holds (R387). -/
def State.snoop (s : State) (line : Nat) : State :=
  if s.cxl.snooping.contains line then s
  else { s with
    cxl := { s.cxl with snooping := s.cxl.snooping ++ [line] }
    out := { s.out with snoops := line :: s.out.snoops } }

/-- The read-only mark of a staging page in its context's translation: WRITE cleared, or restored as the program set it
(R185, R388). -/
def Ctx.markPage (x : Ctx) (page : Nat) (readOnly : Bool) : Ctx :=
  let own := (x.prog.bind (fun p => AL.find? page p.pageTable)).getD (AL.get 0 page x.pages)
  { x with pages := AL.set page (if readOnly then AL.get 0 page x.pages &&& ~~~ 4 else own) x.pages }

/-- DONE for a service descriptor by its ring index. -/
def State.doneAt (s : State) (c : CtxId) (ix : BitVec 32) : State :=
  let tag := (((s.ring (setOf c)).service.flow.find? (fun f => f.index == ix)).map (·.userTag)).getD 0
  s.finishDone c .service ix tag 0 .success 0

/-- Exports of which no window page is left end; their descriptors complete (R321, R370). -/
def State.endExports (s : State) : State :=
  let held (c : CtxId) (e : Nat × Nat × BitVec 32) : Bool := s.cxl.window.any (fun w => decide (e.1 ≤ w.1) && decide (w.1 < e.1 + e.2.1) &&
    (match w.2 with
      | .exported d _ => decide (d = c)
      | _ => false))
  allCtx.foldl (fun (s : State) c =>
    let gone := (s.ctx c).exports.filter (fun e => !held c e)
    if gone.isEmpty then s
    else gone.foldl (fun (s : State) e => s.doneAt c e.2.2) (s.updCtx c (fun x => { x with exports := x.exports.filter (held c) }))) s

/-- Descriptors whose pages have all left complete (R370, R387). -/
def State.endUnmaps (s : State) : State :=
  let done := s.cxl.waitUnmap.filter (fun w => w.2.2.isEmpty)
  let s := { s with cxl := { s.cxl with waitUnmap := s.cxl.waitUnmap.filter (fun w => !w.2.2.isEmpty) } }
  done.foldl (fun (s : State) w => s.doneAt w.1 w.2.1) s

/-- A window page leaves its state: it is Unmapped (R386). -/
def State.unmapPage (s : State) (page : Nat) : State :=
  let s := match s.winPage page with
    | .staging c q => s.updCtx c (fun x => x.markPage q false)
    | .exported _ _ | .unmapped => s
  let s := { s with cxl := { s.cxl with
    window := AL.del page s.cxl.window, leaving := s.cxl.leaving.filter (fun q => q != page)
    waitUnmap := s.cxl.waitUnmap.map (fun (w : CtxId × BitVec 32 × List Nat) => (w.1, w.2.1, w.2.2.filter (fun q => q != page))) } }
  s.endExports.endUnmaps

/-- A page starts to leave its state: once no line of it is in the filter it is Unmapped, else its lines are snooped
first (R387). -/
def State.leavePage (s : State) (page : Nat) : State :=
  if s.winPage page = .unmapped then s
  else
    match s.pageLines page with
    | [] => s.unmapPage page
    | ls =>
      let s := ls.foldl State.snoop s
      { s with cxl := { s.cxl with leaving := if s.cxl.leaving.contains page then s.cxl.leaving else s.cxl.leaving ++ [page] } }

/-- The window pages a descriptor is to map leave the state they are in first (R387; log 48). -/
def State.vacate (s : State) (w n : Nat) : State :=
  (List.range n).foldl (fun (s : State) i => s.leavePage (w + i)) s

/-- Every page of a window range is Unmapped. -/
def State.vacant (s : State) (w n : Nat) : Bool := (List.range n).all (fun i => decide (s.winPage (w + i) = .unmapped))

/-- WINDOW_MAP (R386, R388, R471): window pages onto working pages of the context, read-only to its step program. A page
that is no writable working page of the context is outside DVA_PAGE's range (DEDUCED, log 17). A window page that is mapped leaves its state first; the descriptor waits for it. -/
def execWindowMap (c : CtxId) (s : State) : Host.Outcome State Fault Refusal :=
  .next (
    match s.headOf c .service .windowMap with
    | none => s
    | some q =>
      let n := dLen q.bytes
      let w := dWindowPage q.bytes
      let d := dDvaPage q.bytes
      if (List.range n).all (fun i => pageWritable (s.ctx c) (d + i)) then
        let s := s.vacate w n
        if s.vacant w n then
          (List.range n).foldl (fun (s : State) i =>
            let s := s.updCtx c (fun x => x.markPage (d + i) true)
            { s with cxl := { s.cxl with window := AL.set (w + i) (.staging c (d + i)) s.cxl.window } })
            (s.effectDone c .service q .success 0)
        else s
      else s.stopHead c .service q .descParamInvalid 40)

/-- The staging pages of this context in a window range. -/
def State.stagingIn (s : State) (c : CtxId) (w n : Nat) : List Nat :=
  ((List.range n).map (w + ·)).filter (fun p => match s.winPage p with
    | .staging d _ => decide (d = c)
    | _ => false)

/-- Window pages leave at a descriptor's order: it completes when every one of them is Unmapped (R370, R387). -/
def State.leaveFor (s : State) (c : CtxId) (q : QDesc) (pages : List Nat) : State :=
  let s := s.takeEffect c .service q
  let s := { s with cxl := { s.cxl with waitUnmap := s.cxl.waitUnmap ++ [(c, q.index, pages)] } }
  (pages.foldl State.leavePage s).endUnmaps

/-- WINDOW_UNMAP (R386, R387): staging pages are back-invalidated and return to Unmapped. -/
def execWindowUnmap (c : CtxId) (s : State) : Host.Outcome State Fault Refusal :=
  .next (
    match s.headOf c .service .windowUnmap with
    | none => s
    | some q =>
      s.leaveFor c q (s.stagingIn c (dWindowPage q.bytes) (dLen q.bytes)))

/-- A refused window access is counted, and reported at most once per millisecond on the page's context, or on ring set
16 for an unmapped page (R386). -/
def State.windowDenied (s : State) (page : Nat) : State :=
  let s := { s with cxl := { s.cxl with denied := s.cxl.denied + 1 } }
  let due := match s.cxl.deniedAt with
    | some t => decide (t + 1000 ≤ s.now)
    | none => true
  if due then
    let set : SetId := match s.winPage page with
      | .staging c _ | .exported c _ => setOf c
      | .unmapped => moduleSet
    let s := s.event set .windowAccessDenied .none
    { s with cxl := { s.cxl with deniedAt := some s.now } }
  else s

/-- A line enters the snoop filter against the port that cached it; at 65,536 lines the oldest is back-invalidated
(R387). -/
def State.track (s : State) (p : HostPort) (line : Nat) : State :=
  if s.cxl.filter.any (fun e => decide (e = (line, p))) then s
  else
    let s := match s.cxl.filter with
      | [] => s
      | e :: _ => if 65536 ≤ s.cxl.filter.length then s.snoop e.1 else s
    { s with cxl := { s.cxl with filter := s.cxl.filter ++ [(line, p)] } }

/-- The bytes of an export line: a line of the shard image of the context's frozen snapshot (R304, R321). -/
def State.exportLine (s : State) (c : CtxId) (block line : Nat) : List Byte :=
  match (s.ctx c).snapshot, (s.ctx c).prog with
  | some f, some p => ((imageBytes p s.ident f.step f.data).drop (block * 2097152 + 64 * (line % linesPerPage))).take 64
  | _, _ => []

/-- The DPA behind a DVA page of a context (R185). -/
def Ctx.pageDpa (x : Ctx) (page : Nat) : Nat := bitsOf (AL.get 0 page x.pages).toNat 27 8 * 2097152

/-- A window line's bytes, none for poison (R386): from HBM behind a staging page, from the snapshot's image behind an
export page. -/
def State.windowLine (s : State) (line : Nat) : Option (List Byte) :=
  match s.winPage (line / linesPerPage) with
  | .unmapped => none
  | .staging c q => some (s.hbmGet ((s.ctx c).pageDpa q + 64 * (line % linesPerPage)) 64)
  | .exported c b => some (s.exportLine c b line)

/-- A host read of a word that fails parity is repaired first; what cannot be repaired reads as poison (R180, R386). -/
def repairable (s : State) (loc : Loc) : Bool :=
  match loc with
  | .workOther _ held => held
  | .workBatch _ _ same => same
  | .snapshot c _ => match (s.ctx c).snapshot with
    | some f => (s.ctx c).snapshotSource f.step
    | none => false
  | .keep _ _ | .stripe _ _ _ _ _ => false
  | _ => true

/-- WINDOW_HOST_READ (R386, R387): served, repaired, or answered with poison by the page's state; a line the host caches
is tracked. -/
def execWindowHostRead (p : HostPort) (line : Nat) (cached : Bool) (parity : Option WordFault) (s : State) :
    Host.Outcome State Fault Refusal :=
  .next (
    let page := line / linesPerPage
    if s.winPage page = .unmapped ∨ 32768 ≤ page then
      let s := s.windowDenied page
      { s with cxl := { s.cxl with lastRead := some (line, none) } }
    else
      let right := s.windowLine line
      let fails (f : WordFault) : Bool := wordFails f (faultWord (right.getD []) f)
      let v := match parity with
        | some f => if fails f then (if repairable s f.loc then right else none) else right.map (fun bs => flipWord bs f)
        | none => right
      let s := match parity with
        | some f =>
          let a := match s.winPage page with
            | .staging c q => (s.ctx c).pageDpa q + 64 * (line % linesPerPage) + 4 * f.word
            | _ => 0
          let s := s.report (s.chanOf a) f
          if fails f then s.parityRepair (s.chanOf a) f.loc false else s
        | none => s
      let s := match s.winPage page with
        | .staging c q => s.charge ((s.ctx c).pageDpa q) 64
        | .exported c _ => s.chargePart c 4 64
        | .unmapped => s
      let s := if cached then s.track p line else s
      { s with cxl := { s.cxl with lastRead := some (line, v) } })

/-- WINDOW_HOST_WRITE (R386): served on a staging page; dropped and counted elsewhere. The address is the byte's offset in
the window; the bytes lie in one line. -/
def execWindowHostWrite (_p : HostPort) (addr : Nat) (bytes : List Byte) (s : State) : Host.Outcome State Fault Refusal :=
  .next (
    let page := addr / 2097152
    match s.winPage page with
    | .staging c q => (s.hbmPut ((s.ctx c).pageDpa q + addr % 2097152) (bytes.take (64 - addr % 64))).charge ((s.ctx c).pageDpa q) 64
    | _ => s.windowDenied page)

/-- BACK_INVALIDATE_RESPONSE (R387): the line leaves the filter; a page whose last line it was leaves its state. -/
def execBackInvalidateResponse (line : Nat) (s : State) : Host.Outcome State Fault Refusal :=
  .next (
    if s.cxl.snooping.contains line then
      let s := { s with cxl := { s.cxl with
        snooping := s.cxl.snooping.filter (fun l => l != line)
        filter := List.filter (fun (e : Nat × HostPort) => decide (e.1 ≠ line)) s.cxl.filter } }
      let page := line / linesPerPage
      if s.cxl.leaving.contains page && (s.pageLines page).isEmpty then s.unmapPage page else s
    else s)

end Sys2Proof.Machine
end

