-- ==== Sys2Proof/Machine/Loader.lean ====
section
/-! DEFINITION. The step program loader: its checks, the regions it places, loading and unloading, the ACR switch, and
UPLOAD (R5, R27, R36, R46, R51, R56, R65, R66, R74, R95, R118, R120, R127, R131–R139, R147, R148, R165, R176, R185, R186,
R191, R211, R221, R292–R294, R309, R343, R350, R366, R385, R393, R481, R485). -/

namespace Sys2Proof.Machine

/-! ## Regions (R176) -/

/-- A range of a die in 2 MiB units: base and length. -/
abbrev Gap := Nat × Nat

/-- What is left of gaps when a piece is taken out of them. -/
def cutGaps (b n : Nat) (gs : List Gap) : List Gap :=
  gs.flatMap (fun g =>
    if b + n ≤ g.1 ∨ g.1 + g.2 ≤ b then [g]
    else (if g.1 < b then [(g.1, b - g.1)] else []) ++ (if b + n < g.1 + g.2 then [(b + n, g.1 + g.2 - (b + n))] else []))

/-- The free gaps of a partition on a die, in increasing address: its range less every context's pieces. -/
def State.freeGaps (s : State) (part : Nat) (d : Nat) : List Gap :=
  let size := bitsOf (s.reg (aPartSize d part)) 17 0
  let all : List Gap := if size = 0 then [] else [(bitsOf (s.reg (aPartBase d part)) 17 0, size)]
  let taken := s.ctxs.flatMap (fun e => (AL.get [] part e.2.regions).filter (fun q => q.1 == d))
  taken.foldl (fun gs q => cutGaps q.2.1 q.2.2 gs) all

/-- Free gaps filled in order until a region is placed (R176). -/
def fillGaps : Nat → List (Nat × Gap) → Option (List (Nat × Nat × Nat))
  | 0, _ => some []
  | _ + 1, [] => none
  | n + 1, (d, b, len) :: gs =>
    if n + 1 ≤ len then some [(d, b, n + 1)]
    else (fillGaps (n + 1 - len) gs).map ((d, b, len) :: ·)

/-- A region of `units` of a partition, first-fit on the dies in the order given: the first gap that holds it, else gap
by gap (R176). -/
def State.place (s : State) (part units : Nat) (order : List (Fin 4)) : Option (List (Nat × Nat × Nat)) :=
  let gaps : List (Nat × Gap) := order.flatMap (fun d => (s.freeGaps part d.val).map (fun g => (d.val, g)))
  match gaps.find? (fun g => decide (units ≤ g.2.2)) with
  | some g => some (if units = 0 then [] else [(g.1, g.2.1, units)])
  | none => fillGaps units gaps

/-- Units of a shard image (R304). -/
def imageUnits (p : Program) (self : Nat) : Nat :=
  let n := 4096 + p.bodyLens.getD (shardOf p self) 0
  cdiv (n + 64 * cdiv n 2097152) 2097152

/-- The save area of a program in units (R385). -/
def saveUnits (p : Program) : Nat := p.placementCores * p.coreStateUnits

/-- Logs a tensor takes: 2 MiB each (R130, R137). -/
def logsOf (bytes : Nat) : Nat := cdiv bytes 2097152

/-- The woodpile need of a step in logs (R137): each pushed tensor at its size, an elastic one at the size expected of it, for
every micro-batch. -/
def woodpileNeed (p : Program) : Nat :=
  p.microbatches * ((p.pushDecls.map (fun d => logsOf (if d.elastic then d.expected else d.bytes))).foldl (· + ·) 0)

/-- The regions a program asks for, by partition, with the code of a region that does not fit (R176, R211, R385). -/
def State.wants (s : State) (p : Program) : List (Nat × Nat × Status) :=
  let all : List (Nat × Nat × Status) := [(3, woodpileNeed p, .loadWoodpileSize)]
  match p.kind with
  | .training =>
    [(0, 3 * p.slotUnits, .loadPartitionFull), (2, 3 * p.mirrorUnits, .loadPartitionFull),
     (1, s.retention * p.slotUnits, .loadKeepSize), (4, imageUnits p s.ident, .loadSnapshotSize)] ++ all
  | .rollout => all

/-- The regions placed, or the codes of those that do not fit. -/
def State.placeAll (s : State) (p : Program) : AL Nat (List (Nat × Nat × Nat)) × List Status :=
  let parts := (s.wants p).map (fun w => (w, s.place w.1 w.2.1 p.dieOrder))
  let work := s.place 6 p.workingUnits p.dieOrder
  let whole := s.place 6 (p.workingUnits + saveUnits p) p.dieOrder
  let bad := parts.filterMap (fun e => if e.2.isNone then some e.1.2.2 else none)
  let badWork : List Status := if work.isNone then [.loadPartitionFull] else if whole.isNone then [.loadSaveArea] else []
  (parts.map (fun e => (e.1.1, e.2.getD [])) ++ [(6, whole.getD [])], bad ++ badWork)

/-! ## The loader's checks -/

/-- An initial scale record breaks R65 at its position. -/
def recordBad (i : Nat) (r : ScaleRec) : Bool :=
  if r.fmt = 0xF then false
  else
    match recFmt r with
    | none => true
    | some .fxr64 => r.tensor != i / 256 || r.inst != i % 256
    | some f =>
      let w := r.scale.toNat
      r.tensor != i / 256 || r.inst != i % 256 || !(decide (0x00800000 ≤ w) && decide (w < 0x7F800000)) ||
        (if f.isInt then decide (2 ^ f.bits - 1 < r.zp) else r.zp != 0)

/-- A page table entry the loader refuses (R186): a partition other than 3 or 6, or a page outside its range. -/
def State.pageBad (s : State) (e : Nat × BitVec 64) : Bool :=
  let v := e.2.toNat
  let part := bitsOf v 5 3
  let page := bitsOf v 27 8
  let d := page / 2 ^ 18
  let u := page % 2 ^ 18
  let base := bitsOf (s.reg (aPartBase d part)) 17 0
  let size := bitsOf (s.reg (aPartSize d part)) 17 0
  bitOf v 0 && (!(part == 3 || part == 6) || !(decide (base ≤ u) && decide (u < base + size)))

/-- A node's way to the owner of a block, by its parents; none where it does not arrive (R350). -/
def reaches (b : CollBlock) : Nat → Nat → Bool
  | 0, _ => false
  | n + 1, m =>
    if m = b.owner then true
    else match AL.find? m b.parents with
      | some q => reaches b n q
      | none => false

/-- A collective block's schedule delivers every contribution once to the owner, with no more than 2^G to an FXR64
element (R350). -/
def scheduleOk (b : CollBlock) : Bool :=
  let nodes := (b.parents.map (fun e => e.1)).eraseDups
  let due (m : Nat) : Nat := (b.contributors.filter (fun k => k == m)).length + (b.parents.filter (fun e => e.2 == m)).length
  nodes.length == b.parents.length && b.contributors.eraseDups.length == b.contributors.length &&
    !nodes.contains b.owner &&
    (nodes ++ b.contributors).all (fun m => reaches b (b.parents.length + 1) m) &&
    (b.owner :: nodes).all (fun m => AL.get 0 m b.expects == due m) &&
    (decide (b.op ≠ .sum) || decide (b.contributors.length ≤ 2 ^ b.guard))

/-- The buddy plan breaks R165: for a member of the clearing or a module the plan names. -/
def buddyBad (p : Program) : Bool :=
  let ms := (p.shards.flatten ++ p.buddies.flatMap (fun e => [e.1, e.2])).eraseDups
  ms.any (fun m => match p.buddies.filter (fun e => e.1 == m || e.2 == m) with
    | [] => true
    | [e] => e.1 == e.2 || groveOf e.1 != groveOf e.2
    | e :: es => es.any (fun f => !(f == (e.2, e.1))) || e.1 == e.2 || groveOf e.1 != groveOf e.2)

/-- Two byte ranges overlap somewhere in a list of (offset, length). -/
def overlaps : List (Nat × Nat) → Bool
  | [] => false
  | (o, n) :: rest => rest.any (fun e => decide (o < e.1 + e.2) && decide (e.1 < o + n)) || overlaps rest

/-- Host writes of one step overlap (R221): a metric write has its 16-byte header before its data. -/
def writesOverlap (p : Program) : Bool := overlaps (p.hostWrites ++ p.metricWrites.map (fun e => (e.1, 16 + e.2)))

/-- The index of the first element that fails, with a code: one refusal of the loader (R473). -/
def firstBad {α : Type} (st : Status) (bad : α → Bool) (xs : List α) : List (Status × Nat) :=
  match xs.findIdx? bad with
  | some i => [(st, i)]
  | none => []

/-- A refusal without an index. -/
def oneBad (st : Status) (bad : Bool) : List (Status × Nat) := if bad then [(st, 0)] else []

/-- K extended to whole rotation blocks (R74). -/
def paddedK (d : ProductDecl) : Nat := if d.rotated ∧ d.rotSize ≠ 0 then d.rotSize * cdiv d.k d.rotSize else d.k

/-- ACRs the module can load: those its firmware implements and its profile permits (R56, R393). -/
def State.acrOk (s : State) (acr : Nat) : Bool :=
  let slot := if s.mss.activeB then s.mss.slotB else s.mss.slotA
  ((slot.bundle.map (·.acrs)).getD []).contains acr && ((s.mss.profile.map (·.acrs)).getD []).contains acr

/-- The FXR64 tensors of a program (R46): those with an FXR64 record. -/
def fxrIds (p : Program) : List Nat := ((p.records.filter (fun r => r.fmt == 8)).map (·.tensor)).eraseDups

/-- Modules a tensor is reduced over: the contributors of its collective blocks (R46). -/
def reducedOver (p : Program) (tensor : Nat) : Nat :=
  ((p.collectives.filter (fun b => b.tensor == tensor)).map (fun b => b.contributors.eraseDups.length)).foldl max 1

/-- C of an FXR64 tensor (R46, R147, R154): the contributions a module enters into one element, micro-batches × uses for a
gradient, one for a gradient accumulated in FP32, times the modules it is reduced over; for the norm, the modules of the clearing,
which are those the program gives shards. -/
def fxrCount (p : Program) (tensor : Nat) : Nat :=
  match p.gradTensors.find? (fun g => g.1 == tensor) with
  | some g => (if g.2.1 then 1 else p.microbatches) * max 1 g.2.2 * reducedOver p tensor
  | none =>
    if tensor = p.normTensor then max (max 1 p.shards.flatten.eraseDups.length) (reducedOver p tensor)
    else AL.get 1 tensor p.fxrTensors * reducedOver p tensor

/-- The logs of a stack the loader compares: those of tensors not marked regrow (R132). -/
def stackLogs (p : Program) (xs : List Nat) : List Nat := xs.filter (fun t => !p.regrows.any (fun r => r.tensor == t))

/-- The inputs of a regrown tensor are pushed or regrown themselves (R139). -/
def regrowFed (p : Program) (r : RegrowDecl) : Bool :=
  r.inputs.all (fun t => p.pushes.any (fun e => e.2.contains t) || p.regrows.any (fun q => q.tensor == t))

/-- The checks of a program's own declarations. R139 names no code for a regrown tensor whose inputs are neither pushed nor
regrown; the image is then invalid (DEDUCED, log 137). A pushed tensor in a format no log tag has is refused as another format (R27,
R133; DEDUCED, log 153). -/
def declaredBad (p : Program) : List (Status × Nat) :=
  firstBad .loadFormat (fun f => (Fmt.ofCode f).isNone) (p.formats ++ p.slotTensors.map (·.fmt) ++ p.pushDecls.map (·.fmt)) ++
  firstBad .loadFormat (fun (d : PushDecl) => d.fmt == 8 || d.fmt == 0xB) p.pushDecls ++
  firstBad .loadRngStream (fun x => !([1, 2, 3, 0x10] : List Nat).contains x) p.streams ++
  oneBad .loadZeroField (p.scaleLen == 0) ++
  firstBad .loadScaleInvalid (fun (e : ScaleRec × Nat) => recordBad e.2 e.1) p.records.zipIdx ++
  oneBad .loadScaleInvalid (decide (2 ^ 24 < p.scaleLen)) ++
  oneBad .loadZeroField (p.batchSize == 0 || p.microbatches == 0) ++
  oneBad .loadMicrobatch (p.microbatches != 0 && (decide (256 < p.microbatches) || p.batchSize % p.microbatches != 0)) ++
  firstBad .loadZeroField (fun (d : ProductDecl) => d.rotated && d.rotSize == 0) p.products ++
  firstBad .loadRotationSize (fun (d : ProductDecl) => d.rotated && !([0, 16, 64, 256] : List Nat).contains d.rotSize) p.products ++
  firstBad .loadKRange (fun (d : ProductDecl) => d.exact && decide (2 ^ 24 < paddedK d)) p.products ++
  firstBad .loadTurnMode (fun (d : ProductDecl) => decide (p.kind = .rollout) && d.transposed) p.products ++
  firstBad .loadTurnMode (fun (e : CoreId × PassOrder) => decide (p.kind = .rollout) && e.2.turn) p.placement ++
  firstBad .loadFxrGuard (fun t => decide (65536 < fxrCount p t)) (fxrIds p) ++
  oneBad .loadZeroField (p.logKiB == 0) ++ oneBad .loadLogSize (p.logKiB != 0 && p.logKiB != 2048) ++
  firstBad .loadWoodpileOrder (fun (e : Nat × List Nat) => stackLogs p (AL.get [] e.1 p.pops) != (stackLogs p e.2).reverse) p.pushes ++
  firstBad .loadWoodpileOrder (fun (e : Nat × List Nat) => (AL.find? e.1 p.pushes).isNone && !(stackLogs p e.2).isEmpty) p.pops ++
  firstBad .loadRegrowDepth (fun (r : RegrowDecl) => decide (8 < r.ops)) p.regrows ++
  firstBad .loadImageInvalid (fun (r : RegrowDecl) => !regrowFed p r) p.regrows ++
  firstBad .loadZeroField (fun k => k == 0) p.scanKeys ++ firstBad .loadScanKeys (fun k => decide (4096 < k)) p.scanKeys ++
  firstBad .loadTiedFormat (fun fp32 => fp32) p.tiedFp32 ++
  firstBad .loadTiedFormat (fun (g : Nat × Bool × Nat) => g.2.1 && decide (1 < g.2.2)) p.gradTensors ++ oneBad .loadAtomicKind p.returningOps ++
  firstBad .loadCollectiveSchedule (fun b => !scheduleOk b) p.collectives ++
  oneBad .loadBuddyPlan (buddyBad p) ++
  oneBad .loadRecordSize (decide (261888 < 2816 + 64 * p.tensorsPerStep)) ++
  oneBad .loadImageInvalid (!p.headerOk || writesOverlap p)

/-- The checks that need the module: its ACRs, a buddy for every module of its clearing (R165), scan-capable cores, routes, seedbank,
partition map. -/
def State.moduleBad (s : State) (c : CtxId) (p : Program) : List (Status × Nat) :=
  let t := s.tableOf c
  let mode := bitsOf (s.reg (aCkptPol c.val)) 1 0
  let slots := bitsOf (s.reg aCkptCfg) 3 0
  let image := 2097152 * imageUnits p s.ident
  oneBad .acrUnsupported (!s.acrOk p.acr) ++
  oneBad .loadBuddyPlan (decide (p.kind = .training) && (s.members c).any (fun m => (buddyOf p m).isNone)) ++
  oneBad .loadNoScan (p.hasScan && !s.activeCores.any (fun k => Config.scanCapable k.num.val)) ++
  firstBad .loadRouteAbsent (fun m => match t with
    | some t => !s.routeValid t m
    | none => true) p.destinations ++
  oneBad .loadSeedbankSize (decide (p.kind = .training) && (mode == 1 || mode == 3) &&
    decide (Config.seedbankBytes / max 1 slots < image + 4096)) ++
  firstBad .loadTranslation s.pageBad p.pageTable

/-- Everything that refuses a program. Which code is reported where several apply is open (log 18). -/
def State.loadBad (s : State) (c : CtxId) (p : Program) : List (Status × Nat) :=
  declaredBad p ++ s.moduleBad c p ++ (s.placeAll p).2.map (fun st => (st, 0))

/-! ## Loading and unloading -/

/-- The initial records as the loader writes them, with the guard width it gives each FXR64 record (R46, R62). -/
def guarded (p : Program) : List ScaleRec :=
  p.records.map (fun r => onlyUsed (if r.fmt = 8 then { r with guard := guardOf (fxrCount p r.tensor) } else r))

/-- A context with a program just loaded (R5, R65, R97, R148, R176, R185): version 0 committed in live and mirror slot 0; a rollout
program's records are those it brings. -/
def Ctx.load (x : Ctx) (p : Program) (regions : AL Nat (List (Nat × Nat × Nat))) : Ctx :=
  let recs := guarded p
  let slot (arrays : List (Nat × List Nat)) : Slot :=
    { state := .committed, version := 0, data := { arrays := arrays, t := 0, records := recs } }
  let train := decide (p.kind = .training)
  { prog := some p, jobAcr := some (x.jobAcr.getD p.acr), attempts := [], ledger := x.ledger
    rollRecs := if train then [] else recs, live := if train then [(0, slot p.arrays0)] else [], mirror := if train then [(0, slot p.mirror0)] else []
    pages := p.pageTable, regions := regions, pauseHost := x.pauseHost, pausePage := x.pausePage
    pausePeers := x.pausePeers, lostMods := x.lostMods, suspects := x.suspects, epoch := 0
    ckptNamed := [], needRestore := x.needRestore }

/-- A program loaded into a context, with its image copy for the buddy (R278). -/
def State.loadInto (s : State) (c : CtxId) (p : Program) : State :=
  let s := s.updCtx c (fun x => { (x.load p (s.placeAll p).1) with buddyImage := x.buddyImage })
  let s := { s with grove := { s.grove with levels := AL.set c (s.commonLevel c) s.grove.levels, spare := false } }
  if (buddyOf p s.ident).isSome then s.send (.programImage c p) else s

/-- LOAD_PROGRAM (R176, R366, R367, R485, R417): once no program is loaded, the image is checked and loaded, or the ring
stops with a loader code. -/
def execLoadProgram (c : CtxId) (image : Fetch Program) (s : State) : Host.Outcome State Fault Refusal :=
  .next (
    match s.headOf c .step .loadProgram with
    | none => s
    | some q =>
      if (s.ctx c).loaded then s
      else if s.mss.security ≠ .secure then s.stopHead c .step q .secDebugState 0
      else
        match image with
        | .noPage off got => s.fetchStops c .descData off got
        | .data p =>
          let bad := s.loadBad c p ++ oneBad .loadImageInvalid (p.imageLen != dImageLen q.bytes)
          match bad with
          | [] => (s.effectDone c .step q .success 0).loadInto c p
          | b :: bs => let (e, s) := s.pick b (b :: bs); s.stopHead c .step q e.1 e.2)

/-- A copy, drain, export or keep copy still holds regions of a context (R176). -/
def State.regionsHeld (s : State) (c : CtxId) : Bool :=
  let x := s.ctx c
  !x.keepCopy.isEmpty || x.copying || s.cxl.window.any (fun e => match e.2 with
    | .staging d _ => decide (d = c)
    | _ => false)

/-- What stays of a context when its program has gone: its rings' and pauses' state, its records still streaming, and the
completion of its loss (R176, R214). -/
def Ctx.unloaded (x : Ctx) : Ctx :=
  { ledger := x.ledger, commitWait := x.commitWait, heldCommits := x.heldCommits, pauseHost := x.pauseHost
    pausePage := x.pausePage, pausePeers := x.pausePeers, lostMods := x.lostMods, suspects := x.suspects
    saved := false, needRestore := x.needRestore, buddyImage := x.buddyImage, newestS := x.newestS, newestG := x.newestG, qntReplay := x.qntReplay }

/-- The staging pages of a context leave the window before its unload completes (coinciding events of chapter 13). -/
def State.unmapAll (s : State) (c : CtxId) : State :=
  (s.cxl.window.filterMap (fun e => match e.2 with
    | .staging d _ => if d = c then some e.1 else none
    | _ => none)).foldl State.leavePage s

/-- UNLOAD_PROGRAM (R176, R312, R366): once no step is provisional it takes effect; the regions are released, and DONE posted,
once no copy, drain, export or keep copy holds them. A second call once they are free completes it. -/
def execUnloadProgram (c : CtxId) (s : State) : Host.Outcome State Fault Refusal :=
  .next (
    let x := s.ctx c
    let complete (s : State) (ix : BitVec 32) (tag : Nat) : State :=
      let s := if (s.ctx c).rollout then s else s.send (.stripeRelease c)
      let s := ((s.leaveCores c).updCtx c Ctx.unloaded).finishDone c .step ix tag 0 .success 0
      if s.anyLoaded then s else { s with grove := { s.grove with spare := true } }
    match s.headOf c .step .unloadProgram with
    | some q =>
      if x.steps.isEmpty && x.replaying.isNone && x.batches.isEmpty && x.batch.isNone then
        let s := ((s.takeEffect c .step q).updCtx c (fun x => { x with unloading := true })).unmapAll c
        if s.regionsHeld c then s else complete s q.index (dTag q.bytes)
      else s
    | none =>
      if x.unloading && !s.regionsHeld c then
        match (s.ring (setOf c)).step.flow.find? (fun f => decide (f.kind = .unloadProgram) && f.done.isNone) with
        | some f => complete s f.index f.userTag
        | none => s
      else s)

/-! ## UPLOAD (R366, R471) -/

/-- UPLOAD: once no step is provisional, blocks of the host's memory land packed from DST_DVA in working pages. -/
def execUpload (c : CtxId) (blocks : Fetch (List (List Byte))) (s : State) : Host.Outcome State Fault Refusal :=
  .next (
    match s.headOf c .step .upload with
    | none => s
    | some q =>
      if (s.ctx c).steps.isEmpty then
        match blocks with
        | .noPage off got => s.fetchStops c .descData off got
        | .data bs =>
          let bs := (s.ctx c).wholeBlocks .descData (dBlockLen q.bytes) bs
          let data := ((bs.take (dBlockCount q.bytes)).map (fun b => b.take (dBlockLen q.bytes))).flatten
          let dst := dDstDva q.bytes
          let x := s.ctx c
          let pages := (List.range (cdiv (dst % 2097152 + data.length) 2097152)).map (fun i => dst / 2097152 + i)
          if pages.all (pageWritable x) then
            let put (s : State) (i : Nat) : State :=
              let page := dst / 2097152 + i
              let from_ := if i = 0 then 0 else i * 2097152 - dst % 2097152
              let off := if i = 0 then dst % 2097152 else 0
              let part := (data.drop from_).take (2097152 - off)
              (s.hbmPut (x.pageDpa page + off) part).charge (x.pageDpa page) part.length
            (List.range pages.length).foldl put (s.effectDone c .step q .success 0)
          else s.stopHead c .step q .descParamInvalid 24
      else s)

/-! ## ACR_SWITCH (R294) -/

/-- The records a new program starts with: committed ones where TENSOR, INSTANCE and FORMAT are unchanged, with the guard width the
loader sets for this program (R46, R294). -/
def keepRecords (committed : List ScaleRec) (p : Program) : List ScaleRec :=
  (guarded p).map (fun r => match committed.find? (fun o => o.tensor == r.tensor && o.inst == r.inst && o.fmt == r.fmt && r.fmt != 0xF) with
    | some o => { o with guard := r.guard }
    | none => r)

/-- ACR_SWITCH (R294 steps 1 and 2): once step N_s − 1 has committed and no step is provisional, it takes effect: the
module checks the new ACR and that the program loads, and votes. -/
def execAcrSwitch (c : CtxId) (image : Fetch Program) (s : State) : Host.Outcome State Fault Refusal :=
  .next (
    match s.headOf c .step .acrSwitch with
    | none => s
    | some q =>
      let x := s.ctx c
      if x.steps.isEmpty && x.replaying.isNone && x.switching.isNone && x.committed + 1 == dNs q.bytes then
        match image with
        | .noPage off got => s.fetchStops c .descData off got
        | .data p =>
          let free := s.updCtx c (fun x => { x with regions := [] })
          let ok := p.acr == dAcr q.bytes && (free.loadBad c p).isEmpty
          ((s.takeEffect c .step q).updCtx c (fun x => { x with switching := some (p, ok) })).send
            (.contribute c .acrVote (if ok then 0 else 1))
      else s)

/-- A module of the grove does not implement an ACR as its beacon shows: the family is above its contract level (R55, R333). -/
def State.levelBelow (s : State) (m acr : Nat) : Bool :=
  ((s.portTo m).bind (fun p => (s.port p).beacon)).any (fun b => decide (b.level < acr / 256))

/-- The context's sapling does not implement an ACR. -/
def State.shadowBelow (s : State) (c : CtxId) (acr : Nat) : Bool :=
  s.grove.shadows.any (fun e => decide (e.1 = c) && s.levelBelow e.2.sapling acr)

/-- A sapling on a build without the new ACR is rejected at the switch with ACR_UNSUPPORTED: the steward reports it, and the
module it shadows feeds it no longer (coinciding events of chapter 10). -/
def State.saplingAtSwitch (s : State) (c : CtxId) (acr : Nat) : State :=
  if s.shadowBelow c acr then
    let s := { s with grove := { s.grove with
      shadows := s.grove.shadows.filter (fun (e : CtxId × Shadow) => !(decide (e.1 = c) && s.levelBelow e.2.sapling acr)) } }
    if s.isSteward c then s.event (setOf c) .acrUnsupported .none else s
  else s

/-- ACR_SWITCH_VOTE_REDUCED (R294 steps 3 and 4): a reduced vote of 0 switches ACR and program together; any other stops
the ring at the descriptor. -/
def execAcrSwitchVoteReduced (c : CtxId) (mask : Word) (s : State) : Host.Outcome State Fault Refusal :=
  .next (
    match (s.ctx c).switching, s.flowOf c .step .acrSwitch with
    | some (p, _), some f =>
      if mask = 0 then
        let s := (s.finishDone c .step f.index f.userTag 0 .success 0).saplingAtSwitch c p.acr
        let regions := ((s.updCtx c (fun x => { x with regions := [] })).placeAll p).1
        let s := if (buddyOf p s.ident).isSome then s.send (.programImage c p) else s
        s.updCtx c (fun x =>
          let y := { x with rollRecs := if decide (p.kind = ProgKind.rollout) then keepRecords x.committedRecs p else [], prog := some p, jobAcr := some p.acr, switching := none, pages := p.pageTable, regions := regions }
          let rs := keepRecords x.committedRecs p
          y.updLive x.committed (fun t => { t with data := { t.data with records := rs } }))
      else (s.updCtx c (fun x => { x with switching := none })).stopAfterEffect c .step f 0 .acrUnsupported
    | _, _ => s)

/-! ## REPLAY (R223) -/

/-- The base version of a replay: from keep, or the COMMITTED slot. -/
def Ctx.replayBase (x : Ctx) (v : Nat) : Option SlotData :=
  if v = x.committed then some (x.liveSlot v).data else (x.keep.find? (fun e => e.1 == v)).map (fun e => e.2)

/-- REPLAY (R223): with no step provisional, the base is taken, three version slots join the context's working region
until the replay ends, and the module votes whether that succeeded. -/
def execReplay (c : CtxId) (s : State) : Host.Outcome State Fault Refusal :=
  .next (
    match s.headOf c .step .replay with
    | none => s
    | some q =>
      let x := s.ctx c
      if x.steps.isEmpty && x.replaying.isNone && x.switching.isNone then
        match x.replayBase (dStep q.bytes) with
        | none => s.stopHead c .step q .replayBaseAbsent 0
        | some d =>
          let units := (x.prog.map (fun p => 3 * p.slotUnits)).getD 0
          let room := s.place 6 units ((x.prog.map (·.dieOrder)).getD [])
          let own := AL.get [] 6 x.regions
          let r : Replaying := ⟨dStep q.bytes, dCount q.bytes, q, [], [(dStep q.bytes % 3, d)], own⟩
          ((s.takeEffect c .step q).updCtx c (fun x => { x with
            replaying := some r, regions := AL.set 6 (own ++ room.getD []) x.regions })).send
            (.contribute c .replayVote (if room.isSome then 0 else 1))
      else s)

/-- REPLAY_ALLOCATION_REDUCED (R223): every module has its slots and the first step starts, or the ring stops at the
REPLAY with REPLAY_NO_SPACE. The inputs are those each step reads. -/
def execReplayAllocationReduced (c : CtxId) (mask : Word) (inputs : List ReplayInput) (s : State) :
    Host.Outcome State Fault Refusal :=
  .next (
    match (s.ctx c).replaying, s.flowOf c .step .replay with
    | some r, some f =>
      if (s.ctx c).steps.isEmpty then
        if mask = 0 then
          (s.updCtx c (fun x => { x with replaying := some { r with inputs := inputs } })).nextReplayed c (r.base + 1)
        else (s.updCtx c Ctx.endReplay).stopAfterEffect c .step f 0 .replayNoSpace
      else s
    | _, _ => s)

/-! ## FIELD_TEST (R251, R254, R256) -/

/-- The cores a mask names, in die order and then core order (R256, R471). -/
def maskCores (m : Nat) : List CoreId :=
  (List.finRange 4).flatMap (fun d => ((List.finRange 72).filter (fun n => bitOf m (72 * d.val + n.val))).map
    (fun n => (⟨d, n⟩ : CoreId)))

/-- FIELD_TEST (R251): refused with FT_MODE_BUSY in full mode while a program is loaded; otherwise the test starts once no
other runs. A full-mode test runs its cores at once, a rolling one core by core (R256). -/
def execFieldTest (c : CtxId) (s : State) : Host.Outcome State Fault Refusal :=
  .next (
    match s.headOf c .service .fieldTest with
    | none => s
    | some q =>
      let full := dMode q.bytes == 1
      if full && s.anyLoaded then s.effectDone c .service q .ftModeBusy 0
      else if s.cores.test.isSome then s
      else
        let cores := maskCores (dCoreMask q.bytes)
        let t : FieldTest := ⟨c, some q.index, full, dCases q.bytes, dSeed q.bytes, if full then [] else cores, 0⟩
        let s := s.takeEffect c .service q
        let s := { s with cores := { s.cores with test := some t } }
        if full then
          cores.foldl (fun (s : State) k =>
            (s.updCore k (fun x => { x with test := some ⟨t.cases, 0, [], 0, false, true, s.sweep k (dConditions q.bytes), bitOf (dConditions q.bytes) 3, none⟩ })).enterReset (.core k)) s
        else s)

end Sys2Proof.Machine
end

