-- ==== Sys2Proof/Machine/Stripes.lean ====
section
/-! DEFINITION. Grove stripes: rows, parity over GF(2⁸), reconstruction, regions and their units (R310–R312, R316). -/

namespace Sys2Proof.Machine

/-! ## GF(2⁸) with polynomial 0x11D (R310) -/

/-- Multiplication by the generator 0x02. -/
def gfX (a : Nat) : Nat := if a < 128 then 2 * a else (2 * a) ^^^ 0x11D

/-- A product, from the low bit of the second factor on. -/
def gfMulN : Nat → Nat → Nat → Nat
  | 0, _, _ => 0
  | n + 1, a, b => (if b % 2 = 1 then a else 0) ^^^ gfMulN n (gfX a) (b / 2)

/-- The product of two bytes. -/
def gfMul (a b : Nat) : Nat := gfMulN 8 a b

/-- A power of the generator. -/
def gfPow : Nat → Nat
  | 0 => 1
  | n + 1 => gfX (gfPow n)

/-- The inverse of a byte: its 254th power. -/
def gfInv (a : Nat) : Nat :=
  let a2 := gfMul a a
  let a4 := gfMul a2 a2
  let a8 := gfMul a4 a4
  let a16 := gfMul a8 a8
  let a32 := gfMul a16 a16
  let a64 := gfMul a32 a32
  let a128 := gfMul a64 a64
  gfMul a2 (gfMul a4 (gfMul a8 (gfMul a16 (gfMul a32 (gfMul a64 a128)))))

/-- A unit as the numbers of its bytes. -/
abbrev UnitBytes := List Nat

/-- The bytewise sum of two units; the shorter counts as padded with zeros. -/
def unitAdd : UnitBytes → UnitBytes → UnitBytes
  | [], bs => bs
  | as, [] => as
  | a :: as, b :: bs => (a ^^^ b) :: unitAdd as bs

/-- A unit times a byte. -/
def unitMul (k : Nat) (u : UnitBytes) : UnitBytes := u.map (gfMul k)

/-- P of data units (R310). -/
def unitP (ds : List UnitBytes) : UnitBytes := ds.foldl unitAdd []

/-- Q of data units with their places in the row (R310). -/
def unitQ (ds : List (Nat × UnitBytes)) : UnitBytes := ds.foldl (fun a e => unitAdd a (unitMul (gfPow e.1) e.2)) []

/-- The 32 units of row r of a list of data units: 30 data units and their parity (R310). -/
def rowUnits (units : List UnitBytes) (r : Nat) : List UnitBytes :=
  let ds := (List.range 30).map (fun j => units.getD (30 * r + j) [])
  ds ++ [unitP ds, unitQ (ds.zipIdx.map (fun e => (e.2, e.1)))]

/-- The data units of a row, from the units of it that are available: with one missing from P, else from Q; with two from
both (R311, R316). None where more are missing. -/
def recoverData (avail : AL Nat UnitBytes) : Option (List UnitBytes) :=
  let have_ (j : Nat) : Bool := (AL.find? j avail).isSome
  let d (j : Nat) : UnitBytes := AL.get [] j avail
  let known := (List.range 30).filter have_
  let ks := known.map (fun j => (j, d j))
  let sumP := unitP (known.map d)
  let sumQ := unitQ ks
  let fill (m : AL Nat UnitBytes) : List UnitBytes := (List.range 30).map (fun j => AL.get (AL.get [] j avail) j m)
  match (List.range 30).filter (fun j => !have_ j) with
  | [] => some (fill [])
  | [a] =>
    if have_ 30 then some (fill [(a, unitAdd sumP (d 30))])
    else if have_ 31 then some (fill [(a, unitMul (gfInv (gfPow a)) (unitAdd sumQ (d 31)))])
    else none
  | [a, b] =>
    if have_ 30 && have_ 31 then
      let p := unitAdd sumP (d 30)
      let q := unitAdd sumQ (d 31)
      let x := unitMul (gfInv (gfPow a ^^^ gfPow b)) (unitAdd q (unitMul (gfPow b) p))
      some (fill [(a, x), (b, unitAdd p x)])
    else none
  | _ => none

/-- A unit of a row rebuilt from the others (R316). -/
def rebuildUnit (avail : AL Nat UnitBytes) (j : Nat) : Option UnitBytes :=
  (recoverData avail).map (fun ds =>
    if j < 30 then ds.getD j [] else if j = 30 then unitP ds else unitQ (ds.zipIdx.map (fun e => (e.2, e.1))))

/-- Grove position of a module number (R8). -/
def seatOf (m : Nat) : Nat := m % 32

/-- The position that holds unit j of row r of the writer at position p (R311). -/
def unitSeat (p r j : Nat) : Nat := (p + r + j) % 32

/-! ## Regions of the stripe partition (R312) -/

/-- Units of the stripe partition: partition 5 on every die (R174). -/
def State.stripeUnits (s : State) : Nat :=
  ((List.range 4).map (fun d => bitsOf (s.reg (aPartSize d 5)) 17 0)).foldl (· + ·) 0

/-- Rows reserved in every region but one set of one. -/
def State.rowsElse (s : State) (seat wctx set : Nat) : Nat :=
  (s.ckpt.stripes.map (fun e =>
    ((e.2.rows.filter (fun r => !(decide (e.1 = (seat, wctx)) && r.1 == set))).map (fun r => r.2)).foldl (· + ·) 0)).foldl (· + ·) 0

/-- A region changed. -/
def State.updStripe (s : State) (seat wctx : Nat) (f : StripeRegion → StripeRegion) : State :=
  { s with ckpt := { s.ckpt with stripes := AL.upd ⟨[], []⟩ (seat, wctx) f s.ckpt.stripes } }

/-- STRIPE_RESERVATION_RECEIVE (R312, R433): a holder reserves R units in a set of the writer seat's region if its stripe
partition can take them; the units the set held are gone. A Dormant holder does not answer. -/
def execStripeReservationReceive (writer : ModNo) (wctx : CtxId) (set rows : Nat) (s : State) :
    Host.Outcome State Fault Refusal :=
  .next (
    if decide (s.hub.power = .dormant) || groveOf writer.val != groveOf s.ident then s
    else
      let seat := seatOf writer.val
      if s.rowsElse seat wctx.val set + rows ≤ s.stripeUnits then
        (s.updStripe seat wctx.val (fun r => { r with
          rows := AL.set set rows r.rows, sets := r.sets.filter (fun e => e.1.1 != set) })).send (.stripeAnswer writer.val wctx.val true)
      else s.send (.stripeAnswer writer.val wctx.val false))

/-- STRIPE_UNIT_RECEIVE (R311, R312): accepted only from the module of the seat, into its region, at this module's place in
the row; written, and acknowledged with its CRC-64 once its parity is good. -/
def execStripeUnitReceive (src : ModNo) (wctx : CtxId) (set seat row unit : Nat) (bytes : List Byte) (parityOk : Bool)
    (s : State) : Host.Outcome State Fault Refusal :=
  .next (
    let reserved := match AL.find? (seat, wctx.val) s.ckpt.stripes with
      | some r => AL.get 0 set r.rows
      | none => 0
    if groveOf src.val != groveOf s.ident || seatOf src.val != seat || decide (reserved ≤ row) || decide (32 ≤ unit) ||
        unitSeat seat row unit != seatOf s.ident then s
    else
      let s := s.updStripe seat wctx.val (fun r => { r with sets := AL.set (set, row, unit) (bytes, parityOk) r.sets })
      let die := (pieceDies s.stripePieces (s.stripeIndex seat wctx.val set row) 1).headD 0
      let s := { s with mem := { s.mem with waiting := s.mem.waiting ++ [(die, 5, bytes.length)] } }
      if parityOk then s.send (.stripeAck src.val wctx.val row unit (crc64 bytes)) else s)

/-- STRIPE_REGION_RELEASE_RECEIVE (R312): the writer's regions for a context are freed. -/
def execStripeRegionReleaseReceive (writer : ModNo) (wctx : CtxId) (s : State) : Host.Outcome State Fault Refusal :=
  .next (
    if groveOf writer.val = groveOf s.ident then
      { s with ckpt := { s.ckpt with stripes := AL.del (seatOf writer.val, wctx.val) s.ckpt.stripes } }
    else s)

/-- A rebuilt unit written into its region, if the stripe partition holds it (R186, R312). -/
def State.putRebuilt (s : State) (e : RebuildUnit) : State :=
  let rows := max (AL.get 0 e.set (AL.get (⟨[], []⟩ : StripeRegion) (e.seat, e.wctx) s.ckpt.stripes).rows) (e.row + 1)
  if s.stripeUnits < s.rowsElse e.seat e.wctx e.set + rows then s
  else
  match rebuildUnit (e.avail.map (fun u => (u.1, u.2.map BitVec.toNat))) e.unit with
  | some b =>
    s.updStripe e.seat e.wctx (fun r => { r with
      rows := AL.set e.set rows r.rows
      sets := AL.set (e.set, e.row, e.unit) (b.map (BitVec.ofNat 8), true) r.sets })
  | none => s

/-- STRIPE_REBUILD_ORDER (R316): the sets held in this module's own stripe partition are discarded, and the lost identity's
units are rebuilt from the other units of their rows. The rebuild is done whole here. -/
def execStripeRebuildOrder (issuer : ModNo) (lost : List RebuildUnit) (s : State) : Host.Outcome State Fault Refusal :=
  .next (
    if groveOf issuer.val ≠ groveOf s.ident then { s with grove := { s.grove with badOrders := s.grove.badOrders + 1 } }
    else lost.foldl State.putRebuilt { s with ckpt := { s.ckpt with stripes := [] } })

end Sys2Proof.Machine
end

