-- ==== Sys2Proof/Machine/Checkpoint.lean ====
section
/-! DEFINITION. Checkpoints: descriptors, quick copy, drains to the seedbank and to grove stripes, completion, exports and
imports of snapshots (R296–R303, R307–R315, R320–R322). -/

namespace Sys2Proof.Machine

/-- CHECKPOINT (R296): a step at or below the committed version completes at once with CKPT_STEP_PAST; a later one is
named. -/
def execCheckpoint (c : CtxId) (s : State) : Host.Outcome State Fault Refusal :=
  .next (
    match s.headOf c .service .checkpoint with
    | none => s
    | some q =>
      if dStep q.bytes ≤ (s.ctx c).committed then s.effectDone c .service q .ckptStepPast 0
      else (s.takeEffect c .service q).updCtx c (fun x => { x with ckptNamed := x.ckptNamed ++ [(dStep q.bytes, q.index)] }))

/-- The reference of a quick copy on its slot dropped (R150, R300). -/
def Ctx.dropCopyRef (x : Ctx) (i : Fin 3) : Ctx :=
  let t : Slot := AL.get {} i x.live
  { x with live := AL.set i { t with readers := t.readers - 1, snapRef := false } x.live }

/-- CHECKPOINT_BUSY_REDUCED (R299, R300): a reduced flag of 0 starts the quick copy of the version whose commit made the
checkpoint due; 1 postpones the checkpoint. The all-reduces end in the order of the commits. -/
def execCheckpointBusyReduced (c : CtxId) (busy : Bool) (s : State) : Host.Outcome State Fault Refusal :=
  .next (
    let x := s.ctx c
    match x.ckptDue with
    | [] => s
    | n :: rest =>
      let i := slotIx x n
      if busy || x.quick.isSome then
        let s' := s.updCtx c (fun x => { (x.dropCopyRef i) with ckptDue := rest, postponed := true })
        if x.postponed then s' else s'.eventFull (setOf c) .ckptPostponed .none false n 0 .event none
      else
        let data := (AL.get {} i x.live : Slot).data
        let blocks := (x.prog.map (fun p => p.slotUnits)).getD 0
        s.updCtx c (fun x => { x with
          ckptDue := rest, postponed := false, snapshot := none
          quick := some ⟨n, i, data, List.replicate blocks false⟩ }))

/-! ## Drains -/

/-- MODE of a context's checkpoints (R297). -/
def State.ckptMode (s : State) (c : CtxId) : Nat := bitsOf (s.reg (aCkptPol c.val)) 1 0

/-- Seedbank slots that may not be rewritten (R309): the newest complete S image of any context, and those being
written. -/
def State.seedBusy (s : State) (i : Nat) : Bool :=
  (match AL.find? i s.ckpt.seed with
    | some e => e.valid && (s.ctx e.ctx).newestS == some e.step
    | none => false) ||
  s.ctxs.any (fun e => match e.2.drain with
    | some d => d.sDone.isNone && d.sSlot == some i
    | none => false)

/-- The S drain starts: the lowest-numbered slot it may use, which it deallocates first; with none, or a seedbank whose port
failed its initialisation, it is abandoned (R308, R309). -/
def State.startSeed (s : State) (c : CtxId) : State :=
  match (List.range (if s.ckpt.seedBad then 0 else bitsOf (s.reg aCkptCfg) 3 0)).find? (fun i => !s.seedBusy i) with
  | some i => s.updDrain c (fun d => { d with sSlot := some i, sStage := 0, sErrors := 0 })
  | none => (s.updDrain c (fun d => { d with sDone := some false })).event (setOf c) .ckptSeedbankError .none

/-- Data units of a G drain: the header and the body in 2 MiB (R310). -/
def gUnits (p : Program) (writer step : Nat) (d : SlotData) : List (List Byte) :=
  let body := slotBody p d
  blocksOf (imageHeader p writer step body.length d.t ++ body)

/-- The G drain starts: its units are reserved on every holder in the set that does not hold the newest complete G
checkpoint (R310, R312). -/
def State.startStripe (s : State) (c : CtxId) (p : Program) (f : Frozen) : State :=
  let rows := cdiv (gUnits p s.ident f.step f.data).length 30
  let set := (1 - (s.ctx c).gSetNewest)
  (s.updDrain c (fun d => { d with gRows := rows, gSet := set, gBad := [], gWait := [] })).send (.stripeReserve c set rows)

/-- The drains of a frozen snapshot start on the writer of record (R303): those its mode names; a destination the mode does
not name has ended without a receipt (log 28). -/
def State.startDrains (s : State) (c : CtxId) (p : Program) (f : Frozen) : State :=
  let mode := s.ckptMode c
  let sOn := mode == 1 || mode == 3
  let gOn := mode == 2 || mode == 3
  let none_ (on : Bool) : Option Bool := if on then none else some false
  let s := s.updCtx c (fun x => { x with drain := some ⟨f.step, none, 0, 0, none_ sOn, 0, 0, [], [], none_ gOn, false⟩ })
  let s := if sOn then s.startSeed c else s
  let s := if gOn then s.startStripe c p f else s
  s.drainContribute c

/-- QUICK_COPY_COMPLETE (R300, R302, R303): the snapshot is frozen and the reference dropped; the writer of record of the
shard starts its drains, every other module contributes 1 for both destinations (R314). -/
def execQuickCopyComplete (c : CtxId) (s : State) : Host.Outcome State Fault Refusal :=
  .next (
    let x := s.ctx c
    match x.quick, x.prog with
    | some q, some p =>
      match s.badUpset (fun _ l => match l with
        | .live d j _ => decide (d = c) && decide (j = q.slot)
        | _ => false) with
      | some s' => s'
      | none =>
      let f : Frozen := ⟨q.step, q.data, shardDigest p s.ident q.step q.data, false⟩
      let s := (s.chargePart c 4 (2 * 2097152 * p.slotUnits)).updCtx c (fun x => { (x.dropCopyRef q.slot) with quick := none, snapshot := some f })
      if writerOf p x.lostMods (shardOf p s.ident) = some s.ident then s.startDrains c p f
      else s.send (.contribute c (.ckptDone q.step) 3)
    | _, _ => s)

/-- An S drain is abandoned (R309, R411). -/
def State.abandonSeed (s : State) (c : CtxId) (st : Status) : State :=
  ((s.updDrain c (fun d => { d with sDone := some false })).event (setOf c) st .none).drainContribute c

/-- A G drain is abandoned (R313, R411). -/
def State.abandonStripe (s : State) (c : CtxId) (st : Status) : State :=
  ((s.updDrain c (fun d => { d with gDone := some false, gWait := [] })).event (setOf c) st .none).drainContribute c

/-- A receipt for a destination, if the identity key is available (R307, R411). -/
def State.receiptFor (s : State) (c : CtxId) (p : Program) (dest : Dest) (degraded : Nat) (f : Frozen) : Option State :=
  if s.mss.idKey then some (s.issueReceipt c p dest degraded f.step f.data).2 else none

/-- The commit block of an S drain is written: the image is valid and the receipt issued (R307, R309). -/
def State.seedCommitted (s : State) (c : CtxId) (slot : Nat) (p : Program) (f : Frozen) : State :=
  match s.receiptFor c p .s 0 f with
  | none => s.abandonSeed c .ckptNoIdentity
  | some s =>
    let e : SeedSlot := ⟨c, f.step, shardImage p s.ident f.step f.data, s.receiptOf c p .s 0 f.step f.data, true⟩
    let s := { s with ckpt := { s.ckpt with seed := AL.set slot e s.ckpt.seed } }
    (s.updDrain c (fun d => { d with sDone := some true })).drainContribute c

/-- SEEDBANK_COMMAND_COMPLETE (R309): deallocate, write, flush and commit block in turn; a command that fails is retried, and
the third failure abandons the drain. -/
def execSeedbankCommandComplete (c : CtxId) (ok : Bool) (s : State) : Host.Outcome State Fault Refusal :=
  .next (
    let x := s.ctx c
    match x.drain, x.prog, x.snapshot with
    | some d, some p, some f =>
      match d.sDone, d.sSlot with
      | none, some i =>
        match (if d.sStage = 1 then s.badUpset (fun _ l => match l with
          | .snapshot e _ => decide (e = c)
          | _ => false) else none) with
        | some s' => s'
        | none =>
        if !ok then
          if 2 ≤ d.sErrors then s.abandonSeed c .ckptSeedbankError
          else s.updDrain c (fun d => { d with sErrors := d.sErrors + 1 })
        else if d.sStage = 0 then
          { s with ckpt := { s.ckpt with seed := AL.del i s.ckpt.seed } }.updDrain c (fun d => { d with sStage := 1, sErrors := 0 })
        else if d.sStage < 3 then (if d.sStage = 1 then s.chargePart c 4 (2097152 * p.slotUnits) else s).updDrain c (fun d => { d with sStage := d.sStage + 1, sErrors := 0 })
        else s.seedCommitted c i p f
      | _, _ => s
    | _, _, _ => s)

/-- The G drain ends once no acknowledgement is due: its receipt carries the degraded count (R312, R313). -/
def State.stripeEnd (s : State) (c : CtxId) : State :=
  let x := s.ctx c
  match x.drain, x.prog, x.snapshot with
  | some d, some p, some f =>
    if d.gDone.isSome then s
    else if 2 < d.gBad.length then s.abandonStripe c .ckptStripeDegraded
    else if !d.gWait.isEmpty then s
    else
      match s.receiptFor c p .g d.gBad.length f with
      | none => s.abandonStripe c .ckptNoIdentity
      | some s => (s.updDrain c (fun d => { d with gDone := some true })).drainContribute c
  | _, _, _ => s

/-- STRIPE_RESERVATION_REPLY_RECEIVE (R312, R313): positions that did not grant are unavailable; with more than two the drain
is abandoned, else every unit goes to its holder. `answers` are the positions that answered, and whether they granted. -/
def execStripeReservationReplyReceive (c : CtxId) (answers : List (Nat × Bool)) (s : State) :
    Host.Outcome State Fault Refusal :=
  .next (
    let x := s.ctx c
    match x.drain, x.prog, x.snapshot with
    | some d, some p, some f =>
      if d.gDone.isSome || !d.gWait.isEmpty then s
      else
        match s.badUpset (fun _ l => match l with
          | .snapshot e _ => decide (e = c)
          | _ => false) with
        | some s' => s'
        | none =>
        let s := s.chargePart c 4 (2097152 * p.slotUnits)
        let bad := (List.range 32).filter (fun q => !answers.any (fun a => a.1 == q && a.2))
        if 2 < bad.length then (s.updDrain c (fun d => { d with gBad := bad })).stripeEnd c
        else
          let data := (gUnits p s.ident f.step f.data).map (fun u => u.map BitVec.toNat)
          let me := seatOf s.ident
          let all : List (Nat × Nat) := (List.range d.gRows).flatMap (fun r => (List.range 32).map (fun j => (r, j)))
          let due := all.filter (fun e => !bad.contains (unitSeat me e.1 e.2))
          let s := s.updDrain c (fun d => { d with gBad := bad, gWait := due })
          let s := due.foldl (fun (s : State) e =>
            let rcv := 32 * groveOf s.ident + unitSeat me e.1 e.2
            s.send (.stripeUnit c rcv d.gSet me e.1 e.2 (((rowUnits data e.1).getD e.2 []).map (BitVec.ofNat 8)))) s
          s.stripeEnd c
    | _, _, _ => s)

/-- A position counts as degraded for a G drain: its units are no longer awaited (R313). -/
def State.stripeLoses (s : State) (c : CtxId) (pos : Nat) : State :=
  let me := seatOf s.ident
  let s := s.updDrain c (fun d => if d.gDone.isSome then d else { d with
    gBad := if d.gBad.contains pos then d.gBad else d.gBad ++ [pos]
    gWait := d.gWait.filter (fun e => unitSeat me e.1 e.2 != pos) })
  s.stripeEnd c

/-- STRIPE_ACK_RECEIVE (R312, R313): a unit is durable; one whose CRC-64 is wrong makes its position count as degraded. -/
def execStripeAckReceive (c : CtxId) (pos row unit : Nat) (crcOk : Bool) (s : State) : Host.Outcome State Fault Refusal :=
  .next (
    match (s.ctx c).drain with
    | some d =>
      if d.gDone.isSome || unitSeat (seatOf s.ident) row unit != pos || !d.gWait.contains (row, unit) then s
      else if crcOk then (s.updDrain c (fun d => { d with gWait := d.gWait.filter (fun e => e != (row, unit)) })).stripeEnd c
      else s.stripeLoses c pos
    | none => s)

/-- CHECKPOINT_COMPLETION_REDUCED (R314): the reduced bits mark the checkpoint of a step per destination; CHECKPOINT_DONE is
posted and the descriptors that named the step, or one the postponement merged into it, complete (R299). -/
def execCheckpointCompletionReduced (c : CtxId) (step : Nat) (sBit g : Bool) (s : State) :
    Host.Outcome State Fault Refusal :=
  .next (
    let x := s.ctx c
    if x.committed < step || x.quick.isSome then s
    else
      let bits := sBit.toNat + 2 * g.toNat
      let mine := x.ckptNamed.filter (fun e => decide (e.1 ≤ step))
      let s := s.updCtx c (fun x => { x with
        newestS := if sBit then some step else x.newestS, newestG := if g then some step else x.newestG
        gSetNewest := match x.drain with
          | some d => if g && d.gDone == some true then d.gSet else x.gSetNewest
          | none => x.gSetNewest
        gLost := match x.drain with
          | some d => if g && d.gDone == some true then AL.set d.gSet d.gBad x.gLost else x.gLost
          | none => x.gLost
        drain := none, ckptNamed := x.ckptNamed.filter (fun e => decide (step < e.1)) })
      let s := s.eventFull (setOf c) .checkpointDone (.count bits) false step 0 .event none
      mine.foldl (fun (s : State) (e : Nat × BitVec 32) =>
        let tag := (((s.ring (setOf c)).service.flow.find? (fun f => f.index == e.2)).map (·.userTag)).getD 0
        s.finishDone c .service e.2 tag step .success bits) s)

/-- A RESTORE or a debug token during a drain abandons it; its slot or set is invalid (R486 of chapter 17). -/
def State.abandonDrain (s : State) (c : CtxId) : State :=
  if (s.ctx c).draining then (s.event (setOf c) .ckptAbandoned .none).endDrain c else s

/-- A module of the clearing is lost (R313–R315): its position counts as degraded in a running G drain; the lowest-numbered
surviving replica of its shard becomes the writer of record of the checkpoint and drains its own snapshot. -/
def State.drainLoses (s : State) (c : CtxId) (m : Nat) : State :=
  let s := if groveOf m = groveOf s.ident then s.stripeLoses c (seatOf m) else s
  let x := s.ctx c
  match x.prog, x.snapshot with
  | some p, some f =>
    let shard := shardOf p s.ident
    let before := writerOf p (x.lostMods.filter (fun k => k != m)) shard
    let started := x.newestS == some f.step || x.newestG == some f.step
    if before = some m ∧ writerOf p x.lostMods shard = some s.ident ∧ x.drain.isNone = true ∧ started = false then s.startDrains c p f
    else s
  | _, _ => s

/-! ## Exports and imports (R320–R322) -/

/-- EXPORT_SNAPSHOT (R320–R322): the frozen snapshot of the named step goes to window pages, or to a module of another
clearing, with an E receipt; `accepted` says whether that module takes it before the peer timeout. -/
def execExportSnapshot (c : CtxId) (accepted : Bool) (s : State) : Host.Outcome State Fault Refusal :=
  .next (
    match s.headOf c .service .exportSnapshot with
    | none => s
    | some q =>
      let x := s.ctx c
      if x.quick.isSome then s.effectDone c .service q .exportBusy 0
      else
        match x.snapshot, x.prog with
        | some f, some p =>
          if f.step ≠ dStep q.bytes then s.effectDone c .service q .exportStepAbsent 0
          else
            let withReceipt (s : State) : State := (s.receiptFor c p .e 0 f).getD s
            if dTarget q.bytes = 0 then
              let n := dLen q.bytes
              let w := dWindowPage q.bytes
              let s := s.vacate w n
              if !s.vacant w n then s
              else
              let s := (withReceipt (s.takeEffect c .service q)).updCtx c (fun x => { x with exports := x.exports ++ [(w, n, q.index)] })
              (List.range n).foldl (fun (s : State) i =>
                { s with cxl := { s.cxl with window := AL.set (w + i) (.exported c (dFirst q.bytes + i)) s.cxl.window } }) s
            else if accepted then
              ((withReceipt s).effectDone c .service q .success 0).send
                (.exportImage c (dDestModule q.bytes) (dDestClearing q.bytes) f.step)
            else s.effectDone c .service q .exportRefused 0
        | _, _ => s.effectDone c .service q .exportStepAbsent 0)

/-- EXPORT_RELEASE (R321, R387): the exported pages of a range are back-invalidated and unmapped; the export ends with the
last of its pages. -/
def execExportRelease (c : CtxId) (s : State) : Host.Outcome State Fault Refusal :=
  .next (
    match s.headOf c .service .exportRelease with
    | none => s
    | some q =>
      let pages := ((List.range (dLen q.bytes)).map (dWindowPage q.bytes + ·)).filter (fun w => match s.winPage w with
        | .exported d _ => decide (d = c)
        | _ => false)
      s.leaveFor c q pages)

/-- IMPORT_SNAPSHOT (R322): the context declares the image it will accept. -/
def execImportSnapshot (c : CtxId) (s : State) : Host.Outcome State Fault Refusal :=
  .next (
    match s.headOf c .service .importSnapshot with
    | none => s
    | some q =>
      (s.takeEffect c .service q).updCtx c (fun x => { x with
        imported := some (dSrcModule q.bytes, dSrcClearing q.bytes, dStep q.bytes, dShard q.bytes, q.index) }))

/-- EXPORT_IMAGE_RECEIVE (R322): an image is accepted into the snapshot if the context awaits it and its own snapshot is not
busy; it is verified against its E receipt. -/
def execExportImageReceive (c : CtxId) (src : ModNo) (srcClearing : Nat) (receipt : Receipt) (sigOk : Bool)
    (image : ShardImage) (s : State) : Host.Outcome State Fault Refusal :=
  .next (
    match (s.ctx c).imported with
    | none => s
    | some (m, k, n, shard, ix) =>
      if m ≠ src.val ∨ k ≠ srcClearing ∨ n ≠ image.step ∨ shard ≠ image.shard ∨ s.snapshotBusy c = true then s
      else
        let st : Status :=
          if !sigOk || decide (receipt.dest ≠ .e) then .restoreReceiptInvalid
          else if receipt.step ≠ image.step then .restoreStepMismatch
          else if receipt.shard ≠ image.shard ∨ receipt.shapeHash ≠ image.shapeHash then .restoreShapeMismatch
          else if receipt.acr ≠ image.acr then .restoreAcrMismatch
          else if receipt.digest ≠ image.digest ∨ image.leavesOk = false then .restoreDigestMismatch
          else .success
        let s := s.updCtx c (fun x => { x with
          imported := none
          snapshot := if st = .success then some ⟨image.step, image.data, image.digest, true⟩ else x.snapshot })
        let tag := (((s.ring (setOf c)).service.flow.find? (fun f => f.index == ix)).map (·.userTag)).getD 0
        s.finishDone c .service ix tag n st 0)

end Sys2Proof.Machine
end

