-- ==== Sys2Proof/Machine/EndOfLife.lean ====
section
/-! DEFINITION. What the command processor does about a worn unit that the MSS names (R286). -/

namespace Sys2Proof.Machine

/-- A worn laser channel or port is replaced at the next step boundary, or now if no step is provisional (R286). -/
def State.eolWait (s : State) (u : WearUnit) : State :=
  if s.noSteps then s.eolMove u else { s with hub := { s.hub with eolDue := s.hub.eolDue ++ [u] } }

/-- The acceptance test of a worn core's spare starts at once: of the lowest-numbered of its kind and die that has not passed one (R286). -/
def State.acceptNext (s : State) (k : CoreId) : State :=
  match s.sparesOf k.die (Config.scanCapable k.num.val) (fun x => !x.accepted && !x.accepting) with
  | r :: _ => s.beginAcceptance r
  | [] => s

/-- What a prediction below the threshold starts (R286): a graft, a map-out, a laser swap, a fence; or no spare is left. -/
def State.eolAct (s : State) (u : WearUnit) : State :=
  match u with
  | .core k =>
    if (s.core k).status = .fenced then s
    else if (s.core k).status = .spare then s.updCore k (fun x => { x with toGraft := true })
    else if s.spareLeft k then (s.updCore k (fun x => { x with toGraft := true })).acceptNext k
    else s.eolNoSpare u
  | .channel d i =>
    match s.logicalFor (d.val, i) with
    | some l =>
      if (s.replacement d.val).isSome then s.mapoutTrigger l.1 l.2 true
      else s.eolNoSpare u
    | none => s
  | .laser ld ch =>
    match s.laserSt ld.val ch with
    | .feeds _ => if (List.range 24).any (fun k => decide (s.laserSt ld.val k = .spare)) then s.eolWait u else s.eolNoSpare u
    | .spare | .failed => s
  | .port _ => s.eolWait u
  | .hub | .linkDie _ | .mssUnit => s.eolNoSpare u

end Sys2Proof.Machine
end

