-- ==== Sys2Proof/Machine/Profiles.lean ====
section
/-! DEFINITION. Profiles: validity, selection at run time and at a cold start (R393–R399, R455). -/

namespace Sys2Proof.Machine

/-- The values a profile gives the registers now: the fields of a fed register that the profile does not supply keep
their active values (R393, R298). -/
def State.profileVals (s : State) (p : Profile) : AL Nat Word :=
  (profileRegs p).map (fun (e : Nat × Nat) =>
    (e.1, BitVec.ofNat 32 (if e.1 = aCkptCfg then e.2 % 16 + 16 * bitsOf (s.reg aCkptCfg) 15 4 else e.2)))

/-- The first bank that refuses a profile's values, by its commit rules (R394, R397). -/
def State.profileRefused (s : State) (p : Profile) : Option Bank :=
  let v := s.profileVals p
  profileBanks.find? (fun b => ((valueRules b (s.under v) []) ++ s.stateRules b 0 (s.under v)).any (fun r => r.1))

/-- A profile is valid for its slot (R394). -/
def State.profileValid (s : State) (slot : Fin 4) : Option Profile :=
  match AL.find? slot s.mss.profiles with
  | some p => if p.sigOk && p.number == slot.val && (s.profileRefused p).isNone then some p else none
  | none => none

/-- A selection is requested: it waits for the job boundary (R397, R399). -/
def State.requestProfile (s : State) (slot : Fin 4) : State := { s with mss := { s.mss with selecting := some slot } }

/-- A write of MSS_PROFILE_CTL (R399): SELECT is kept, GO requests its selection. -/
def State.profileWrite (s : State) (w : Nat) : State :=
  let slot : Fin 4 := Fin.ofNat 4 w
  let s := { s with mss := { s.mss with select := slot } }
  if bitOf w 2 then s.requestProfile slot else s

/-- A bank as a profile's commit leaves it (R455): applied with TAG 0, its staging copy reloaded; a commit given after the
selection stays pending. -/
def State.profileBank (s : State) (b : Bank) : State :=
  let dirty := (s.regs.known b).any (fun a => s.regs.stg a != s.regs.val a)
  (s.updBank b (fun k => if k.pending.isSome then { k with superseded := k.superseded || dirty, afterSel := false }
    else { k with state := 2, tag := 0, superseded := k.superseded || dirty })).discardStaged b

/-- Host commits still pending on a bank from before the selection apply at the job boundary (R397, R455). -/
def State.applyPending (s : State) (b : Bank) : State :=
  let k := s.regs.bank b
  match k.pending with
  | some (_, units) => if k.afterSel then s else units.foldl (fun (s : State) u => s.applyUnit b u) s
  | none => s

/-- Commits given after the selection that apply at once do so now that it has been decided (R455). -/
def State.applyBehind (s : State) : State :=
  profileBanks.foldl (fun (s : State) b =>
    match (s.regs.bank b).pending with
    | some (_, units) => if atOnce b && !s.bankWaits b then units.foldl (fun (s : State) u => s.applyUnit b u) s else s
    | none => s) s

/-- PROFILE_SELECT_APPLY (R397, R455): the job boundary of a selection: pending host commits apply, then the profile's banks
all together; if the profile is not valid or a bank refuses, none changes. -/
def execProfileSelectApply (s : State) : Host.Outcome State Fault Refusal :=
  .next (
    match s.mss.selecting with
    | none => s
    | some slot =>
      if s.anyLoaded || s.inReset .mss || s.hub.mssLost then s
      else
        let s := profileBanks.foldl State.applyPending s
        let s := { s with mss := { s.mss with selecting := none } }
        match s.profileValid slot with
        | some p =>
          let s0 := s
          let s := profileBanks.foldl State.profileBank s
          let s := { s with
            regs := { s.regs with active := (s.profileVals p).foldl (fun (m : AL Nat Word) (e : Nat × Word) => AL.set e.1 e.2 m) s.regs.active }
            mss := { s.mss with profile := some p, activeSlot := slot } }
          (profileBanks.foldl (fun (s : State) b => s0.applied s b) s).applyBehind
        | none =>
          let s := match (AL.find? slot s.mss.profiles).bind s.profileRefused with
            | some b => s.updBank b (fun k => { k with state := 3, tag := 0 })
            | none => s
          (s.modEvent .profileInvalid).applyBehind)

/-- The profile a cold start takes: the slot the pins name, if it is valid; else none, with PROFILE_INVALID (R395, R459). -/
def State.startProfile (s : State) (sel : Fin 4) : State :=
  match s.profileValid sel with
  | some p => { s with mss := { s.mss with profile := some p, activeSlot := sel, select := 0 }, regs := resetRegs (some p) }
  | none =>
    { s with mss := { s.mss with profile := none, activeSlot := sel, select := 0 }, regs := {} }.addLog .event .informational
      .profileInvalid [sel.val] none

/-- The state a cold reset starts in, with its profile (R264, R395, R426, R428). -/
def State.coldStart (s : State) (sel : Fin 4) : State := (s.coldReset sel).startProfile sel

end Sys2Proof.Machine
end

