-- ==== Sys2Proof/Machine/Mailbox.lean ====
section
/-! DEFINITION. The MSS mailbox and the MSS registers that cross it (R20, R22, R399, R452, R458). -/

namespace Sys2Proof.Machine

/-- A staged register written: only its staged bits change, in the staging copy (R448, R451). -/
def State.stageWrite (s : State) (a : Nat) (v : Word) : State :=
  match regInfo a with
  | some i =>
    let m := BitVec.ofNat 32 i.mask
    { s with regs := { s.regs with staged := AL.set a ((v &&& m) ||| (s.regs.stg a &&& ~~~m)) s.regs.staged } }
  | none => s

/-- A write of a bank's control registers (R452): COMMIT at +0, BSTAT at +4. GO and DISCARD together do nothing. -/
def State.bankWrite (s : State) (b : Bank) (o : Nat) (v : Nat) : State :=
  if o = 0 then
    if bitOf v 0 && !bitOf v 1 then s.commitGo b (bitsOf v 31 16)
    else if bitOf v 1 && !bitOf v 0 then s.discardStaged b
    else s
  else if o = 4 ∧ bitOf v 3 = true then s.updBank b (fun k => { k with superseded := false })
  else s

/-- The bank whose control registers hold an address. -/
def bankAt (a : Nat) : Option Bank := allBanks.find? (fun b => decide (bankBase b ≤ a) && decide (a < bankBase b + 16))

/-- An MSS_ register write as the MSS takes it. -/
def State.mssWrite (s : State) (a : Nat) (v : Word) : State :=
  if a = 0x1400100 then s.profileWrite v.toNat
  else
    match bankAt a with
    | some b => s.bankWrite b (a - bankBase b) v.toNat
    | none => s.stageWrite a v

/-- The MSS takes one message; a reply to a request from before its reset is discarded by its generation (R22). -/
def State.takeMbox (s : State) (m : MboxMsg) : State :=
  match m with
  | .plain (.command n) => { s with hub := { s.hub with mssTook := some n } }
  | .plain (.reply n gen) => if gen = (s.dom .mss).gen then { s with hub := { s.hub with mssTook := some n } } else s
  | .regWrite a v => s.mssWrite a v
  | .logEntry e => s.takeLog e
  | .bump cold n => s.takeBump cold n
  | .mapOut _ _ | .releaseCore _ | .worn _ => s

/-- A core comes back from the pruned list: to the active set if that has room at this step boundary, else as a spare (R19,
R244). -/
def State.returnCore (s : State) (core : CoreId) : State :=
  let role : CoreStatus := if s.activeRoom core && s.atBoundary then .active else .spare
  let s := { s with cores := { s.cores with pruned := s.cores.pruned.filter (fun k => k != core) } }
  s.updCore core (fun x => { x with status := role, passedFull := false, toGraft := false })

/-- The command processor takes one message of the MSS (R20, R22): a map-out it commands, a core it releases, a worn unit it has
replaced (R286); a reply to a request from before the command processor's reset is discarded by its generation. -/
def State.takeFromMss (s : State) (m : MboxMsg) : State :=
  match m with
  | .plain (.command n) => { s with hub := { s.hub with cpTook := some n } }
  | .plain (.reply n gen) => if gen = (s.dom .cp).gen then { s with hub := { s.hub with cpTook := some n } } else s
  | .worn u => s.eolAct u
  | .mapOut d ch =>
    match s.logicalFor (d.val, ch) with
    | some l =>
      if s.mem.mapouts.any (fun m => m.die == l.1 && m.logical == l.2) then s else s.mapoutStart l.1 l.2 (AL.get true l s.mem.atTrigger)
    | none => s.fenceChan (d.val, ch)
  | .releaseCore k => if s.cores.pruned.contains k then s.returnCore k else s
  | .regWrite _ _ | .logEntry _ | .bump _ _ => s

/-- Messages wait no longer than their receiver is in reset: those queued are delivered in order, posts that waited for room
follow (R22, R458). -/
def State.deliverMbox (s : State) : State :=
  let s := if s.mssRuns then
      let all := s.hub.toMss ++ ((s.hub.postWait.filter (fun e => e.1)).map (fun e => e.2)) ++
        s.regs.mssHeld.map (fun e => MboxMsg.regWrite e.1 e.2)
      let s := { s with hub := { s.hub with toMss := [], postWait := s.hub.postWait.filter (fun e => !e.1) }, regs := { s.regs with mssHeld := [] } }
      all.foldl State.takeMbox s
    else s
  if s.inReset .cp then s
  else
    let all := s.hub.fromMss ++ (s.hub.postWait.filter (fun e => !e.1)).map (fun e => e.2)
    let s := { s with hub := { s.hub with fromMss := [], postWait := s.hub.postWait.filter (fun e => e.1) } }
    all.foldl State.takeFromMss s

/-- MSS_MAILBOX_MESSAGE (R22): a message of the command processor to the MSS, or of the MSS to it. -/
def execMssMailboxMessage (toMss : Bool) (msg : MailMsg) (s : State) : Host.Outcome State Fault Refusal :=
  .next ((s.postMbox toMss (.plain msg)).deliverMbox)

/-- An MSS_ write posted by the hub (R458): queued while the mailbox has room, held up to 16 beyond that, discarded and
counted after those. -/
def State.postMssWrite (s : State) (a : Nat) (v : Word) : State :=
  if s.hub.toMss.length < 64 ∧ s.regs.mssHeld = [] then s.postMbox true (.regWrite a v)
  else if s.regs.mssHeld.length < 16 then { s with regs := { s.regs with mssHeld := s.regs.mssHeld ++ [(a, v)] } }
  else { s with regs := { s.regs with mssDrops := min 65535 (s.regs.mssDrops + 1) } }

/-- MSS_REGISTER_WRITE (R458): a write of an address of the MSS block. -/
def execMssRegisterWrite (addr : Nat) (v : Word) (s : State) : Host.Outcome State Fault Refusal :=
  .next (if s.barTakes addr = true ∧ blockOf addr = 10 ∧ offsetOf addr < 0x100000 then (s.postMssWrite addr v).deliverMbox else s)

/-- PROFILE_GO (R397, R399, R458): a write of MSS_PROFILE_CTL with GO. -/
def execProfileGo (w : Word) (s : State) : Host.Outcome State Fault Refusal :=
  .next (if s.barTakes 0x1400100 then (s.postMssWrite 0x1400100 w).deliverMbox else s)

/-- A write of a bank's control register: that of an MSS bank crosses the mailbox (R452, R458). -/
def State.bankControl (s : State) (b : Bank) (o : Nat) (v : Word) : State :=
  if !s.barTakes (bankBase b) then s
  else if blockOf (bankBase b) = 10 then (s.postMssWrite (bankBase b + o) v).deliverMbox
  else s.bankWrite b o v.toNat

/-- BANK_COMMIT_GO (R453, R458): GO of a bank with its TAG. -/
def execBankCommitGo (b : Bank) (tag : Nat) (s : State) : Host.Outcome State Fault Refusal :=
  .next (s.bankControl b 0 (BitVec.ofNat 32 (65536 * tag + 1)))

/-- BANK_COMMIT_DISCARD (R452, R458). -/
def execBankCommitDiscard (b : Bank) (s : State) : Host.Outcome State Fault Refusal := .next (s.bankControl b 0 2)

/-- BSTAT_SUPERSEDED_CLEAR (R452, R458): SUPERSEDED is cleared by writing 1. -/
def execBstatSupersededClear (b : Bank) (s : State) : Host.Outcome State Fault Refusal := .next (s.bankControl b 4 8)

end Sys2Proof.Machine
end

