-- ==== Sys2Proof/Machine/Security.lean ====
section
/-! DEFINITION. Security states: answers of the MSS, nonces and debug tokens, the erasure (R390, R417–R420). -/

namespace Sys2Proof.Machine

/-- The MSS answers a request on its transport (R390): completion code 0 for success, 1 otherwise (log 36), the status where
the manual names one, and the values of the answer. -/
def State.answer (s : State) (command : String) (code : Nat) (status : Option Status) (vals : List Nat) : State :=
  { s with mss := { s.mss with response := some ⟨command, code, status, vals, [], [], []⟩ } }

/-- A request that is refused with a status. -/
def State.refuse (s : State) (command : String) (status : Status) : State := s.answer command 1 (some status) []

/-- The MSS serves its OEM, monitoring and SPDM commands: it runs and is not in recovery (R269, R406). -/
def State.mssServes (s : State) : Bool := s.mssRuns && !s.hub.recovery

/-! ## The erasure (R419) -/

/-- A context after every HBM partition has been zeroed. -/
def Ctx.erased (x : Ctx) : Ctx :=
  { x with live := [], mirror := [], keep := [], keepCopy := [], snapshot := none, quick := none, drain := none, logStacks := []
           pushWait := [], takeovers := [], buddyImage := none, pages := [] }

/-- The erasure before DEBUG or TEST (R411, R419): sessions and IDE streams end, keys go, the PUF path is locked, scratchpads,
caches and HBM are zeroed, and the state is set. A drain is abandoned first. DEBUG and TEST are left by a cold reset only
(R417): a token taken in TEST and a run in DEBUG leave the state as it is (DEDUCED, log 46). -/
def State.erase (s : State) (entered : SecState) : State :=
  let s := allCtx.foldl (fun (s : State) c => s.abandonDrain c) s
  { s with
    mss := { s.mss with
      sessions := [], ideOn := [], ideKeys := [], idKey := false, hubKeys := false, pufLocked := true
      security := if s.mss.security = .secure then entered else s.mss.security }
    cores := { s.cores with tbl := s.cores.tbl.map (fun e => (e.1, { e.2 with blocks := [] })) }
    mem := { s.mem with hbm := [], cacheLost := [], targets := [] }
    ckpt := { s.ckpt with stripes := [], blocks := [] }
    ctxs := s.ctxs.map (fun e => (e.1, e.2.erased)) }

/-! ## Debug access (R418) -/

/-- A fresh nonce drawn by the hub's DRBG, and answered (R418 step 1): 256 bits of a free value. -/
def State.drawNonce (s : State) (command : String) : State :=
  let v := s.draw.1 % 2 ^ 256
  let s := s.draw.2
  { s with mss := { s.mss with nonces := s.mss.nonces ++ ([⟨v, false⟩] : List Nonce) } }.answer command 0 none [v]

/-- A token verifies (R418 step 3): the module's serial, a nonce drawn and not yet presented, and its signature. -/
def State.tokenOk (s : State) (t : DebugToken) : Bool :=
  t.sigOk && t.serial == Config.serial && s.mss.nonces.any (fun n => n.value == t.nonce && !n.presented)

/-- A presentation uses its nonce up, whatever comes of it (R418 step 3). -/
def State.useNonce (s : State) (t : DebugToken) : State :=
  let mark (n : Nonce) : Nonce := if n.value = t.nonce then { n with presented := true } else n
  { s with mss := { s.mss with nonces := s.mss.nonces.map mark } }

/-- The log cleared, with its lost-entry count (R392; log 37). -/
def State.wipeLog (s : State) : State := { s with mss := { s.mss with log := [], logLost := 0, platform := [] } }

/-- A token's only scope is LOG_CLEAR (R418 step 4). -/
def onlyLogClear (t : DebugToken) : Bool := t.logClear && t.dies % 256 == 0 && t.level == 0

/-- A debug token presented (R418 steps 3 to 5): refused, carried out as LOG_CLEAR alone (log 38), or the erasure runs and
access opens. -/
def State.presentToken (s : State) (command : String) (t : DebugToken) : State :=
  let ok := s.tokenOk t
  let s := s.useNonce t
  if !ok then (s.addLog .security .informational .debugTokenInvalid [] none).refuse command .debugTokenInvalid
  else if onlyLogClear t then s.wipeLog.answer command 0 none []
  else if s.anyLoaded || s.inClearing then (s.addLog .security .informational .debugBusy [] none).refuse command .debugBusy
  else
    let s := s.erase .debug
    let s := { s with mss := { s.mss with dies := t.dies % 256, level := t.level % 4 } }
    (if t.logClear then s.wipeLog else s).answer command 0 none []

/-- The TAP access a token opened names a die at a level (R418 step 5): bit k of its scope for HD, CD0–CD3, LD0, LD1 and the guest
site, level 1 for boundary scan, 2 for internal access. -/
def State.tapOpen (s : State) (die : Fin 8) (level : Nat) : Bool :=
  decide (s.mss.security = .debug) && s.mss.dies.testBit die.val && decide (s.mss.level = level)

/-- The stand-alone test mode of a die opens in the package only under internal access to it (R440); what the die then runs is
between its IEEE 1687 network and the tester (log 107). -/
def State.dieTestOpens (s : State) (die : Fin 8) : Bool := s.tapOpen die 2

/-- DEBUG_UNLOCK (R414, R418): the OEM command reads a nonce, or presents a token. -/
def execDebugUnlock (token : Option DebugToken) (s : State) : Host.Outcome State Fault Refusal :=
  .next (
    if !s.mssServes then s
    else
      match token with
      | none => s.drawNonce "DebugUnlock"
      | some t => s.presentToken "DebugUnlock" t)

/-- DEBUG_NONCE_READ (R418 step 1): the debug mailbox of a die's TAP, HD first; the guest site is empty (R3). -/
def execDebugNonceRead (tapDie : Fin 8) (s : State) : Host.Outcome State Fault Refusal :=
  .next (if tapDie.val = 7 ∨ s.mssRuns = false then s else s.drawNonce "TAP")

/-- DEBUG_TOKEN_PRESENT (R418): a token presented through the TAP. -/
def execDebugTokenPresent (token : DebugToken) (s : State) : Host.Outcome State Fault Refusal :=
  .next (if s.mssRuns then s.presentToken "TAP" token else s)

/-- CLEAR_LOG (R392, R418): the OEM command with a token of LOG_CLEAR scope. -/
def execClearLog (token : DebugToken) (s : State) : Host.Outcome State Fault Refusal :=
  .next (
    if !s.mssServes then s
    else
      let ok := s.tokenOk token && token.logClear
      let s := s.useNonce token
      if ok then s.wipeLog.answer "ClearLog" 0 none []
      else (s.addLog .security .informational .debugTokenInvalid [] none).refuse "ClearLog" .debugTokenInvalid)

end Sys2Proof.Machine
end

