-- ==== Sys2Proof/Machine/Attestation.lean ====
section
/-! DEFINITION. SPDM and IDE key management (R411–R413, R420, R468). The order of the first three requests and the end of a
session on a bad FINISH are those of the SPDM standard (PRESUMED, log 41). Certificates, digests and signatures are free
values. -/

namespace Sys2Proof.Machine

/-- What a transport has agreed. -/
def State.conn (s : State) (p : SpdmPath) : SpdmConn := AL.get {} p s.mss.conns

/-- What a transport has agreed, changed. -/
def State.updConn (s : State) (p : SpdmPath) (f : SpdmConn → SpdmConn) : State :=
  { s with mss := { s.mss with conns := AL.upd {} p f s.mss.conns } }

/-- An answer with bytes that are a free value: a signature, or a certificate; `empty` where the field is empty (R420). -/
def State.answerBytes (s : State) (command : String) (vals : List Nat) (empty : Bool) : State :=
  let bs : List Byte := if empty then [] else Config.freeBytes s.hub.freeCtr
  let s := s.draw.2
  { s with mss := { s.mss with response := some ⟨command, 0, none, vals, bs, [], []⟩ } }

/-- The transport has agreed on algorithms. -/
def State.agreed (s : State) (p : SpdmPath) : Bool := (s.conn p).algs

/-- A transport operates: in Dormant, MCTP alone (R434). -/
def State.pathOn (s : State) (p : SpdmPath) : Bool := decide (p = .mctp) || decide (s.hub.power ≠ .dormant)

/-- An SPDM request on a transport is answered: the MSS serves it. -/
def State.spdm (s : State) (p : SpdmPath) (f : State → State) : State := if s.mssServes && s.pathOn p then f s else s

/-- The transport of a session; MCTP for one that is not open. -/
def State.sessionPath (s : State) (i : Nat) : SpdmPath := ((AL.find? i s.mss.sessions).map (fun x => x.path)).getD .mctp

/-- GET_VERSION (R412): SPDM 1.3. -/
def execGetVersion (path : SpdmPath) (s : State) : Host.Outcome State Fault Refusal :=
  .next (s.spdm path (fun s => (s.updConn path (fun _ => { version := true })).answer "GET_VERSION" 0 none [0x13]))

/-- GET_CAPABILITIES (R412): after the version; the largest message is 4,096 bytes. -/
def execGetCapabilities (path : SpdmPath) (s : State) : Host.Outcome State Fault Refusal :=
  .next (s.spdm path (fun s =>
    if (s.conn path).version then (s.updConn path (fun c => { c with caps := true })).answer "GET_CAPABILITIES" 0 none [4096]
    else s.answer "GET_CAPABILITIES" 1 none []))

/-- NEGOTIATE_ALGORITHMS (R412): the requester supports the module's one set, or nothing is agreed. -/
def execNegotiateAlgorithms (path : SpdmPath) (supported : Bool) (s : State) : Host.Outcome State Fault Refusal :=
  .next (s.spdm path (fun s =>
    if (s.conn path).caps && supported then
      (s.updConn path (fun c => { c with algs := true })).answer "NEGOTIATE_ALGORITHMS" 0 none []
    else s.answer "NEGOTIATE_ALGORITHMS" 1 none []))

/-- GET_DIGESTS (R412, R420): slot 0 alone holds a chain; its digest is a free value. The answer has no signature of the module's. -/
def execGetDigests (path : SpdmPath) (s : State) : Host.Outcome State Fault Refusal :=
  .next (s.spdm path (fun s =>
    if s.agreed path then s.answerBytes "GET_DIGESTS" [1] false
    else s.answer "GET_DIGESTS" 1 none []))

/-- GET_CERTIFICATE (R404, R411, R412, R420): part of the chain of slot 0, at most 4,096 bytes; other slots are empty. The certificates stand in persistent
state, so the answer is the same in every security state. -/
def execGetCertificate (path : SpdmPath) (slot off len : Nat) (s : State) : Host.Outcome State Fault Refusal :=
  .next (s.spdm path (fun s =>
    if s.agreed path && slot == 0 then
      s.answerBytes "GET_CERTIFICATE" [slot, off, min len 4096] false
    else s.answer "GET_CERTIFICATE" 1 none []))

/-- CHALLENGE (R412, R420): signed by the identity key; outside SECURE it fails. -/
def execChallenge (path : SpdmPath) (slot nonce : Nat) (s : State) : Host.Outcome State Fault Refusal :=
  .next (s.spdm path (fun s =>
    if s.agreed path && slot == 0 && decide (s.mss.security = .secure) && s.mss.idKey then
      s.answerBytes "CHALLENGE" [slot, nonce] false
    else s.answer "CHALLENGE" 1 none []))

/-- The code of a security state (R420). -/
def secCode : SecState → Nat
  | .secure => 0 | .debug => 1 | .test => 2

/-- The raw values of a measurement block; none for a digest (R413). Block 3 without a profile is zero; block 6 tells the
empty guest site of this part (R3). -/
def State.measurement (s : State) (i : Nat) : Option (List Nat) :=
  let b := s.bundle
  match i with
  | 3 => if s.mss.profile.isNone then some (List.replicate 64 0) else none
  | 4 => some [(b.map (·.build)).getD 0, (b.map (·.secVer)).getD 0, s.mss.counter.toNat]
  | 5 => some ((b.map (·.level)).getD 0 :: (b.map (·.acrs)).getD [])
  | 6 => some [secCode s.mss.security, s.hub.coldCount, 0]
  | _ => none

/-- GET_MEASUREMENTS (R413, R420): index 0 asks for the number of blocks; a digest, and the signature, are free values, the
signature empty outside SECURE. -/
def execGetMeasurements (path : SpdmPath) (index : Nat) (s : State) : Host.Outcome State Fault Refusal :=
  .next (s.spdm path (fun s =>
    if !s.agreed path || decide (7 < index) then s.answer "GET_MEASUREMENTS" 1 none []
    else
      let sealed := decide (s.mss.security ≠ .secure)
      if index = 0 then s.answerBytes "GET_MEASUREMENTS" [7] sealed
      else
        match s.measurement index with
        | some vs => s.answerBytes "GET_MEASUREMENTS" (index :: vs) sealed
        | none => s.draw.2.answerBytes "GET_MEASUREMENTS" [index, s.draw.1] sealed))

/-- Sessions a transport may hold (R412): one on each DOE mailbox, two on MCTP. -/
def sessionRoom : SpdmPath → Nat
  | .mctp => 2
  | .doe _ => 1

/-- Sessions on a transport. -/
def State.sessionsOn (s : State) (p : SpdmPath) : Nat :=
  (List.filter (fun (e : Nat × Session) => decide (e.2.path = p)) s.mss.sessions).length

/-- KEY_EXCHANGE (R412, R420): a session opens, if the transport has room and the module is SECURE; its number is the lowest
free one (log 41). -/
def execKeyExchange (path : SpdmPath) (s : State) : Host.Outcome State Fault Refusal :=
  .next (s.spdm path (fun s =>
    let free := (List.range 4).find? (fun i => (AL.find? i s.mss.sessions).isNone)
    match free with
    | some i =>
      if s.agreed path && decide (s.sessionsOn path < sessionRoom path) && decide (s.mss.security = .secure) && s.mss.idKey then
        { s with mss := { s.mss with sessions := AL.set i ⟨path, false, 0⟩ s.mss.sessions } }.answerBytes "KEY_EXCHANGE" [i] false
      else s.answer "KEY_EXCHANGE" 1 none []
    | none => s.answer "KEY_EXCHANGE" 1 none []))

/-- A session ended. -/
def State.dropSession (s : State) (i : Nat) : State := { s with mss := { s.mss with sessions := AL.del i s.mss.sessions } }

/-- FINISH (R412): the session is established, or with a bad MAC ends. -/
def execFinish (session : Nat) (macOk : Bool) (s : State) : Host.Outcome State Fault Refusal :=
  .next (s.spdm (s.sessionPath session) (fun s =>
    match AL.find? session s.mss.sessions with
    | some x =>
      if x.finished then s.answer "FINISH" 1 none []
      else if macOk then
        { s with mss := { s.mss with sessions := AL.set session { x with finished := true } s.mss.sessions } }.answer "FINISH" 0 none []
      else (s.dropSession session).answer "FINISH" 1 none []
    | none => s.answer "FINISH" 1 none []))

/-- An established session. -/
def State.session (s : State) (i : Nat) : Option Session := (AL.find? i s.mss.sessions).filter (fun x => x.finished)

/-- HEARTBEAT (R412). -/
def execHeartbeat (session : Nat) (s : State) : Host.Outcome State Fault Refusal :=
  .next (s.spdm (s.sessionPath session) (fun s => s.answer "HEARTBEAT" (if (s.session session).isSome then 0 else 1) none []))

/-- KEY_UPDATE (R412): the session's keys go on to their next generation. -/
def execKeyUpdate (session : Nat) (s : State) : Host.Outcome State Fault Refusal :=
  .next (s.spdm (s.sessionPath session) (fun s =>
    match s.session session with
    | some x =>
      { s with mss := { s.mss with sessions := AL.set session { x with keyGen := x.keyGen + 1 } s.mss.sessions } }.answer
        "KEY_UPDATE" 0 none []
    | none => s.answer "KEY_UPDATE" 1 none []))

/-- END_SESSION (R412). -/
def execEndSession (session : Nat) (s : State) : Host.Outcome State Fault Refusal :=
  .next (s.spdm (s.sessionPath session) (fun s =>
    if (s.session session).isSome then (s.dropSession session).answer "END_SESSION" 0 none []
    else s.answer "END_SESSION" 1 none []))

/-! ## IDE key management (R412, R468) -/

/-- An IDE_KM request of a port comes within a session on that port's DOE (R412). -/
def State.ideSession (s : State) (session : Nat) (p : HostPort) : Bool :=
  (s.session session).any (fun x => decide (x.path = .doe p))

/-- QUERY (R412): the streams of the port. -/
def execQuery (session : Nat) (p : HostPort) (s : State) : Host.Outcome State Fault Refusal :=
  .next (s.spdm (s.sessionPath session) (fun s =>
    if s.ideSession session p then
      s.answer "QUERY" 0 none [(AL.find? (p, .io) s.mss.ideOn).isSome.toNat, (AL.find? (p, .cachemem) s.mss.ideOn).isSome.toNat]
    else s.answer "QUERY" 1 none []))

/-- KEY_PROG (R412): a key of a key set of a stream. -/
def execKeyProg (session : Nat) (p : HostPort) (st : IdeStream) (keySet key : Nat) (s : State) :
    Host.Outcome State Fault Refusal :=
  .next (s.spdm (s.sessionPath session) (fun s =>
    if s.ideSession session p then
      { s with mss := { s.mss with ideKeys := AL.set (p, st, keySet) key s.mss.ideKeys } }.answer "KEY_PROG" 0 none []
    else s.answer "KEY_PROG" 1 none []))

/-- K_SET_GO (R412, R468): the stream runs with a key set that has been programmed. -/
def execKSetGo (session : Nat) (p : HostPort) (st : IdeStream) (keySet : Nat) (s : State) : Host.Outcome State Fault Refusal :=
  .next (s.spdm (s.sessionPath session) (fun s =>
    if s.ideSession session p && (AL.find? (p, st, keySet) s.mss.ideKeys).isSome then
      { s with mss := { s.mss with ideOn := AL.set (p, st) keySet s.mss.ideOn } }.answer "K_SET_GO" 0 none []
    else s.answer "K_SET_GO" 1 none []))

/-- K_SET_STOP (R412, R468): the stream stops using a key set. -/
def execKSetStop (session : Nat) (p : HostPort) (st : IdeStream) (keySet : Nat) (s : State) : Host.Outcome State Fault Refusal :=
  .next (s.spdm (s.sessionPath session) (fun s =>
    if s.ideSession session p then
      let on := if AL.find? (p, st) s.mss.ideOn = some keySet then AL.del (p, st) s.mss.ideOn else s.mss.ideOn
      { s with mss := { s.mss with ideOn := on } }.answer "K_SET_STOP" 0 none []
    else s.answer "K_SET_STOP" 1 none []))

end Sys2Proof.Machine
end

