-- ==== Sys2Proof/Machine/Flags.lean ====
section
/-! DEFINITION. FP32 and FP64 element operations with the flags they raise (R108–R112), and the function sequences of R53
with the flags of their own operations. -/

namespace Sys2Proof.Machine

/-- A result word with its flags. -/
abbrev Flagged := BitVec 32 × Flags

/-- An exact result rounded to FP32: IV where a NaN arises from inputs that are not NaN, DZ as told (R111). -/
def flagged (ins : List XV) (dz : Bool) (x : XV) : Flagged :=
  let (w, f) := toF32 x
  (w, { f with iv := x.isNan && !ins.any XV.isNan, dz := dz })

/-- The OR of flags. -/
def Flags.all (fs : List Flags) : Flags := fs.foldl Flags.or {}

/-- Sum. -/
def addF (a b : BitVec 32) : Flagged := flagged [f32 a, f32 b] false ((f32 a).add (f32 b))
/-- Sums of neighbours, with their flags. -/
def addPairs : List (BitVec 32) → List Flagged
  | a :: b :: xs => addF a b :: addPairs xs
  | _ => []

/-- The flags of a pairwise sum of `n` levels (R42 step 3). -/
def treeFlags : Nat → List (BitVec 32) → Flags
  | 0, _ => {}
  | n + 1, xs =>
    let es := addPairs xs
    (Flags.all (es.map (fun e => e.2))).or (treeFlags n (es.map (fun e => e.1)))

/-- The flags of the sums of chunks of 64 (R42 steps 2 and 3). -/
def chunkFlags : Nat → List (BitVec 32) → Flags
  | 0, _ => {}
  | n + 1, xs =>
    if xs.isEmpty then {}
    else (treeFlags 6 (xs.take 64 ++ List.replicate (64 - (xs.take 64).length) 0)).or (chunkFlags n (xs.drop 64))

/-- The flags of sums in sequence. -/
def seqFlags : BitVec 32 → List (BitVec 32) → Flags
  | _, [] => {}
  | a, x :: xs => (addF a x).2.or (seqFlags (addF a x).1 xs)

/-- The flags of the FP32 sums of a sequence in the order of R42 and R43, onto an accumulator if there is one (R111). -/
def sumFlags (acc : Option (BitVec 32)) (xs : List (BitVec 32)) : Flags :=
  let cs := chunkSums (xs.length + 1) xs
  (chunkFlags (xs.length + 1) xs).or (match acc, cs with
    | some a, _ => seqFlags a cs
    | none, c :: rest => seqFlags c rest
    | none, [] => {})

/-- Difference. -/
def subF (a b : BitVec 32) : Flagged := flagged [f32 a, f32 b] false ((f32 a).add (f32 b).neg)
/-- Product. -/
def mulF (a b : BitVec 32) : Flagged := flagged [f32 a, f32 b] false ((f32 a).mul (f32 b))
/-- Fused multiply-add, rounded once (R32). -/
def fmaF (a b c : BitVec 32) : Flagged := flagged [f32 a, f32 b, f32 c] false (((f32 a).mul (f32 b)).add (f32 c))

/-- DZ of a quotient: a finite value other than zero divided by a zero (R111). -/
def dzDiv (a b : XV) : Bool := a.isFin && !a.isZero && b.isZero

/-- Quotient. -/
def divF (a b : BitVec 32) : Flagged := flagged [f32 a, f32 b] (dzDiv (f32 a) (f32 b)) ((f32 a).div (f32 b))
/-- Square root. -/
def sqrtF (a : BitVec 32) : Flagged := flagged [f32 a] false (f32 a).sqrt
/-- Reciprocal (R109). -/
def recipF (a : BitVec 32) : Flagged := flagged [f32 a] (f32 a).isZero ((XV.ofInt 1).div (f32 a))
/-- Reciprocal square root (R109). -/
def rsqrtF (a : BitVec 32) : Flagged := flagged [f32 a] (f32 a).isZero (f32 a).rsqrt
/-- exp (R109). -/
def expF (a : BitVec 32) : Flagged := flagged [f32 a] false (f32 a).exp
/-- exp2 (R109). -/
def exp2F (a : BitVec 32) : Flagged := flagged [f32 a] false (f32 a).exp2
/-- log (R109). -/
def logF (a : BitVec 32) : Flagged := flagged [f32 a] (f32 a).isZero (f32 a).log
/-- log2 (R109). -/
def log2F (a : BitVec 32) : Flagged := flagged [f32 a] (f32 a).isZero (f32 a).log2

/-- Absolute value; a NaN becomes the canonical one (R30). -/
def absF (a : BitVec 32) : Flagged := (if (f32 a).isNan then nan32 else a &&& 0x7FFFFFFF, {})
/-- Negation; a NaN becomes the canonical one (R30). -/
def negF (a : BitVec 32) : Flagged := (if (f32 a).isNan then nan32 else a ^^^ 0x80000000, {})

/-- 2 × max(z, 0) with its flags (R53). -/
def sqReluDF (z : BitVec 32) : Flagged := mulF 0x40000000 (fmax z 0)

/-- SiLU′ with its flags (R53). -/
def siluDF (z : BitVec 32) : Flagged :=
  let s := sigmaHat z
  let a := subF one32 s
  let d := mulF s a.1
  let r := fmaF z d.1 s
  (r.1, (a.2.or d.2).or r.2)

/-- GELU′ with its flags (R53). -/
def geluDF (z : BitVec 32) : Flagged :=
  let z2 := mulF z z
  let p := mulF kC2 z
  let q := fmaF kK z2.1 one32
  let v := mulF p.1 q.1
  let s := sigmaHat v.1
  let h := fmaF kK3 z2.1 one32
  let g := mulF kC2 h.1
  let a := subF one32 s
  let d := mulF s a.1
  let zg := mulF z g.1
  let r := fmaF zg.1 d.1 s
  (r.1, [z2.2, p.2, q.2, v.2, h.2, g.2, a.2, d.2, zg.2, r.2].foldl Flags.or {})

/-- SiLU with its flags (R492). -/
def siluFF (z : BitVec 32) : Flagged := mulF z (sigmaHat z)

/-- A product whose factor came with flags. -/
def mulThen (x : BitVec 32) (f : Flagged) : Flagged :=
  let r := mulF x f.1
  (r.1, f.2.or r.2)

/-- A BF16 operation: the FP32 operation on exact inputs, its result rounded once more (R108). -/
def bfOp (f : Flagged) : Nat × Flags :=
  let (c, g) := encodeFp .bf16 (f32 f.1)
  (c, f.2.or { g with iv := false })

/-- An FP64 operation with its flags (R108, R111). -/
def flagged64 (ins : List XV) (dz : Bool) (x : XV) : Nat × Flags :=
  let (c, f) := encodeFp .fp64 x
  (c, { f with iv := x.isNan && !ins.any XV.isNan, dz := dz })

end Sys2Proof.Machine
end

