-- ==== Sys2Proof/Machine/MatrixArray.lean ====
section
/-! DEFINITION. The MX array: passes in front and broadcast mode, accumulation, the drain, the ABFT checks; and reads of
scratchpad blocks with their tags (R34–R42, R67, R87–R101, R121–R125, R141–R143, R227–R233). -/

namespace Sys2Proof.Machine

/-! ## Scratchpad reads (R123–R125) -/

/-- The ten identity bytes of a block (R124). -/
def identBytes (b : BlockIdent) : List Byte :=
  leBytes 2 b.tensor ++ leBytes 1 b.inst ++ leBytes 1 (b.ctx % 16) ++ leBytes 2 b.row ++ leBytes 2 b.col ++ leBytes 2 b.block

/-- The tile tag of a block identity and version (R123, R124). -/
def tileTag (b : BlockIdent) (v : Version) : BitVec 16 :=
  BitVec.ofNat 16 (v.epoch % 2 * 2 ^ 15 + v.step % 8 * 2 ^ 12 + crc12 (identBytes b))

/-- A block nothing has written since reset or its release: its tag and data read as zero (DESIGN CHOICE, log 19). -/
def blankBlock : SpadBlock :=
  { tag := 0, tagOk := true, dataOk := true, whole := true, ident := ⟨0, 0, 0, 0, 0, 0⟩, version := ⟨0, 0⟩, writer := none, bytes := [], halves := [], source := none }

/-- A core's scratchpad block. -/
def CoreSt.block (k : CoreSt) (b : Fin 2048) : SpadBlock := AL.get blankBlock b k.blocks

/-- The record the operations of a step use for a tensor's index: the step's or, outside a step, that of the committed version
(R67, R69). -/
def State.recNow (s : State) (c : CtxId) (n tensor inst : Nat) : Option ScaleRec :=
  match (s.ctx c).stepNo n with
  | some t => recAt t.records tensor inst
  | none => recAt (s.ctx c).committedRecs tensor inst

/-- The step a block written belongs to: the step, or the committed version outside a step (log 108). -/
def State.stepNow (s : State) (c : CtxId) (n : Nat) : Nat :=
  match (s.ctx c).stepNo n with
  | some t => t.number
  | none => (s.ctx c).committed

/-- The step an operation on blocks belongs to: the newest provisional step in FORWARD or BACKWARD that wrote one of them, else the one
the context computes (R152; log 108). -/
def State.opStep (s : State) (p : CoreId) (c : CtxId) (rs : List BlockRef) : Nat :=
  let writers := rs.filterMap (fun r => ((s.core p).block r.block).writer)
  let mine := (writers.filter (fun w => decide (w.1 = c) && ((s.ctx c).stepNo w.2).any (fun t =>
    decide (t.state = .forward) || decide (t.state = .backward)))).map (fun w => w.2)
  mine.foldl max (s.workNo c)

/-- The weight version the operations of a step read: that before it (R152). -/
def State.weightNow (s : State) (c : CtxId) (n : Nat) : Nat :=
  match (s.ctx c).stepNo n with
  | some t => t.number - 1
  | none => (s.ctx c).committed

/-- The version of a block of a tensor (R124): that of its scale record; without one, the weight version of a weight, or the
step that writes it. -/
def State.versionOf (s : State) (c : CtxId) (n : Nat) (b : BlockIdent) : Version :=
  match s.recNow c n b.tensor b.inst with
  | some r => ⟨r.step, r.epoch⟩
  | none =>
    if ((s.ctx c).prog.map (fun p => p.slotTensors.any (fun a => a.tensor == b.tensor))).getD false then ⟨s.weightNow c n, 0⟩
    else ⟨s.stepNow c n, 0⟩

/-- A narrow tensor's record of the step is not sealed: its tiles are not readable (R67, R68). The record of a weight is final
as it is written (R72). -/
def State.unsealed (s : State) (c : CtxId) (n : Nat) (b : BlockIdent) : Bool :=
  match (s.ctx c).stepNo n with
  | none => false
  | some t =>
    match recAt t.records b.tensor b.inst with
    | some r => ((recFmt r).map Fmt.isNarrow).getD false && !r.sealed && !r.weight
    | none => false

/-- Outcomes of a scratchpad read (R122, R125). -/
inductive ReadOut
  | ok | wait | stall | mismatch (expected found : Nat) | parity
  deriving DecidableEq, Repr

/-- A read of a block against the identity and version expected (R67, R122, R125): a partly written block waits; a word parity
error beside a tag mismatch is a tag mismatch. `tile`: the block holds a tile of its tensor, not accumulators. -/
def State.readRef (s : State) (p : CoreId) (c : CtxId) (n : Nat) (tile : Bool) (r : BlockRef) : ReadOut :=
  let b := (s.core p).block r.block
  let want := (tileTag r.ident (s.versionOf c n r.ident)).toNat
  let found := b.tag.toNat
  if b.whole = false then .wait
  else if b.tagOk then
    if found % 4096 ≠ want % 4096 then .mismatch want found
    else if b.dataOk = false then .parity
    else if found ≠ want then .stall
    else if tile && s.unsealed c n r.ident then .stall else .ok
  else .parity

/-- The first read of a list that is not good. -/
def State.readRefs (s : State) (p : CoreId) (c : CtxId) (n : Nat) (tile : Bool) : List BlockRef → Option (BlockRef × ReadOut)
  | [] => none
  | r :: rs => if s.readRef p c n tile r = .ok then s.readRefs p c n tile rs else some (r, s.readRef p c n tile r)

/-- The passes that produce a scratchpad block are outstanding again on its core: those of the output block that write it, and those
that fed the accumulators of a gradient in it (R102, R144, R180). A filled block is filled, a vector formed, by its command again. -/
def State.replayProducer (s : State) (p : CoreId) (c : CtxId) (n : Nat) (r : BlockRef) : State :=
  match (s.ctx c).stepNo n with
  | none => s
  | some t =>
    let made := (t.ran.filter (fun e => decide (e.1 = p) && (e.2.outRefs ++ e.2.outRefs2 ++ e.2.tRefs).contains r)).map (fun e => e.2)
    let lost := t.grads.filter (fun e => decide (e.2.core = p) && e.2.acc.contains r)
    let waits := t.waitGrads.filter (fun w => decide (w.core = p) && (w.src ++ w.acc).contains r)
    let s := s.updStep c n (fun t => { t with
      grads := t.grads.filter (fun e => !(decide (e.2.core = p) && e.2.acc.contains r))
      waitGrads := t.waitGrads.filter (fun w => !(decide (w.core = p) && (w.src ++ w.acc).contains r)) })
    s.rerun c n (fun k o => (decide (k = p) && made.any (fun m => sameBlock m o)) || lost.any (fun e => feedsBlock o e.1.1 e.1.2.2) ||
      waits.any (fun w => feedsBlock o w.tensor w.blk))

/-- A scratchpad block that fails parity is discarded and reported, with a strike against its core; its consumer waits for
the refill or the replay of its producer (R122, R180, R241). -/
def State.spadParity (s : State) (p : CoreId) (c : CtxId) (n : Nat) (r : BlockRef) : State :=
  let b := r.block
  let word := leNat ((((s.core p).block b).bytes.drop (4 * ((s.core p).block b).badWord)).take 4)
  let made : BlockRef := ⟨b, ((s.core p).block b).ident⟩
  let s := s.updCore p (fun x => { x with blocks := AL.upd blankBlock b (fun k => { k with whole := false, tagOk := true, dataOk := true }) x.blocks })
  let s := { s with mem := { s.mem with spadErrs := AL.upd 0 (p, b.val % 16) (· + 1) s.mem.spadErrs } }
  let s := s.addStrike p false
  let s := s.emit (some c) n .scratchpadParity p.die.val { coreSig 0x0F 9 p .corrected with
    ctx := c.val, step := n, attempt := (((s.ctx c).stepNo n).map (·.attempt)).getD 0, strikes := min 3 (s.core p).live.length
    observed := word }
  ((s.replayProducer p c n made).countRepair c).settleStrikes (some c) n

/-- The place of a failed tag check: the block's identity. -/
def blockPlace (b : BlockIdent) : Place := { tensor := b.tensor, inst := b.inst, row := b.row, col := b.col, tile := b.block }

/-- The operation a read belongs to (R88, R237): the output tensor it works on, and what the referee recomputes. -/
structure ReadFor where
  op  : Nat
  fix : Fix := .none

/-- The stall of a tile on the record of a block's tensor (R67, R100). -/
def CoreSt.stallOn (k : CoreSt) (c : CtxId) (n : Nat) (r : BlockRef) : Stall :=
  ⟨c, n, r.ident.tensor, r.ident.inst, (k.block r.block).version⟩

/-- A core with an operation stalled: the array's next pass, or an operation of the other units (R67, R100). -/
def CoreSt.stall (k : CoreSt) (f : Fix) (w : Stall) : CoreSt :=
  match f with
  | .todo .. => { k with mx := { k.mx with stalled := some w } }
  | _ => { k with stalled := some w }

/-- What a consuming tile does when a read is not good (R67, R122, R125): it waits, it stalls, its tag mismatch is arbitrated,
or the block is repaired. -/
def State.badRead (s : State) (p : CoreId) (c : CtxId) (n : Nat) (w : ReadFor) (r : BlockRef) (o : ReadOut) : State :=
  match o with
  | .ok | .wait => s
  | .stall => s.updCore p (fun x => x.stall w.fix (x.stallOn c n r))
  | .mismatch want found => s.checkFailed p c n .tileTag .tagMismatch 0x09 { blockPlace r.ident with op := some w.op } want found
      { fix := if w.fix = .none then .replay r else w.fix, writer := ((s.core p).block r.block).source }
  | .parity => s.spadParity p c n r

/-- Every read of a tile operation: the state with the first bad read acted on, or none where all are good. `tile`: the
blocks hold tiles of their tensors, not accumulator slots. -/
def State.readsBad (s : State) (p : CoreId) (c : CtxId) (n : Nat) (w : ReadFor) (tile : Bool) (rs : List BlockRef) : Option State :=
  match s.readRefs p c n tile rs with
  | some (r, o) => some (s.badRead p c n w r o)
  | none => none

/-- Every read of accumulator slots of a gradient, core by core: the state with the first bad one acted on, or none where all are
good (R18, R125, R144). -/
def State.slotsBad (s : State) (c : CtxId) (n tensor : Nat) : List GradSlot → Option State
  | [] => none
  | a :: as =>
    match s.readsBad a.core c n { op := tensor } false a.acc with
    | some t => some t
    | none => s.slotsBad c n tensor as

/-! ## Runs of blocks (R18, R29, R121–R124) -/

/-- Byte `i` of the run of blocks that references name. -/
def CoreSt.spadByte (k : CoreSt) (rs : List BlockRef) (i : Nat) : Byte :=
  match rs[i / 2048]? with
  | some r => (k.block r.block).bytes.getD (i % 2048) 0
  | none => 0

/-- The `len` bytes of a run from `off` on, as a little-endian number (R9). -/
def CoreSt.spadField (k : CoreSt) (rs : List BlockRef) (off len : Nat) : Nat :=
  leNat ((List.range len).map (fun j => k.spadByte rs (off + j)))

/-- Element `i` of a run packed in elements of `bits` bits, low elements first (R29). -/
def CoreSt.spadElem (k : CoreSt) (rs : List BlockRef) (bits i : Nat) : Nat :=
  if bits < 8 then (k.spadByte rs (i * bits / 8)).toNat / 2 ^ (i * bits % 8) % 2 ^ bits
  else k.spadField rs (i * (bits / 8)) (bits / 8)

/-- The first `n` elements of a run. -/
def CoreSt.spadElems (k : CoreSt) (rs : List BlockRef) (bits n : Nat) : List Nat := (List.range n).map (k.spadElem rs bits)

/-- A block as a unit of a context writes it whole, with its tag (R123, R124). -/
def State.newBlock (s : State) (c : CtxId) (n : Nat) (r : BlockRef) (bytes : List Byte) : SpadBlock :=
  let v := s.versionOf c n r.ident
  ⟨tileTag r.ident v, true, true, true, r.ident, v, some (c, s.stepNow c n), bytes, [0, 1], none, 0⟩

/-- The blocks of a run as it is written whole. -/
def State.runBlocks (s : State) (c : CtxId) (n : Nat) (rs : List BlockRef) (bytes : List Byte) : List (Fin 2048 × SpadBlock) :=
  rs.zipIdx.map (fun e => (e.1.block, s.newBlock c n e.1 ((bytes.drop (2048 * e.2)).take 2048)))

/-- Blocks put into a core's scratchpad. -/
def CoreSt.putBlocks (k : CoreSt) (bs : List (Fin 2048 × SpadBlock)) : CoreSt :=
  { k with blocks := bs.foldl (fun m e => AL.set e.1 e.2 m) k.blocks }

/-- Bytes put into a block from an offset on. Whether the block is whole then is for its writer to say: the unit that writes the
last word writes the tag (R122, R123). -/
def State.partBlock (s : State) (p : CoreId) (c : CtxId) (n : Nat) (d : SlotRef) (bytes : List Byte) : SpadBlock :=
  let old := ((s.core p).block d.ref.block).bytes
  let old := old ++ List.replicate (2048 - old.length) 0
  { s.newBlock c n d.ref ((old.take d.off ++ bytes ++ old.drop (d.off + bytes.length)).take 2048) with
    whole := decide (2048 ≤ d.off + bytes.length), halves := [] }

/-! ## Accumulation (R34–R38, R42) -/

/-- The exponent of a narrow format's unit (R34). -/
def unitExp : Fmt → Int
  | .fp4 => -1
  | .e4m3 => -9
  | .e5m2 => -16
  | _ => 0

/-- A code as an accumulator value: an integer in units of its format, or a class (R34, R38). -/
def codeAcc (f : Fmt) (c : Nat) : Acc :=
  if f.isInt then .int c
  else match decodeFp f c with
    | .nan => .nan false
    | .inf neg => .inf neg
    | .fin neg n d => .int (signedNum neg (n * 2 ^ (unitExp f).natAbs / d))

/-- A product of two codes (R38, R111). -/
def Acc.mul : Acc → Acc → Acc
  | .int a, .int b => .int (a * b)
  | .inf n, .inf m => .inf (n != m)
  | .inf n, .int b => if b = 0 then .nan true else .inf (n != decide (b < 0))
  | .int a, .inf m => if a = 0 then .nan true else .inf (m != decide (a < 0))
  | _, _ => .nan false

/-- A sum of two accumulators: exact, or FP32 (R35, R37, R38, R42). -/
def Acc.add : Acc → Acc → Acc
  | .int a, .int b => .int (a + b)
  | .inf n, .inf m => if n = m then .inf n else .nan true
  | .inf n, .int _ => .inf n
  | .int _, .inf m => .inf m
  | .f32 a, .f32 b => .f32 (fadd a b)
  | .nan i, .nan j => .nan (i && j)
  | .nan i, _ | _, .nan i => .nan i
  | _, _ => .nan true

/-- An exact dot product of codes. -/
def dotExact (fa fw : Fmt) (a w : List Nat) : Acc :=
  ((a.zip w).map (fun e => (codeAcc fa e.1).mul (codeAcc fw e.2))).foldl Acc.add (.int 0)

/-- A BF16 dot product onto the accumulator of the chunks before (R42, R90). -/
def dotBf16 (prev : Option (BitVec 32)) (a w : List Nat) : Acc :=
  let ps := (a.zip w).map (fun e => fmul (bf16To32 e.1) (bf16To32 e.2))
  match prev with
  | none => .f32 (sumFixed ps)
  | some z => .f32 (addChunks z (chunkSums (ps.length + 1) ps))

/-- Output columns of a pass: those of its tile that are not disabled (R88). -/
def passCols (p : Pass) : Nat := (p.tile.map List.length).foldl max 0

/-- Column n of a pass's tile. -/
def passCol (p : Pass) (n : Nat) : List Nat := p.tile.map (fun r => r.getD n 0)

/-- A pass of the exact pairings. -/
def passExact (p : Pass) : Bool := !(decide (p.tileFmt = .bf16))

/-- The own contribution of a pass, row by row: what its cells and feet form (R227). -/
def passOwn (p : Pass) : List (List Acc) :=
  p.rows.map (fun a => (List.range (passCols p)).map (fun n =>
    if (passExact p) then dotExact p.rowFmt p.tileFmt a (passCol p n) else dotBf16 none a (passCol p n)))

/-- The accumulators after a pass: its contribution onto the partials of the passes before (R89, R90). -/
def passAccum (p : Pass) (prev : Partial) (own : List (List Acc)) : List (List Acc) :=
  if p.firstK then own
  else
    p.rows.zipIdx.map (fun e => (List.range (passCols p)).map (fun n =>
      let old := (prev.acc.getD e.2 []).getD n (.int 0)
      if (passExact p) then old.add ((own.getD e.2 []).getD n (.int 0))
      else match old with
        | .f32 w => dotBf16 (some w) e.1 (passCol p n)
        | _ => dotBf16 none e.1 (passCol p n)))

/-- The integer value of a code for the zero-point sums (R40). -/
def codeInt (f : Fmt) (c : Nat) : Int :=
  match codeAcc f c with
  | .int v => v
  | _ => 0

/-- A pass's own row sums Σ_k a (R40). -/
def passRowSums (p : Pass) : List Int := p.rows.map (fun a => (a.map (codeInt p.rowFmt)).foldl (· + ·) 0)

/-- A pass's own column sums Σ_k w (R40). -/
def passColSums (p : Pass) : List Int :=
  (List.range (passCols p)).map (fun n => ((passCol p n).map (codeInt p.tileFmt)).foldl (· + ·) 0)

/-- Sums of a pass added to those of the passes before. -/
def addSums (first : Bool) (old new : List Int) : List Int :=
  if first then new else new.zipIdx.map (fun e => old.getD e.2 0 + e.1)

/-! ## Accumulator slots (R37, R89, R96) -/

/-- An accumulator as its slot holds it: an exact sum in two's complement, a class above the 96 bits of a floating-point
accumulator (log 109). -/
def accSlot (tile : Fmt) : Acc → Nat
  | .int v => if tile.isInt then ofSigned 64 v else ofSigned 96 v
  | .nan invalid => 2 ^ 96 * (if invalid then 4 else 1)
  | .inf neg => 2 ^ 96 * (if neg then 3 else 2)
  | .f32 w => w.toNat

/-- The accumulator a slot holds. -/
def slotAcc (tile : Fmt) (n : Nat) : Acc :=
  if tile = .bf16 then .f32 (BitVec.ofNat 32 n)
  else if tile.isInt then .int (toSigned 64 n)
  else match n / 2 ^ 96 % 8 with
    | 0 => .int (toSigned 96 n)
    | 1 => .nan false
    | 2 => .inf false
    | 3 => .inf true
    | _ => .nan true

/-- The partials a core's slots hold for a pass (R89, R96). -/
def CoreSt.readPartial (k : CoreSt) (o : PassOrder) : Partial :=
  let w := slotBytes o.tileFmt
  let base := o.rowCount * o.nLen * w
  { acc := (List.range o.rowCount).map (fun m => (List.range o.nLen).map (fun n =>
      slotAcc o.tileFmt (k.spadField o.partRefs ((m * o.nLen + n) * w) w)))
    rowSum := (List.range o.rowCount).map (fun m => toSigned 64 (k.spadField o.partRefs (base + 8 * m) 8))
    colSum := (List.range o.nLen).map (fun n => toSigned 64 (k.spadField o.partRefs (base + 8 * (o.rowCount + n)) 8)) }

/-- The bytes of partials in their slots. -/
def partialBytes (o : PassOrder) (p : Partial) : List Byte :=
  p.acc.flatMap (fun r => r.flatMap (fun a => leBytes (slotBytes o.tileFmt) (accSlot o.tileFmt a))) ++
    (p.rowSum ++ p.colSum).flatMap (fun v => leBytes 8 (ofSigned 64 v))

/-! ## The checks (R227–R233) -/

/-- One accumulator of an output changed. -/
def changeAcc (r c : Nat) (g : Acc → Acc) (own : List (List Acc)) : List (List Acc) :=
  own.zipIdx.map (fun e => if e.2 = r then e.1.zipIdx.map (fun a => if a.2 = c then g a.1 else a.1) else e.1)

/-- An accumulator off by an error. -/
def Acc.off (delta : Int) : Acc → Acc
  | .int v => .int (v + delta)
  | .f32 w => .f32 (BitVec.ofInt 32 (w.toNat + delta))
  | a => a

/-- An accumulator of another class: a NaN of a finite one, a zero of the others. -/
def Acc.flipClass : Acc → Acc
  | .int _ => .nan false
  | .f32 w => if (Sys2Proof.f32 w).isFin then .f32 0x7FC00000 else .f32 0
  | .nan _ | .inf _ => .int 0

/-- A fault in a foot accumulator. -/
def faultAcc (f : PassFault) (own : List (List Acc)) : List (List Acc) :=
  match f with
  | .acc r c delta => changeAcc r c (Acc.off delta) own
  | .cls r c => changeAcc r c Acc.flipClass own
  | _ => own

/-- The sum of finite exact accumulators; none where one is not finite (R230). -/
def accTotal (xs : List Acc) : Option Int :=
  xs.foldl (fun t a => match t, a with
    | some v, .int w => some (v + w)
    | _, _ => none) (some 0)

/-- The flags of the FP32 operations of a BF16 dot product, onto the accumulator of the chunks before (R42, R111; log 149). -/
def dotFlags (prev : Option (BitVec 32)) (a w : List Nat) : Flags :=
  let ms := (a.zip w).map (fun e => mulF (bf16To32 e.1) (bf16To32 e.2))
  (Flags.all (ms.map (fun e => e.2))).or (sumFlags prev (ms.map (fun e => e.1)))

/-- The flags a pass raises as it accumulates: none in the exact pairings (R35, R42, R111, R112). -/
def passFlags (p : Pass) (prev : Partial) : Flags :=
  if passExact p then {}
  else Flags.all (p.rows.zipIdx.flatMap (fun e => (List.range (passCols p)).map (fun n =>
    let old : Option (BitVec 32) := if p.firstK then none else match (prev.acc.getD e.2 []).getD n (.int 0) with
      | .f32 w => some w
      | _ => none
    dotFlags old e.1 (passCol p n))))

/-- A failed ABFT comparison: KIND, expected, observed, row, column. -/
abbrev AbftFail := Nat × Nat × Nat × Nat × Nat

/-- The row checks of an exact pairing: T_m = C_m for every finite row (R228, R230), with the first failing row. -/
def passRowCheck (p : Pass) (f : PassFault) (own : List (List Acc)) : Option AbftFail :=
  let rho := p.tile.map (fun r => (r.map (codeInt p.tileFmt)).foldl (· + ·) 0)
  (p.rows.zipIdx.filterMap (fun e =>
    let bad : Int := match f with
      | .checksum r delta => if r = e.2 then delta else 0
      | _ => 0
    let c := ((e.1.zip rho).map (fun g => codeInt p.rowFmt g.1 * g.2)).foldl (· + ·) 0 + bad
    match accTotal (own.getD e.2 []) with
    | some t => if t = c then none else some (1, ofSigned 64 c, ofSigned 64 t, e.2, 0)
    | none => none)).head?

/-- The column checks of an exact pairing: U_n = D_n for every finite column (R228, R230). -/
def passColCheck (p : Pass) (own : List (List Acc)) : Option AbftFail :=
  let kk := p.tile.length
  let alpha := (List.range kk).map (fun k => (p.rows.map (fun a => codeInt p.rowFmt (a.getD k 0))).foldl (· + ·) 0)
  ((List.range (passCols p)).filterMap (fun n =>
    let d := ((alpha.zip (passCol p n)).map (fun g => g.1 * codeInt p.tileFmt g.2)).foldl (· + ·) 0
    match accTotal (own.map (fun r => r.getD n (.int 0))) with
    | some u => if u = d then none else some (2, ofSigned 64 d, ofSigned 64 u, 0, n)
    | none => none)).head?

/-- The exact value of a BF16 code. -/
def bfVal (c : Nat) : XV := decodeFp .bf16 c

/-- The exact value of an accumulator of a BF16 pass. -/
def bfAcc : Acc → XV
  | .f32 w => f32 w
  | _ => XV.nan

/-- A value rounded to FP64 (R232). -/
def round64 (x : XV) : XV := f64 (toF64 x)

/-- Σ in FP64, each sum rounded, in index order (R232 fixes no order; log 20). -/
def sum64 (xs : List XV) : XV := xs.foldl (fun a b => round64 (a.add b)) (XV.ofInt 0)

/-- Σ of products in FP64, each product and each sum rounded (R232). -/
def dot64 (xs : List (XV × XV)) : XV := sum64 (xs.map (fun e => round64 (e.1.mul e.2)))

/-- |x − y| ≤ 2⁻¹⁸ × B + 2⁻¹²⁰ (R232). -/
def within64 (x y b : XV) : Bool := !((b.mul (.fin false 1 (2 ^ 18))).add (.fin false 1 (2 ^ 120))).lt (x.add y.neg).abs

/-- The column check of a BF16 pass, with the bound of the row check (R232). -/
def passBfColCheck (p : Pass) (own : List (List Acc)) : Option AbftFail :=
  ((List.range (passCols p)).filterMap (fun n =>
    let xs := own.map (fun r => bfAcc (r.getD n (.int 0)))
    let part (g : XV → XV) : XV := dot64 ((passCol p n).zipIdx.map (fun e =>
      (sum64 (p.rows.map (fun a => g (bfVal (a.getD e.2 0)))), g (bfVal e.1))))
    let d := part id
    let u := sum64 xs
    if xs.all XV.isFin && d.isFin && !within64 u d (part XV.abs) then some (2, toF64 d, toF64 u, 0, n) else none)).head?

/-- The value of an accumulator of an output, in units of its pairing where it is exact (R35, R38). -/
def Acc.value : Acc → XV
  | .int v => XV.ofInt v
  | .nan _ => .nan
  | .inf neg => .inf neg
  | .f32 w => Sys2Proof.f32 w

/-- The class of an output (R230): NaN, +infinity, -infinity or finite. -/
def accClass (a : Acc) : Nat :=
  match a.value with
  | .nan => 0
  | .inf neg => if neg then 1 else 2
  | .fin .. => 3

/-- An accumulator whose class is not the one its operands give (R230). R262 has no kind for it: the signature carries kind 0x01, with
the FP64 bits of the expected and of the seen value (DESIGN CHOICE, log 148). -/
def passClassCheck (p : Pass) (own : List (List Acc)) : Option AbftFail :=
  ((passOwn p).zipIdx.filterMap (fun e =>
    (e.1.zipIdx.find? (fun g => accClass g.1 != accClass ((own.getD e.2 []).getD g.2 (.int 0)))).map (fun g =>
      (1, toF64 g.1.value, toF64 ((own.getD e.2 []).getD g.2 (.int 0)).value, e.2, g.2)))).head?

/-- The row check of a BF16 pass, on rows of finite elements (R230, R232). -/
def passBfCheck (p : Pass) (f : PassFault) (own : List (List Acc)) : Option AbftFail :=
  (p.rows.zipIdx.filterMap (fun e =>
    let xs := (own.getD e.2 []).map bfAcc
    let part (g : XV → XV) : XV := dot64 (e.1.zipIdx.map (fun a =>
      (g (bfVal a.1), sum64 ((p.tile.getD a.2 []).map (fun w => g (bfVal w))))))
    let bad : XV := match f with
      | .checksum r delta => if r = e.2 then XV.ofInt delta else XV.ofInt 0
      | _ => XV.ofInt 0
    let t := sum64 xs
    let c := (part id).add bad
    if xs.all XV.isFin && c.isFin && !within64 t c (part XV.abs) then some (1, toF64 c, toF64 t, e.2, 0) else none)).head?

/-- The ABFT checks of a pass on its own contribution: rows, columns, classes (R228, R230, R232). A failure names the first failing
row and the first failing column. -/
def passCheck (p : Pass) (f : PassFault) (own : List (List Acc)) : Option AbftFail :=
  let rows := if passExact p then passRowCheck p f own else passBfCheck p f own
  let cols := if passExact p then passColCheck p own else passBfColCheck p own
  match rows, cols with
  | some e, some g => some (e.1, e.2.1, e.2.2.1, e.2.2.2.1, g.2.2.2.2)
  | some e, none => some e
  | none, some g => some g
  | none, none => passClassCheck p own

/-- Sums with one of them off by an error. -/
def offBy (i : Nat) (delta : Int) (xs : List Int) : List Int := xs.zipIdx.map (fun e => if e.2 = i then e.1 + delta else e.1)

/-- The zero-point row sums of a pass under a fault (R40). -/
def faultRowSums (f : PassFault) (xs : List Int) : List Int :=
  match f with
  | .zeroRow i delta => offBy i delta xs
  | _ => xs

/-- The zero-point column sums of a pass under a fault (R40). -/
def faultColSums (f : PassFault) (xs : List Int) : List Int :=
  match f with
  | .zeroCol i delta => offBy i delta xs
  | _ => xs

/-- The sum check of an exact pairing: the zero-point sums against the checker's Σα and Σρ (R228). -/
def passSumCheck (p : Pass) (f : PassFault) : Option AbftFail :=
  if !passExact p then none else
  let total (xs : List Int) : Int := xs.foldl (· + ·) 0
  let one (good seen : List Int) : Option AbftFail :=
    if total good = total seen then none else some (3, ofSigned 64 (total good), ofSigned 64 (total seen), 0, 0)
  match one (passRowSums p) (faultRowSums f (passRowSums p)) with
  | some e => some e
  | none => one (passColSums p) (faultColSums f (passColSums p))

/-- A fault in a partial accumulator of an exact pairing, as it is read, added or written (R231). -/
def faultPartial (p : Pass) (f : PassFault) (acc : List (List Acc)) : List (List Acc) :=
  match f with
  | .partialAcc r c delta => if passExact p then changeAcc r c (Acc.off delta) acc else acc
  | _ => acc

/-- A fault in the zero-point correction of an integer pairing as its output drains (R231). -/
def faultCorrection (p : Pass) (f : PassFault) (acc : List (List Acc)) : List (List Acc) :=
  match f with
  | .correction r c delta => if p.tileFmt.isInt then changeAcc r c (Acc.off delta) acc else acc
  | _ => acc

/-- The residue check of the partial rows: KIND 4 where a row's sum is not the old sum plus T_m modulo 65,535 (R231). -/
def passPartCheck (good seen : List (List Acc)) : Option AbftFail :=
  (good.zipIdx.filterMap (fun e =>
    match accTotal e.1, accTotal (seen.getD e.2 []) with
    | some a, some b => if (a - b) % 65535 = 0 then none else some (4, (a % 65535).toNat, (b % 65535).toNat, e.2, 0)
    | _, _ => none)).head?

/-- The corrected accumulator of R40. -/
def corrected (zw za k : Nat) (rowSum colSum v : Int) : Int := v - zw * rowSum - za * colSum + k * za * zw

/-- The drain identity over the whole contraction of an output block (R231): KIND 4 where the sum of a row's corrected
accumulators is not, modulo 65,535, what its T_m and the sums of the checker give. -/
def passDrainCheck (p : Pass) (acc seen : List (List Acc)) (rowSum colSum : List Int) : Option AbftFail :=
  let zw := p.tileRec.zp
  let za := p.rowRec.zp
  let nu := passCols p
  if !p.tileFmt.isInt then none
  else
    (acc.zipIdx.filterMap (fun e =>
      match accTotal e.1, accTotal ((seen.getD e.2 []).zipIdx.map (fun g => match g.1 with
        | .int v => Acc.int (corrected zw za p.kTotal (rowSum.getD e.2 0) (colSum.getD g.2 0) v)
        | a => a)) with
      | some t, some u =>
        let want : Int := t - zw * nu * rowSum.getD e.2 0 - za * (colSum.take nu).foldl (· + ·) 0 + nu * p.kTotal * za * zw
        if (want - u) % 65535 = 0 then none else some (4, (want % 65535).toNat, (u % 65535).toNat, e.2, 0)
      | _, _ => none)).head?

/-! ## The drain (R39–R41, R96, R141, R142) -/

/-- The exact real value of an accumulator of a pass (R39, R40). -/
def passValue (p : Pass) (rowSum colSum : Int) (k : Nat) (a : Acc) : XV :=
  let scales := (f32 p.rowRec.scale).mul (f32 p.tileRec.scale)
  match a with
  | .nan _ => .nan
  | .inf neg => .inf neg
  | .f32 w => f32 w
  | .int v =>
    if p.tileFmt.isInt then scales.mul (XV.ofInt (corrected p.tileRec.zp p.rowRec.zp k rowSum colSum v))
    else scales.mul (XV.ofScaled v (unitExp p.rowFmt + unitExp p.tileFmt))

/-- The fused function of a drain on the FP32 product and its stored inputs, with the flags it raises (R141–R143); for SwiGLU
dg with g in `z`. -/
def applyFn (fn : DrainFn) (z u x : BitVec 32) : Flagged :=
  match fn with
  | .none | .softmax => (x, {})
  | .relu => mulF x (reluD z)
  | .sqRelu => mulThen x (sqReluDF z)
  | .gelu => mulThen x (geluDF z)
  | .silu => mulThen x (siluDF z)
  | .swiglu =>
    let a := mulF x u
    let r := mulThen a.1 (siluDF z)
    (r.1, a.2.or r.2)

/-- du of the SwiGLU drain: dy × SiLU(g) (R142). -/
def applyFn2 (z x : BitVec 32) : Flagged := mulThen x (siluFF z)

/-- An element a drain delivers: its code, its flags, the FP32 value measured, whether its FXR64 entry overflowed. -/
abbrev DrainEl := Nat × Flags × BitVec 32 × Bool

/-- An exact value entered into FXR64 with its flag and overflow (R45, R111). What stands in the tensor for an entry that overflows is
open in R45: the model stores n modulo 2^64 (DESIGN CHOICE, log 141). -/
def fxrCode (r : ScaleRec) (x : XV) : Nat × Flags × Bool :=
  let e := fxrEnter x r.fxrExp r.guard
  (ofSigned 64 e.1, { nx := x.isFin && !(XV.ofScaled e.1 r.fxrExp).eq x }, e.2)

/-- The code a drain writes for a value (R39, R45, R58, R59). -/
def drainCode (o : DrainOut) (out : ScaleRec) (w : XV) (x : BitVec 32) (fl : Flags) : DrainEl :=
  match o with
  | .partialAcc => (0, {}, x, false)
  | .float f => let (c, g) := encodeFp f w; (c, fl.or g, x, false)
  | .fxr => let e := fxrCode out w; (e.1, fl.or e.2.1, rneF32 w.abs, e.2.2)
  | .narrow =>
    match recFmt out with
    | none => (0, fl, x, false)
    | some f => let (c, g) := quantiseX f out.scale out.zp w; (c, fl.or g, x, false)

/-- One output element of a drain (R39, R41, R45, R58, R78, R111, R112). -/
def passDrainOne (p : Pass) (out : ScaleRec) (rowSum colSum : Int) (k i j : Nat) (a : Acc) : DrainEl :=
  let v := passValue p rowSum colSum k a
  let iv : Flags := { iv := match a with
    | .nan invalid => invalid
    | _ => false }
  let x0 := toF32 v
  if p.fn ≠ .none then
    let x := applyFn p.fn ((p.z.getD i []).getD j 0) ((p.u.getD i []).getD j 0) x0.1
    drainCode p.out out (f32 x.1) x.1 ((iv.or x0.2).or x.2)
  else if p.out = .narrow && p.tileFmt.isInt && ((recFmt out).map Fmt.isInt).getD false then
    let f := (recFmt out).getD .int8
    let (m, sh) := deriveMs p.rowRec.scale p.tileRec.scale out.scale
    let acc := match a with
      | .int v => corrected p.tileRec.zp p.rowRec.zp k rowSum colSum v
      | _ => 0
    let y := rshiftRne (acc * m) sh + out.zp
    let c := clampInt y 0 (2 ^ f.bits - 1)
    (c.toNat, { cl := decide (c ≠ y), nx := !((dequant f out.scale out.zp c.toNat).eq v) }, rneF32 v, false)
  else drainCode p.out out v x0.1 iv

/-- The drained outputs of a pass: codes with their flags and measurements. -/
def passDrain (p : Pass) (out : ScaleRec) (acc : List (List Acc)) (rowSum colSum : List Int) (k : Nat) :
    List (List DrainEl) :=
  acc.zipIdx.map (fun e => e.1.zipIdx.map (fun g =>
    passDrainOne p out (rowSum.getD e.2 0) (colSum.getD g.2 0) k e.2 g.2 g.1))

/-- The second output of a SwiGLU drain (R142). -/
def passDrain2 (p : Pass) (out : ScaleRec) (acc : List (List Acc)) (rowSum colSum : List Int) (k : Nat) :
    List (List DrainEl) :=
  acc.zipIdx.map (fun e => e.1.zipIdx.map (fun g =>
    let x0 := toF32 (passValue p (rowSum.getD e.2 0) (colSum.getD g.2 0) k g.1)
    let x := applyFn2 ((p.z.getD e.2 []).getD g.2 0) x0.1
    drainCode p.out out (f32 x.1) x.1 (x0.2.or x.2)))

/-- The row sums of a softmax drain, t = Σ y × dy in the order of R43, with the flags of their operations (R143). -/
def softmaxSums (p : Pass) (dy : List (List (BitVec 32))) : List Flagged :=
  dy.zipIdx.map (fun e =>
    let ps := (e.1.zip (p.z.getD e.2 [])).map (fun g => mulF g.2 g.1)
    (sumFixed (ps.map (fun g => g.1)), (Flags.all (ps.map (fun g => g.2))).or (sumFlags none (ps.map (fun g => g.1)))))

/-- The chunk sums of a row of a softmax drain (R116, R143). -/
def softmaxChunks (p : Pass) (dy : List (List (BitVec 32))) : List (List (BitVec 32)) :=
  dy.zipIdx.map (fun e =>
    let ps := (e.1.zip (p.z.getD e.2 [])).map (fun g => fmul g.2 g.1)
    chunkSums (ps.length + 1) ps)

/-- FORMAT code of a pass's output (R133). -/
def passOutCode (p : Pass) (out : ScaleRec) : Nat :=
  match p.out with
  | .float f => f.code
  | .fxr => 8
  | .narrow => out.fmt
  | .partialAcc => 0xF

/-- The exact value of an element of a format (R28, R44). -/
def elemValue (f : Fmt) (r : ScaleRec) (code : Nat) : XV :=
  if f.isNarrow then dequant f r.scale r.zp code
  else if f = .fxr64 then (if toSigned 64 code = fxrMarker then .nan else XV.ofScaled (toSigned 64 code) r.fxrExp)
  else decodeFp f code

/-! ## The commands -/

/-- The load-pattern hash of a pass stands with the place of a failed check of it (R261). -/
def passPlace (o : PassOrder) (broadcast : Bool) (row col : Nat) : Place :=
  { tensor := o.outTensor, inst := o.outInst, row := row, col := col, tile := o.tileNo, pattern := patternHash o broadcast }

/-- The output record of a pass: the step's, or the committed version's outside a step (R39, R41, R67). -/
def State.outRec (s : State) (c : CtxId) (n tensor inst : Nat) : ScaleRec := (s.recNow c n tensor inst).getD {}

/-- As many output blocks as the output's format takes. -/
def State.outFits (s : State) (n : Nat) (o : PassOrder) : Bool :=
  decide (o.out ≠ .narrow) ||
    o.outRefs.length == (match recFmt (s.outRec o.ctx n o.outTensor o.outInst) with
      | some f => blocksFor f.bits o.outCount
      | none => 0)

/-- A pass belongs to what its step does now: forward work to FORWARD, for a step behind another only in the layers that have
begun; backward and regrown work to the time after FORWARD, layer-major (R128, R129, R139, R152); outside a step, to a
rollout (R97). -/
def State.passTurn (s : State) (n : Nat) (o : PassOrder) : Bool :=
  let x := s.ctx o.ctx
  match x.stepNo n with
  | none => n == 0 && x.rollout
  | some t =>
    if o.backward || o.regrow then
      (decide (t.state = .backward) || decide (t.state = .update)) && (o.regrow || s.layerTurn n o)
    else decide (t.state = .forward) && ((x.steps.head?).any (fun u => u.number == n) || t.forwardLayers.contains o.layer)

/-- A core may start a pass: active, out of reset, its context with no pre-emption, in the mode of its program's kind, not
excluded from the tensor by an arbitration, not kept from the shape, its tile above those of the block it has begun (R89,
R95, R97, R101, R237, R258). -/
def State.mayRun (s : State) (k : CoreId) (n : Nat) (o : PassOrder) (broadcast : Bool) : Bool :=
  let x := s.ctx o.ctx
  let c := s.core k
  decide (c.status = .active) && !s.inReset (.core k) && !x.paused && x.prog.isSome && (x.rollout == broadcast) &&
    passShape o && s.outFits n o && !(broadcast && o.turn) && !(s.exclusions o.ctx n).contains (k, o.outTensor) &&
    decide (c.condShape ≠ some (patternHash o broadcast)) && s.passTurn n o &&
    c.begun.all (fun e => !(e.1 == n && sameBlock e.2 o) || decide (e.2.i < o.i))

/-- The records of an operand's blocks. -/
def State.operandRec (s : State) (c : CtxId) (n : Nat) (rs : List BlockRef) : ScaleRec :=
  match rs with
  | r :: _ => s.outRec c n r.ident.tensor r.ident.inst
  | [] => {}

/-- A stored input of a fused drain in FP32, row by row (R110, R141). -/
def CoreSt.storedInput (k : CoreSt) (o : PassOrder) (r : ScaleRec) (refs : List BlockRef) : List (List (BitVec 32)) :=
  if refs.isEmpty then []
  else (List.range o.rowCount).map (fun m => (List.range o.nLen).map (fun j =>
    rneF32 (elemValue o.zFmt r (k.spadElem refs o.zFmt.bits (m * o.nLen + j)))))

/-- The blocks a pass reads as it starts: tile, rows, the stored inputs of its drain (R88, R141). -/
def passReads (o : PassOrder) : List BlockRef := o.tileRefs ++ o.rowRefs ++ o.zRefs ++ o.uRefs

/-- Element `a` of row `m` of Xᵀ, from turned logs of X held in blocks: rows of `width` bytes in which every 64 × 64-byte block is
transposed in its place, `rows` of them (R135, R140; log 120). -/
def CoreSt.turnedElem (k : CoreSt) (rs : List BlockRef) (bits width rows m a : Nat) : Nat :=
  let byte (q : Nat) : Nat := (k.spadByte rs
    (if 64 * (a / 64) + 64 ≤ rows ∧ 64 * (q / 64) + 64 ≤ width then (64 * (a / 64) + q % 64) * width + 64 * (q / 64) + a % 64
      else a * width + q)).toNat
  if bits < 8 then byte (m * bits / 8) / 2 ^ (m * bits % 8) % 2 ^ bits
  else (List.range (bits / 8)).foldl (fun v i => v + byte (m * (bits / 8) + i) * 2 ^ (8 * i)) 0

/-- Element `a` of row `m` of a pass's row operand: row by row, or from turned logs (R88, R140). -/
def CoreSt.rowElem (k : CoreSt) (o : PassOrder) (m a : Nat) : Nat :=
  if o.rowWidth = 0 then k.spadElem o.rowRefs o.rowFmt.bits (m * o.kLen + a)
  else k.turnedElem o.rowRefs o.rowFmt.bits o.rowWidth o.kLen m a

/-- A pass with its operands read from the scratchpad (R88): operands lie row by row, a row operand from turned logs as those store it
(R140); through the turn path the tile comes transposed from its forward layout (R94). -/
def State.readPass (s : State) (p : CoreId) (n : Nat) (o : PassOrder) : Pass :=
  let k := s.core p
  let at_ (a b : Nat) : Nat := if o.turn then b * o.kLen + a else a * o.nLen + b
  let tile := (List.range o.kLen).map (fun a => (List.range o.nLen).map (fun b => k.spadElem o.tileRefs o.tileFmt.bits (at_ a b)))
  { o with
    step := n
    tile := tile
    src := tile
    rows := (List.range o.rowCount).map (fun m => (List.range o.kLen).map (k.rowElem o m))
    z := k.storedInput o (s.operandRec o.ctx n o.zRefs) o.zRefs
    u := k.storedInput o (s.operandRec o.ctx n o.uRefs) o.uRefs
    rowRec := s.operandRec o.ctx n o.rowRefs
    tileRec := s.operandRec o.ctx n o.tileRefs }

/-- The first pass of a context on a core leaves the ones not begun. -/
def CoreSt.popPass (k : CoreSt) (e : Nat × PassOrder) : CoreSt := { k with todo := k.todo.erase e }

/-- A pass that has begun: its rows run, and it counts among those of its block (R89, R102). -/
def CoreSt.beginPass (k : CoreSt) (broadcast : Bool) (p : Pass) : CoreSt :=
  { (k.popPass (p.step, p.toPassOrder)) with
    begun := (p.step, p.toPassOrder) :: k.begun
    mx := { k.mx with broadcast := broadcast, running := k.mx.running ++ [p], stalled := none } }

/-- A pass has begun: the step boundary is over (R19, log 111). -/
def State.passBegins (s : State) : State := { s with cores := { s.cores with boundary := false } }

/-- The tile of a pass as the turn path delivers it under a fault: a wrong element in the turned block (R233). -/
def Pass.turned (f : PassFault) (p : Pass) : Pass :=
  match f with
  | .turnBlock r c d =>
    if p.turn then
      { p with tile := p.tile.zipIdx.map (fun e => if e.2 = r then e.1.zipIdx.map (fun g =>
          if g.2 = c then (g.1 + d) % 2 ^ p.tileFmt.bits else g.1) else e.1) }
    else p
  | _ => p

/-- An arbitration of a core whose referee may still deliver the output of a pass of a context (R237). -/
def CoreSt.passInDoubt (k : CoreSt) (c : CtxId) : Bool :=
  k.arbs.any (fun a => decide (a.ctx = c) && (match a.fix with
    | .todo .. | .run _ => true
    | _ => false))

/-- The array may take the next pass of a context: none of the context waits for a referee's output, and a stalled pass is the context's
own, which is this one, or one of a context that is paused (R100, R101, R237). -/
def State.arrayFree (s : State) (k : CoreId) (c : CtxId) : Bool :=
  !(s.core k).passInDoubt c && (s.core k).mx.stalled.all (fun w => decide (w.ctx = c) || (s.ctx w.ctx).paused)

/-- A pass starts: its operands are read and its rows begin. It is the next one of its context on the core (R489); an empty
one is passed over (R99); a read that is not good is acted on, and the pass waits, the array with it (R100, R125); a core changes its
mode only between chains (R97). -/
def State.startPass (s : State) (k : CoreId) (o : PassOrder) (fault : PassFault) (broadcast : Bool) : State :=
  match (s.core k).nextPass o.ctx with
  | none => s
  | some e =>
    if e.2 ≠ o || !s.mayRun k e.1 o broadcast then s
    else if o.empty then s.updCore k (fun x => x.popPass e)
    else if ((s.core k).mx.broadcast ≠ broadcast ∧ (s.core k).mx.running ≠ []) ∨ s.arrayFree k o.ctx = false then s
    else
      match s.readsBad k o.ctx e.1 ⟨o.outTensor, .todo o broadcast⟩ true (passReads o) with
      | some s' => s'
      | none =>
        let p := (s.readPass k e.1 o).turned fault
        let s := s.passBegins.updCore k (fun x => x.beginPass broadcast p)
        s.updStep o.ctx e.1 (fun t => { t with ran := (k, o) :: t.ran })

/-- SWAP_FRONT_DEPART (R91, R233): a pass in front mode begins. -/
def execSwapFrontDepart (core : CoreId) (pass : PassOrder) (fault : PassFault) (s : State) :
    Host.Outcome State Fault Refusal :=
  .next (s.startPass core pass fault false)

/-- BROADCAST_SWAP (R97, R98): a pass in broadcast mode begins. -/
def execBroadcastSwap (core : CoreId) (pass : PassOrder) (fault : PassFault) (s : State) :
    Host.Outcome State Fault Refusal :=
  .next (s.startPass core pass fault true)

/-- Bits of a drained row changed by a fault in the drain, or in the factor of a fused drain. -/
def faultDrain (p : Pass) (f : PassFault) (rows : List (List Nat)) : List (List Nat) :=
  let flip (r c bits : Nat) : List (List Nat) := rows.zipIdx.map (fun e => if e.2 = r then e.1.zipIdx.map (fun g =>
      if g.2 = c then g.1 ^^^ bits else g.1) else e.1)
  match f with
  | .drain r c bits => flip r c bits
  | .factor r c bits => if p.fn = .none then rows else flip r c bits
  | _ => rows

/-- An overflow and a magnitude of entries into an FXR64 tensor noted (R84). -/
def Step.noteFxr (t : Step) (tensor : Nat) (mag : BitVec 32) (ovf : Bool) : Step :=
  { t with amags := AL.set tensor (fmax (AL.get 0 tensor t.amags) mag) t.amags
           overs := if ovf && !t.overs.contains tensor then t.overs ++ [tensor] else t.overs }

/-- The flags of an output's elements go into its word, and the overflow and magnitude of entries into FXR64 are noted (R84,
R112). -/
def Step.takeFlags (t : Step) (o : DrainOut) (tensor inst : Nat) (els : List DrainEl) : Step :=
  let t := els.foldl (fun (t : Step) e => t.orFlags tensor inst e.2.1) t
  if o = .fxr then
    els.foldl (fun (t : Step) e => t.noteFxr tensor (if (f32 e.2.2.1).isFin then e.2.2.1 else 0) e.2.2.2) t
  else t

/-- The outputs of a finished output block go to the step: codes, format, flags, and for a first attempt the measured range, once
for each tile (R78, R96, R112). -/
def Step.takeOutput (t : Step) (p : Pass) (tensor inst : Nat) (out : ScaleRec) (rows : List (List Nat)) (els : List DrainEl) :
    Step :=
  let again := (AL.find? (tensor, inst, p.outRow, p.outCol) t.outTiles).isSome
  let t := { t with
    outTiles := AL.set (tensor, inst, p.outRow, p.outCol) rows t.outTiles
    outFmt := AL.set tensor (passOutCode p out) t.outFmt }
  let t := t.takeFlags p.out tensor inst els
  let rescaled := decide (p.out = .narrow) && p.tileFmt.isInt && decide (p.fn = .none) && ((recFmt out).map Fmt.isInt).getD false
  let t := if rescaled then
      let ms := deriveMs p.rowRec.scale p.tileRec.scale out.scale
      let put (r : ScaleRec) : ScaleRec :=
        if r.tensor = tensor ∧ r.inst = inst then { r with mult := ms.1, shift := ms.2 } else r
      { t with records := t.records.map put, replays := t.replays.map (fun e => { e with record := put e.record }) }
    else t
  if out.epoch = 0 ∧ p.out = .narrow ∧ again = false then
    { t with measures := AL.upd {} (tensor, inst) (fun m => els.foldl (fun (m : Measure) e => m.add out e.2.2.1) m) t.measures }
  else t

/-- The element sums of each 64 × 64-byte block of a tile on the turn path, along its source rows (R94, R233): blocks by place, with
the sum of each row. -/
def turnSums (bits : Nat) (tile : List (List Nat)) : List ((Nat × Nat) × List Nat) :=
  let w := 512 / bits
  let nLen := (tile.map List.length).foldl max 0
  (List.range (cdiv tile.length w)).flatMap (fun i => (List.range (cdiv nLen 64)).map (fun j =>
    ((i, j), (List.range (min 64 (nLen - 64 * j))).map (fun b =>
      (((tile.drop (w * i)).take w).map (fun r => r.getD (64 * j + b) 0)).foldl (· + ·) 0))))

/-- The block sum check of the turn path (R233): the first block whose source row sums are not the column sums of the turned block;
KIND 5 carries the CRC-64 of both (R262). -/
def passTurnCheck (p : Pass) : Option AbftFail :=
  if !p.turn || p.src == p.tile then none
  else
    ((turnSums p.tileFmt.bits p.src).zip (turnSums p.tileFmt.bits p.tile)).findSome? (fun e =>
      if e.1.2 = e.2.2 then none
      else some (5, crc64 (e.1.2.flatMap (leBytes 8)), crc64 (e.2.2.flatMap (leBytes 8)), e.1.1.1, e.1.1.2))

/-- The first check of the turn path, the array and the partial accumulators that fails (R226, R228, R231, R233). -/
def passAccFailure (p : Pass) (f : PassFault) (own accGood acc : List (List Acc)) : Option (CheckUnit × Status × AbftFail) :=
  match passTurnCheck p with
  | some e => some (.turn, .turnCheck, e)
  | none =>
    match (passCheck p f own).orElse (fun _ => passSumCheck p f) with
    | some e => some (.mx, .abftMismatch, e)
    | none => (passPartCheck accGood acc).map (fun e => (.drain, .drainCheck, e))

/-- The check of a drained output: a second conversion or factor bit for bit (R226, R231). `right` and `seen` are the drained
rows, `g` the checker counter. -/
def passOutFailure (f : PassFault) (right seen : List (List Nat)) (g : Nat) : Option (CheckUnit × Status × AbftFail) :=
  match f with
  | .drain r c _ =>
    if right = seen then none else some (.drain, .drainCheck, (4, (right.getD r []).getD c 0, (seen.getD r []).getD c 0, r, c))
  | .factor r c _ =>
    if right = seen || c % 16 != g % 16 then none
    else some (.vx, .checkerLaneMismatch, (6, (right.getD r []).getD c 0, (seen.getD r []).getD c 0, r, c))
  | _ => none

/-- Codes of elements, row by row. -/
def elCodes (e : List (List DrainEl)) : List (List Nat) := e.map (fun r => r.map (fun e => e.1))

/-- The width of a pass's output elements. -/
def outBits (p : Pass) (out : ScaleRec) : Nat :=
  match p.out with
  | .float f => f.bits
  | .fxr => 64
  | .narrow => ((recFmt out).map Fmt.bits).getD 8
  | .partialAcc => 0

/-- What a final drain delivers for accumulators (R39–R41, R141–R143): elements, those of a second output, row sums. -/
structure Drained where
  one  : List (List DrainEl)
  two  : List (List DrainEl)
  sums : List Flagged

/-- A final drain of accumulators with their row and column sums. -/
def drainAll (p : Pass) (out out2 : ScaleRec) (acc : List (List Acc)) (sums : List Int × List Int) : Drained :=
  let one := passDrain p out acc sums.1 sums.2 p.kTotal
  { one := one
    two := if p.fn = .swiglu then passDrain2 p out2 acc sums.1 sums.2 p.kTotal else []
    sums := if p.fn = .softmax then softmaxSums p ((elCodes one).map (fun r => r.map (BitVec.ofNat 32))) else [] }

/-- The blocks a final drain writes with its codes, those of a second output, its row sums (R123, R143). -/
def State.drainBlocks (s : State) (p : Pass) (out out2 : ScaleRec) (codes : List (List Nat)) (d : Drained) :
    List (Fin 2048 × SpadBlock) :=
  s.runBlocks p.ctx p.step p.outRefs (packCodes (outBits p out) codes.flatten) ++
    s.runBlocks p.ctx p.step p.outRefs2 (packCodes (outBits p out2) (elCodes d.two).flatten) ++
    s.runBlocks p.ctx p.step p.tRefs (packCodes 32 (d.sums.map (fun (e : BitVec 32 × Flags) => e.1.toNat)))

/-- The chunk sums of a softmax row that is split across cores go to the shared cache, each to the slot of its chunk (R116,
R143). -/
def State.depositChunks (s : State) (p : Pass) (codes : List (List Nat)) : State :=
  match p.tSplit with
  | none => s
  | some dva =>
    let chunks := softmaxChunks p (codes.map (fun r => r.map (BitVec.ofNat 32)))
    let first := p.j * (tileWidth p.tileFmt p.rowFmt / 64)
    chunks.zipIdx.foldl (fun (s : State) (e : List (BitVec 32) × Nat) =>
      s.storeAt p.ctx p.step p.outTensor p.outInst (dva + 4 * (e.2 * cdiv p.nTotal 64 + first)) (e.1.flatMap (fun w => leBytes 4 w.toNat))) s

/-- The row sums of a softmax drain as a tensor of the step: their codes by tile row and column, with their flags (R112, R143). -/
def Step.takeSums (t : Step) (p : Pass) (d : Drained) : Step :=
  match p.tRefs with
  | [] => t
  | r :: _ =>
    let t := { t with
      outTiles := AL.set (r.ident.tensor, r.ident.inst, p.outRow, p.outCol) [d.sums.map (fun (e : BitVec 32 × Flags) => e.1.toNat)] t.outTiles
      outFmt := AL.set r.ident.tensor Fmt.fp32.code t.outFmt }
    t.orFlags r.ident.tensor r.ident.inst (Flags.all (d.sums.map (fun (e : BitVec 32 × Flags) => e.2)))

/-- What the step of a pass takes of its final outputs: nothing of a regrown tensor (R139), flags and FXR64 entries alone of a
contribution to a gradient, which is no tensor of the record (R144), else the outputs. -/
def Step.takeDrained (t : Step) (grads : List Nat) (p : Pass) (out out2 : ScaleRec) (codes : List (List Nat)) (d : Drained) : Step :=
  if p.regrow then t
  else if grads.contains p.outTensor then t.takeFlags p.out p.outTensor p.outInst d.one.flatten
  else
    let t := (t.takeOutput p p.outTensor p.outInst out codes d.one.flatten).takeSums p d
    if p.fn = .swiglu then t.takeOutput p p.out2 p.outInst out2 (elCodes d.two) d.two.flatten else t

/-- The passes of an output block begun on a core are outstanding there again, from its first K-tile (R89, R102). -/
def CoreSt.restartBlock (k : CoreSt) (n : Nat) (o : PassOrder) : CoreSt :=
  let mine (e : Nat × PassOrder) : Bool := e.1 == n && sameBlock e.2 o
  { k with
    todo := (k.begun.filter mine).reverse ++ k.todo, begun := k.begun.filter (fun e => !mine e)
    mx := { k.mx with running := k.mx.running.filter (fun p => !mine (p.step, p.toPassOrder)) } }

/-- An arbitration about the output a pass works on is outstanding on its core: its partials may still be replaced (R237). -/
def CoreSt.blockInDoubt (k : CoreSt) (p : Pass) : Bool :=
  k.arbs.any (fun a => decide (a.ctx = p.ctx) && a.step == p.step && a.place.tensor == p.outTensor && a.place.inst == p.outInst)

/-- A failed check of an ending pass reported, with the right output and whether the core's equals it (R226, R237). -/
def State.passReport (s : State) (k : CoreId) (p : Pass) (broadcast : Bool) (e : Option (CheckUnit × Status × AbftFail)) (fix : Fix)
    (equal : Bool) : State :=
  match e with
  | some (unit, status, e) =>
    s.checkFailed k p.ctx p.step unit status e.1 (passPlace p.toPassOrder broadcast e.2.2.2.1 e.2.2.2.2) e.2.1 e.2.2.1
      { fix := fix, equal := equal }
  | none => s

/-- What a pass delivers: its partials or its outputs are written, and its checks complete. A failed check keeps the
flags and the measured range of the recomputation, not of the failed attempt (R79, R112). -/
def State.deliverPass (s : State) (k : CoreId) (p : Pass) (fault : PassFault) : State :=
  let prev := if p.firstK then ({} : Partial) else (s.core k).readPartial p.toPassOrder
  let mode := (s.core k).mx.broadcast
  let good := passOwn p
  let own := faultAcc fault good
  let sums (f : PassFault) : List Int × List Int :=
    (addSums p.firstK prev.rowSum (faultRowSums f (passRowSums p)), addSums p.firstK prev.colSum (faultColSums f (passColSums p)))
  let accGood := passAccum p prev own
  let acc := faultPartial p fault accGood
  let pr : Pass := { p with tile := p.src }
  let right := if p.src = p.tile then passAccum p prev good else passAccum pr prev (passOwn pr)
  let sumsR : List Int × List Int := (addSums p.firstK prev.rowSum (passRowSums pr), addSums p.firstK prev.colSum (passColSums pr))
  let accFail := passAccFailure p fault own accGood acc
  let g := (s.core k).laneCtr
  let s := if p.regrow then s else s.updStep p.ctx p.step (fun t => t.orFlags p.outTensor p.outInst (passFlags pr prev))
  if p.out = .partialAcc then
    let put (a : List (List Acc)) (ss : List Int × List Int) : List (Fin 2048 × SpadBlock) :=
      s.runBlocks p.ctx p.step p.partRefs (partialBytes p.toPassOrder ⟨a, ss.1, ss.2⟩)
    (s.updCore k (fun x => x.putBlocks (put acc (sums fault)))).passReport k p mode accFail
      (.blocks (put right sumsR) []) (put right sumsR == put acc (sums fault))
  else
    let out := s.outRec p.ctx p.step p.outTensor p.outInst
    let out2 := s.outRec p.ctx p.step p.out2 p.outInst
    let drained := faultCorrection p fault acc
    let d := drainAll p out out2 drained (sums fault)
    let dRight := drainAll pr out out2 right sumsR
    let seen := faultDrain p fault (elCodes d.one)
    let drainFail := (passDrainCheck p acc drained (sums .none).1 (sums .none).2).map (fun e => (CheckUnit.drain, Status.drainCheck, e))
    let fail := (accFail.orElse (fun _ => drainFail)).orElse (fun _ => passOutFailure fault (elCodes d.one) seen g)
    let grads := (((s.ctx p.ctx).prog.map (·.gradTensors)).getD []).map (fun g => g.1)
    let written := s.drainBlocks p out out2 seen d
    let correct := s.drainBlocks p out out2 (elCodes dRight.one) dRight
    let s := s.updCore k (fun x => { x.putBlocks written with
      begun := x.begun.filter (fun e => !(e.1 == p.step && sameBlock e.2 p.toPassOrder)), mx := { x.mx with out := seen } })
    let s := s.updStep p.ctx p.step (fun t => t.takeDrained grads p out out2 seen (if fail.isSome then dRight else d))
    let s := s.depositChunks p seen
    let tiles := if p.regrow || grads.contains p.outTensor then []
      else [((p.outTensor, p.outInst, p.outRow, p.outCol), elCodes dRight.one)]
    s.passReport k p mode fail (.blocks correct tiles) (written == correct)

/-- The pass that ends on a core leaves the array and delivers (R239). -/
def State.finishPass (s : State) (k : CoreId) (p : Pass) (fault : PassFault) : State :=
  ((s.countOp k).updCore k (fun x => { x with mx := { x.mx with running := x.mx.running.drop 1 } })).deliverPass k p fault

/-- A pass ends. One whose partials may still be replaced waits; one whose slots do not read well starts its output block again
(R89, R125, R180). -/
def State.endPass (s : State) (k : CoreId) (p : Pass) (fault : PassFault) : State :=
  if p.firstK then s.finishPass k p fault
  else if (s.core k).blockInDoubt p then s
  else
    match s.readsBad k p.ctx p.step { op := p.outTensor } false p.partRefs with
    | some s' => s'.updCore k (fun x => x.restartBlock p.step p.toPassOrder)
    | none => s.finishPass k p fault

/-- MX_PASS_COMPLETE (R16, R89, R92, R96, R228, R231): the oldest pass of a core in the active set ends. -/
def execMxPassComplete (core : CoreId) (fault : PassFault) (s : State) : Host.Outcome State Fault Refusal :=
  .next (
    match (s.core core).mx.running with
    | p :: _ => if (s.core core).status = .active ∧ s.inReset (.core core) = false then s.endPass core p fault else s
    | [] => s)

end Sys2Proof.Machine
end

