-- ==== Sys2Proof/Machine/UpdateRules.lean ====
section
/-! DEFINITION. The optimiser programs, the quantised copies they write, and the lists and digests of an update (R72,
R74–R77, R154–R163). -/

namespace Sys2Proof.Machine

/-! ## Gradient entry (R45, R84, R145, R154) -/

/-- One contribution entered at a tensor's exponent: the number, whether it overflowed. -/
def enterOne (r : ScaleRec) (x : XV) : Int × Bool := fxrEnter x r.fxrExp r.guard

/-- The largest finite contribution magnitude, as FP32 (R84). -/
def contribAmag (xs : List XV) : BitVec 32 := rneF32 ((xs.filter XV.isFin).foldl (fun m x => xvMax m x.abs) (XV.ofInt 0))

/-- Sums of FXR64 lists, element by element (R47). -/
def fxrAddLists (a b : List Int) : List Int :=
  (List.range (max a.length b.length)).map (fun i => fxrAdd (a.getD i 0) (b.getD i 0))

/-- A slice's exact sum of squares as an exact value at the tensor's exponent; none if it holds a marker (R48). -/
def sliceSumSq (ns : List Int) : Option Nat :=
  if ns.contains fxrMarker then none else some ((ns.map (fun n => (n * n).toNat)).foldl (· + ·) 0)

/-- The norm entry of a slice (R154): the sum of squares of n × 2^E entered at the norm tensor's exponent. -/
def normEntry (e : Int) (norm : ScaleRec) (ns : List Int) : Int × Bool :=
  match sliceSumSq ns with
  | some v => enterOne norm (XV.ofScaled v (2 * e))
  | none => (fxrMarker, false)

/-- The clip factor of R156 with the flags of its operations; none where the norm is non-finite. -/
def clipFactor (qn e : Int) (tau : BitVec 32) : Option (BitVec 32) × Flags :=
  let q := if qn = fxrMarker then (nan32, ({} : Flags)) else toF32 (XV.ofScaled qn e)
  match f32 q.1 with
  | .nan => (none, q.2)
  | .inf false => (none, q.2)
  | _ =>
    let g := sqrtF q.1
    let le := (f32 g.1).lt (f32 tau) || (f32 g.1).eq (f32 tau)
    if le then (some one32, q.2.or g.2)
    else
      let d := divF tau g.1
      (some d.1, (q.2.or g.2).or d.2)

/-! ## The element programs (R159, R160) -/

/-- `powi` of R159 in FP64, with its flags, by fuel. -/
def powiAux : Nat → Nat → Nat × Flags → Nat × Flags → Nat × Flags
  | 0, _, r, _ => r
  | k + 1, n, r, x =>
    if n = 0 then r
    else
      let mul (a b : Nat × Flags) : Nat × Flags :=
        let p := flagged64 [f64 a.1, f64 b.1] false ((f64 a.1).mul (f64 b.1))
        (p.1, (a.2.or b.2).or p.2)
      powiAux k (n / 2) (if n % 2 = 1 then mul r x else r) (mul x x)

/-- b^n in FP64 (R159). -/
def powi (b : BitVec 32) (n : Nat) : Nat × Flags := powiAux 40 n (toF64 (XV.ofInt 1), {}) (toF64 (f32 b), {})

/-- A bias factor of R159: 1 / (1 − b^n), rounded to FP32. -/
def biasFactor (b : BitVec 32) (n : Nat) : Flagged :=
  let p := powi b n
  let one := XV.ofInt 1
  let d := flagged64 [f64 p.1] false (one.add (f64 p.1).neg)
  let q := flagged64 [f64 d.1] (f64 d.1).isZero (one.div (f64 d.1))
  let w := toF32 (f64 q.1)
  (w.1, ((p.2.or d.2).or q.2).or w.2)

/-- The values an update computes once per step (R159): b1, b2, k1, k2 and their flags. -/
structure UpdateConsts where
  b1 : BitVec 32
  b2 : BitVec 32
  k1 : BitVec 32
  k2 : BitVec 32
  flags : Flags
  deriving DecidableEq, Repr

/-- The once-per-step values for an optimiser count. -/
def updateConsts (u : UpdateRec) (t : Nat) : UpdateConsts :=
  if u.program = 1 then
    let b1 := biasFactor u.beta1 t
    let b2 := biasFactor u.beta2 t
    let k1 := subF one32 u.beta1
    let k2 := subF one32 u.beta2
    ⟨b1.1, b2.1, k1.1, k2.1, ((b1.2.or b2.2).or k1.2).or k2.2⟩
  else ⟨one32, one32, one32, one32, {}⟩

/-- One element's new w, m and v, each with the flags of the operations that write it (R112, R159, R160; log 23). -/
def updateElem (u : UpdateRec) (k : UpdateConsts) (lambda c : BitVec 32) (n e : Int) (w m v : BitVec 32) :
    Flagged × Flagged × Flagged :=
  let x := if n = fxrMarker then (nan32, ({} : Flags)) else toF32 (XV.ofScaled n e)
  let g := mulF c x.1
  let gf := x.2.or g.2
  let neg := negF u.alpha
  if u.program = 1 then
    let kg := mulF k.k1 g.1
    let m' := fmaF u.beta1 m kg.1
    let gg := mulF g.1 g.1
    let kv := mulF k.k2 gg.1
    let v' := fmaF u.beta2 v kv.1
    let mh := mulF m'.1 k.b1
    let vh := mulF v'.1 k.b2
    let rt := sqrtF vh.1
    let den := addF rt.1 u.eps
    let q := divF mh.1 den.1
    let d := fmaF lambda w q.1
    let w' := fmaF neg.1 d.1 w
    ((w'.1, [mh.2, vh.2, rt.2, den.2, q.2, d.2, w'.2].foldl Flags.or {}), (m'.1, (gf.or kg.2).or m'.2),
      (v'.1, ((gf.or gg.2).or kv.2).or v'.2))
  else
    let m' := fmaF u.beta1 m g.1
    let d := if u.nesterov then fmaF u.beta1 m'.1 g.1 else (m'.1, {})
    let dw := fmaF lambda w d.1
    let w' := fmaF neg.1 dw.1 w
    ((w'.1, (d.2.or dw.2).or w'.2), (m'.1, gf.or m'.2), (v, {}))

/-! ## Quantised copies (R72, R74–R77) -/

/-- 2^j as an exact value. -/
def pow2 (j : Int) : XV := XV.ofScaled 1 j

/-- One butterfly stage over a block. -/
def blockStage (h : Nat) (v : List Flagged) : List Flagged :=
  v.zipIdx.map (fun e =>
    let i := e.2
    if i / h % 2 = 0 then
      let r := addF e.1.1 (v.getD (i + h) (0, {})).1
      (r.1, e.1.2.or r.2)
    else
      let r := subF (v.getD (i - h) (0, {})).1 e.1.1
      (r.1, e.1.2.or r.2))

/-- The sign bits of a rotation for a contraction block (R51, R76). -/
def rotSigns (key layer index b j : Nat) : List Bool :=
  (List.range b).map (fun i =>
    let k := b * j + i
    bitOf ((philox key 0 (layer % 65536 * 65536) index (2 * 2 ^ 24 + k / 4 % 2 ^ 24)).getD (k % 4) 0) 31)

/-- A block rotated (R75): signs, the butterfly stages, and the scaling by 1/√b. -/
def rotateBlock (b : Nat) (signs : List Bool) (v : List Flagged) : List Flagged :=
  let v := v.zipIdx.map (fun e => if signs.getD e.2 false then ((negF e.1.1).1, e.1.2) else e.1)
  let stages := (List.range (Nat.log2 b)).map (fun i => 2 ^ i)
  let v := stages.foldl (fun v h => blockStage h v) v
  let f := rneF32 (pow2 (-(Nat.log2 b / 2 : Nat) : Int))
  v.map (fun e => let r := mulF e.1 f; (r.1, e.2.or r.2))

/-- A run of values along the contraction: smoothed, then extended with zeros to whole blocks and rotated (R74–R77). -/
def copyRun (key : Nat) (how : CopySpec) (v : List (BitVec 32)) : List Flagged :=
  let smooth (e : BitVec 32 × Nat) : Flagged :=
    match how.smooth[e.2]? with
    | some j => mulF e.1 (rneF32 (pow2 (clampInt j (-16) 15)))
    | none => (e.1, {})
  let v := v.zipIdx.map smooth
  if how.rotSize = 0 then v
  else
    let n := cdiv v.length how.rotSize
    let v := v ++ List.replicate (n * how.rotSize - v.length) ((0, {}) : Flagged)
    (List.range n).flatMap (fun j => rotateBlock how.rotSize (rotSigns key how.layer how.rotIndex how.rotSize j)
      ((v.drop (how.rotSize * j)).take how.rotSize))

/-- A weight's values as its copy quantises them, in the copy's logical order (R29, R72, R75). -/
def copyValues (key : Nat) (how : CopySpec) (w : List Nat) : List Flagged :=
  let k := max 1 how.k
  let n := w.length / k
  let at_ (i : Nat) : BitVec 32 := BitVec.ofNat 32 (w.getD i 0)
  let runs := (List.range n).map (fun j =>
    copyRun key how ((List.range k).map (fun i => at_ (if how.downCols then i * n + j else j * k + i))))
  if how.downCols then
    let len := (runs.map List.length).foldl max 0
    (List.range len).flatMap (fun i => runs.map (fun r => r.getD i (0, {})))
  else runs.flatten

/-- The exact range of values (R72). -/
def exactRange (xs : List (BitVec 32)) : XV × XV :=
  let fs := (xs.map f32).filter XV.isFin
  match fs with
  | [] => (XV.ofInt 0, XV.ofInt 0)
  | x :: rest => rest.foldl (fun r y => (xvMin r.1 y, xvMax r.2 y)) (x, x)

/-- A quantised copy written: its codes, its record, its flags (R72, R162). -/
def writeCopy (key step : Nat) (how : CopySpec) (f : Fmt) (r : ScaleRec) (w : List Nat) : List Nat × ScaleRec × Flags :=
  let vs := copyValues key how w
  let (lo, hi) := exactRange (vs.map (fun e => e.1))
  let (sc, z) := derive f lo hi
  let cs := vs.map (fun e => quantise f sc z e.1)
  let fl := (vs.map (fun e => e.2) ++ cs.map (fun e => e.2)).foldl Flags.or {}
  (cs.map (fun e => e.1), { r with scale := sc, zp := z, step := step, epoch := 0, sealed := true, histN := 0 }, fl)

/-! ## A whole update (R159–R162) -/

/-- The reduced gradient of a master weight, element by element with its exponent, from the slices that feed it. -/
def gradOf (p : Program) (recs : List ScaleRec) (slices : AL Nat Slice) (master i : Nat) : Option (Int × Int) :=
  (List.find? (fun (e : Nat × Slice) => AL.get e.2.tensor e.2.tensor p.masterOf == master && decide (e.2.first ≤ i) &&
      decide (i < e.2.first + e.2.vals.length)) slices).map (fun (e : Nat × Slice) =>
    (e.2.vals.getD (i - e.2.first) 0, ((recOf recs e.2.tensor).map (·.fxrExp)).getD 0))

/-- The master weights of a program. -/
def masters (p : Program) : List SlotTensor := p.slotTensors.filter (fun a => decide (a.role = .master))

/-- A moment array's id for a master. -/
def momentId (p : Program) (role : SlotRole) : Option Nat := (p.slotTensors.find? (fun a => decide (a.role = role))).map (·.tensor)

/-- Every element of every master of a slot has its reduced gradient. -/
def slicesCover (p : Program) (d : SlotData) (slices : AL Nat Slice) : Bool :=
  (masters p).all (fun a =>
    let n := (AL.get [] a.tensor d.arrays).length
    (List.filter (fun (e : Nat × Slice) => AL.get e.2.tensor e.2.tensor p.masterOf == a.tensor) slices).foldl
      (fun (k : Nat) (e : Nat × Slice) => k + e.2.vals.length) 0 == n)

/-- A new slot content with the flag words of its arrays. -/
structure Updated where
  data  : SlotData
  flags : List (Nat × Flags)
  deriving DecidableEq, Repr

/-- One master weight and its moments updated. -/
def updateMaster (p : Program) (recs : List ScaleRec) (u : UpdateRec) (k : UpdateConsts) (c : BitVec 32)
    (slices : AL Nat Slice) (old : SlotData) (acc : Updated) (a : SlotTensor) : Updated :=
  let get (id : Option Nat) : List Nat := (id.map (fun i => AL.get [] i old.arrays)).getD []
  let mid := momentId p (.momentM a.tensor)
  let vid := momentId p (.momentV a.tensor)
  let w := AL.get [] a.tensor old.arrays
  let m := get mid
  let v := get vid
  let lambda := if a.noDecay then 0 else u.lambda
  let out := w.zipIdx.map (fun e =>
    let g := (gradOf p recs slices a.tensor e.2).getD (0, 0)
    updateElem u k lambda c g.1 g.2 (BitVec.ofNat 32 e.1) (BitVec.ofNat 32 (m.getD e.2 0)) (BitVec.ofNat 32 (v.getD e.2 0)))
  let put (id : Option Nat) (xs : List Flagged) (d : Updated) : Updated :=
    match id with
    | some i => { data := { d.data with arrays := AL.set i (xs.map (fun e => e.1.toNat)) d.data.arrays }
                  flags := d.flags ++ [(i, xs.foldl (fun (f : Flags) (e : Flagged) => f.or e.2) k.flags)] }
    | none => d
  let acc := put (some a.tensor) (out.map (fun e => e.1)) acc
  let acc := put mid (out.map (fun e => e.2.1)) acc
  if u.program = 1 then put vid (out.map (fun e => e.2.2)) acc else acc

/-- The quantised copies of a slot written from its new master weights (R162). -/
def updateCopy (p : Program) (key step : Nat) (acc : Updated) (a : SlotTensor) : Updated :=
  match a.role with
  | .quantised master how =>
    let f := slotFmt p a.tensor
    let r := (recOf acc.data.records a.tensor).getD {}
    let out := writeCopy key step how f r (AL.get [] master acc.data.arrays)
    { data := { acc.data with
        arrays := AL.set a.tensor out.1 acc.data.arrays
        records := acc.data.records.map (fun x => if x.tensor = a.tensor ∧ x.inst = r.inst ∧ x.fmt ≠ 0xF then out.2.1 else x) }
      flags := acc.flags ++ [(a.tensor, out.2.2)] }
  | _ => acc

/-- Version N of a slot from version N − 1 and the reduced gradients (R159–R162); without a clip factor it is an exact copy
with t unchanged (R161). -/
def updateSlot (p : Program) (key step : Nat) (recs : List ScaleRec) (u : UpdateRec) (clip : Option (BitVec 32)) (cf : Flags)
    (slices : AL Nat Slice) (old : SlotData) : Updated :=
  match clip with
  | none => ⟨{ old with records := recs }, []⟩
  | some c =>
    let t := (old.t + 1) % 2 ^ 32
    let k0 := updateConsts u t
    let k := { k0 with flags := k0.flags.or cf }
    let start : Updated := ⟨{ arrays := old.arrays, t := t, records := recs }, []⟩
    let acc := (masters p).foldl (updateMaster p recs u k c slices old) start
    let acc := p.slotTensors.foldl (updateCopy p key step) acc
    { acc with flags := acc.flags.map (fun e => (e.1, e.2.or k.flags)) }

/-! ## CRC lists and digests (R163) -/

/-- The CRC of a slice over the values written for its elements: master weight, then moments (R163). -/
def sliceCrc (p : Program) (u : UpdateRec) (d : SlotData) (e : Slice) : Nat :=
  let master := AL.get e.tensor e.tensor p.masterOf
  let ids := [some master, momentId p (.momentM master)] ++ (if u.program = 1 then [momentId p (.momentV master)] else [])
  crc64 ((ids.filterMap id).flatMap (fun i =>
    packCodes (slotFmt p i).bits (((AL.get [] i d.arrays).drop e.first).take e.vals.length)))

/-- The quantised copies of a program in increasing tensor id. -/
def copies (p : Program) : List SlotTensor :=
  sortBy (fun a b => decide (a.tensor ≤ b.tensor)) (p.slotTensors.filter (fun a => match a.role with
    | .quantised _ _ => true
    | _ => false))

/-- The CRC of a quantised copy with its record (R163). -/
def copyCrc (p : Program) (d : SlotData) (a : SlotTensor) : Nat :=
  crc64 (packCodes (slotFmt p a.tensor).bits (AL.get [] a.tensor d.arrays) ++ recBytes ((recOf d.records a.tensor).getD {}))

/-- The CRC list of an update (R163). -/
def crcList (p : Program) (u : UpdateRec) (slices : AL Nat Slice) (d : SlotData) : List Nat :=
  let ss := sortBy (fun (a b : Nat × Slice) => decide (a.1 ≤ b.1)) slices
  ss.map (fun e => sliceCrc p u d e.2) ++ (copies p).map (copyCrc p d)

/-- The update digest (R163). -/
def updateDigest (step : Nat) (crcs : List Nat) (t : Nat) : List Byte :=
  sha512 (leBytes 8 step ++ crcs.flatMap (leBytes 8) ++ leBytes 4 (t % 2 ^ 32))

end Sys2Proof.Machine
end

