-- ==== Sys2Proof/Machine/GradientFlow.lean ====
section
/-! DEFINITION. Gradients from their contributions to the update of the version slots, and the decisions about scale
records (R79–R86, R144–R166). -/

namespace Sys2Proof.Machine

/-! ## Scale decisions (R67, R68, R79–R82) -/

/-- A record of a step's scale tensor changed. -/
def Step.updRec (t : Step) (tensor inst : Nat) (f : ScaleRec → ScaleRec) : Step :=
  { t with records := t.records.map (fun (r : ScaleRec) =>
      if r.tensor = tensor ∧ r.inst = inst ∧ r.fmt ≠ 0xF then f r else r) }

/-- The first attempt of a tensor's index is discarded: its output, format and flags go (R80, R81, R112). -/
def Step.dropAttempt (t : Step) (tensor inst : Nat) : Step :=
  { t with
    outTiles := t.outTiles.filter (fun e => !(e.1.1 == tensor && e.1.2.1 == inst))
    flagWords := t.flagWords.filter (fun e => !(e.1.1 == tensor && e.1.2 == inst)) }

/-- An arbitration of a step that names a tensor is outstanding. -/
def State.tensorBusy (s : State) (c : CtxId) (n tensor : Nat) : Bool :=
  s.cores.tbl.any (fun e => e.2.arbs.any (fun a => decide (a.ctx = c) && a.step == n && a.place.tensor == tensor))

/-- The first attempts of an operation's other outputs start again with it, unless they are sealed (R81, R142): their outputs and
ranges go. -/
def Step.dropSiblings (t : Step) (tensor inst : Nat) : Step :=
  let outs := t.ran.filterMap (fun e =>
    if e.2.outInst = inst ∧ e.2.outTensor = tensor ∧ e.2.fn = .swiglu then some e.2.out2
    else if e.2.outInst = inst ∧ e.2.out2 = tensor ∧ e.2.fn = .swiglu then some e.2.outTensor else none)
  outs.eraseDups.foldl (fun (t : Step) o =>
    if ((recAt t.records o inst).map (·.sealed)).getD true then t
    else { t.dropAttempt o inst with measures := AL.del (o, inst) t.measures }) t

/-- A pass writes an output of a tensor's index. -/
def writesOut (tensor inst : Nat) (o : PassOrder) : Bool :=
  o.outInst == inst && !o.regrow && (o.outTensor == tensor || (decide (o.fn = .swiglu) && o.out2 == tensor))

/-- SCALE_REPLAY_DECISION (R79–R81, R142): once every pass of the first attempt has ended and every tile has passed its checks,
the index is replayed with its exact range, its producing passes outstanding again, or its record is sealed. `q`: the
saturation allowance of the producing operation. -/
def execScaleReplayDecision (c : CtxId) (tensor inst q : Nat) (s : State) : Host.Outcome State Fault Refusal :=
  .next (
    match (s.ctx c).working with
    | none => s
    | some t =>
      match recAt t.records tensor inst with
      | none => s
      | some r =>
        if s.tensorBusy c t.number tensor || r.sealed || !s.noneLeft c t.number (writesOut tensor inst) then s
        else
          let m : Measure := AL.get {} (tensor, inst) t.measures
          let close (t : Step) : Step := t.updRec tensor inst (fun r => { r with sealed := true })
          if r.epoch ≠ 0 then s.updStep c t.number close
          else
            match replayCause q r m with
            | none => s.updStep c t.number close
            | some cause =>
              let r' := replayRecord r m
              let s := s.zeroLanes.updStep c t.number (fun t =>
                let t := ((t.dropAttempt tensor inst).dropSiblings tensor inst).updRec tensor inst (fun _ => r')
                { t with replays := t.replays ++ [⟨{ r' with sealed := true }, cause, if cause = .scaleSaturation then m.far else 0⟩] })
              s.rerun c t.number (fun _ o => writesOut tensor inst o))

/-- The last producer of a tensor has ended in a step: no pass that writes it is left, no arbitration of it is outstanding, and every
narrow record of it is sealed (R68, R82). -/
def State.tensorDone (s : State) (c : CtxId) (t : Step) (tensor : Nat) : Bool :=
  s.noneLeft c t.number (fun o => o.outTensor == tensor || (decide (o.fn = .swiglu) && o.out2 == tensor)) &&
    !s.tensorBusy c t.number tensor &&
    t.records.all (fun r => r.tensor != tensor || r.sealed || r.weight || !((recFmt r).map Fmt.isNarrow).getD false)

/-- SCALE_HISTORY_MERGE (R82): once a tensor's last producer has ended, the measured ranges of every index of a tensor are merged into the history that the next
step's records start from. Until that step starts, the merged history stands in the records of the step that measured it,
so a snapshot of its version carries it (DESIGN CHOICE, log 114: R82 speaks only of the next step's copy). -/
def execScaleHistoryMerge (c : CtxId) (tensor : Nat) (s : State) : Host.Outcome State Fault Refusal :=
  .next (
    match (s.ctx c).working with
    | none => s
    | some t =>
      if (AL.find? tensor t.merged).isSome || !s.tensorDone c t tensor then s
      else
        let m := ((t.measures.filter (fun e => e.1.1 == tensor)).map (fun e => e.2)).foldl Measure.merge {}
        let push (r : ScaleRec) : ScaleRec :=
          if r.tensor = tensor ∧ r.fmt ≠ 0xF then
            pushHistory ((recAt t.startRecords r.tensor r.inst).getD r) m r
          else r
        s.updStep c t.number (fun t => { t with merged := AL.set tensor m t.merged, records := t.records.map push }))

/-! ## Reductions (R84–R86, R154–R156, R164) -/

/-- The residue of FXR64 elements modulo 65,535, markers apart (R234). -/
def residueOf (ns : List Int) : Nat :=
  ((ns.filter (fun n => decide (n ≠ fxrMarker))).foldl (fun a n => (a + n) % 65535) 0 % 65535).toNat

/-- A failed reduction check of a step (R234): not arbitrated; the reduction class is dirty. `die`: the link die suspect. -/
def State.reductionFailed (s : State) (c : CtxId) (n die expected observed : Nat) : State :=
  let a := (((s.ctx c).stepNo n).map (·.attempt)).getD 0
  let s := s.emit (some c) n .reductionCheck 0 { mkSig 0x0D 3 6 die .recoverable with
    ctx := c.val, step := n, attempt := a, expected := expected, observed := observed }
  s.failClass c n 4 .reductionCheck

/-- The gradient tensors of a program but the norm tensor. -/
def plainGrads (p : Program) : List Nat := (p.gradTensors.map (fun g => g.1)).filter (fun g => g != p.normTensor)

/-- Every reduction of a step but the norm's is clean. -/
def Step.reduced? (t : Step) (p : Program) : Bool := (plainGrads p).all (fun g => t.clean.contains g)

/-- Every reduction of a step is clean: the gradients', the norm's, those of other FXR64 tensors (R84, R166). -/
def Step.updateClean (t : Step) (p : Program) : Bool :=
  t.reduced? p && t.clean.contains p.normTensor &&
    p.fxrTensors.all (fun e => t.clean.contains e.1 || !p.collectives.any (fun b => b.tensor == e.1))

/-- The contribution of this module to the norm all-reduce: its q, or 0 where it is not the lowest replica of its shard
(R155). -/
def normShare (p : Program) (lost : List Nat) (self : Nat) (q : Int) : Int :=
  match writerOf p lost (shardOf p self) with
  | some m => if m = self then q else 0
  | none => q

/-- A step with its norm contribution q formed from the slices that have landed: the exact sum of their entries (R154). -/
def Step.formQ (t : Step) (p : Program) : Step :=
  let norm := (recOf t.records p.normTensor).getD {}
  let one (g : Slice) : Int := (normEntry (((recOf t.records g.tensor).map (·.fxrExp)).getD 0) norm g.vals).1
  { t with qLocal := (t.slices.map (fun e => one e.2)).foldl fxrAdd 0 }

/-- What a contribution to the norm tensor leaves for its reduction: the overflow of its one entry and its magnitude (R45,
R84, R154). -/
def Step.enterNorm (t : Step) (p : Program) (share : Int) : Step :=
  let r := (recOf t.records p.normTensor).getD {}
  if share = fxrMarker then t
  else
    let ovf := decide (fxrBound r.guard < share.natAbs)
    { t with
      amags := AL.set p.normTensor (rneF32 (XV.ofScaled share r.fxrExp)) t.amags
      overs := if ovf && !t.overs.contains p.normTensor then t.overs ++ [p.normTensor] else t.overs }

/-- Every slice of this module has landed (R144, R154). -/
def State.slicesIn (s : State) (c : CtxId) (t : Step) (p : Program) : Bool :=
  slicesCover p ((s.ctx c).dataAt t (t.number - 1)) t.slices

/-- The norm contribution goes to the clearing's all-reduce, once every reduction but the norm's is clean and every slice of
this module has landed (R154, R155). -/
def State.sendNorm (s : State) (c : CtxId) (n : Nat) (p : Program) : State :=
  match (s.ctx c).stepNo n with
  | some t =>
    if !t.reduced? p || t.normSent || !s.slicesIn c t p then s
    else
      let share := normShare p (s.ctx c).lostMods s.ident t.qLocal
      (s.updStep c n (fun t => { t.enterNorm p share with normSent := true })).send (.norm c n share)
  | none => s

/-- SLICE_LAND (R144, R154, R164): a reduced slice lands; its sum of squares joins the norm contribution, and the slice goes
to the buddy, with the step's update record once per step. -/
def execSliceLand (c : CtxId) (slice tensor first : Nat) (vals : List Int) (residue : Nat) (s : State) :
    Host.Outcome State Fault Refusal :=
  .next (
    let x := s.ctx c
    match x.working, x.prog with
    | some t, some p =>
      if t.state ≠ .backward || (AL.find? slice t.slices).isSome || decide (2 ^ 24 < vals.length) then s
      else if residueOf vals ≠ residue % 65535 then s.reductionFailed c t.number 0 (residue % 65535) (residueOf vals)
      else
        let ss := (sliceSumSq vals).getD 0
        let sl : Slice := ⟨tensor, first, vals, ss, vals.contains fxrMarker, residue % 65535⟩
        let s := s.updStep c t.number (fun t => ({ t with slices := AL.set slice sl t.slices, updSent := true } : Step).formQ p)
        let s := if t.replay then s
          else (s.feed c (.slice t.number slice tensor first vals)).send (.slice c t.number slice tensor first vals (if t.updSent then none else some t.upd))
        s.sendNorm c t.number p
    | _, _ => s)

/-- BUDDY_SLICE_RECEIVE (R164): a slice of the buddy's step, and its update record once, are kept for the mirror; one that
arrives before its step takes effect here, or is re-executed, waits for it. -/
def execBuddySliceReceive (c : CtxId) (tag : StepTag) (slice tensor first : Nat) (vals : List Int) (update : Option UpdateRec)
    (s : State) : Host.Outcome State Fault Refusal :=
  .next (s.inEpoch c tag.epoch (
    let step := tag.step
    let sl : Slice := ⟨tensor, first, vals, (sliceSumSq vals).getD 0, vals.contains fxrMarker, residueOf vals⟩
    match (s.ctx c).stepNo step with
    | none =>
      if (s.ctx c).loaded ∧ (s.ctx c).committed + (s.ctx c).steps.length < step then
        s.updCtx c (fun x => { x with early := x.early ++ [(step, slice, sl, update)] })
      else s
    | some t =>
      if t.state = .discarded then s.updCtx c (fun x => { x with early := x.early ++ [(step, slice, sl, update)] })
      else s.updStep c step (fun t => t.takeSlice slice sl update)))

/-- What a reduced overflow makes of a tensor (R85, R156): landed and received slices and contributions discarded, the exponent raised, EPOCH 1,
a replay entry; q and c come from the replayed sum. -/
def Step.overflowReplay (t : Step) (p : Program) (tensor : Nat) (amax : BitVec 32) : Step :=
  let r := overflowRecord amax ((recOf t.records tensor).getD {})
  let t : Step :=
    { t.updRec tensor 0 (fun _ => r) with
    slices := t.slices.filter (fun e => e.2.tensor != tensor), grads := t.grads.filter (fun e => e.1.1 != tensor)
    recvSlices := t.recvSlices.filter (fun e => e.2.tensor != tensor), handed := t.handed.filter (fun e => e.1 != tensor)
    waitGrads := t.waitGrads.filter (fun e => e.tensor != tensor), gathered := t.gathered.filter (fun g => g != tensor)
    normSent := false, qNorm := none
    overs := t.overs.filter (fun g => g != tensor), amags := AL.del tensor t.amags
    fxrReplayed := t.fxrReplayed ++ [tensor], clip := none, nonfinite := false
    replays := t.replays ++ [⟨{ r with sealed := true }, .fxrOverflow, 0⟩] }
  t.formQ p

/-- REDUCTION_COMPLETE (R84–R86): the tensor's reduction ends with the clearing's magnitude and overflow flag. An overflow
replays the tensor once, every pass that contributes to it outstanding again; a second one is a failed reduction check; else the tensor is clean and its magnitude becomes
its history. -/
def execReductionComplete (c : CtxId) (tensor : Nat) (amax : BitVec 32) (overflow : Bool) (s : State) :
    Host.Outcome State Fault Refusal :=
  .next (
    let x := s.ctx c
    match x.working, x.prog with
    | some t, some p =>
      if t.state ≠ .backward || t.clean.contains tensor then s
      else if overflow then
        if t.fxrReplayed.contains tensor then s.reductionFailed c t.number 0 0 0
        else
          let s := s.updStep c t.number (fun t => t.overflowReplay p tensor amax)
          (s.rerun c t.number (fun _ o => o.outTensor == tensor)).zeroLanes.sendNorm c t.number p
      else
        let s := s.updStep c t.number (fun t =>
          { t.updRec tensor 0 (pushMagnitude amax) with clean := t.clean ++ [tensor], amags := AL.set tensor amax t.amags })
        s.sendNorm c t.number p
    | _, _ => s)

/-- NORM_ALLREDUCE_COMPLETE (R155, R156, R161): the clip factor is formed from Q_n; a non-finite norm skips the update or,
where the update record says so, stops the ring. -/
def execNormAllReduceComplete (c : CtxId) (qn : Int) (s : State) : Host.Outcome State Fault Refusal :=
  .next (
    let x := s.ctx c
    match x.working, x.prog with
    | some t, some p =>
      if t.state ≠ .backward || !t.reduced? p || t.clip.isSome || t.nonfinite then s
      else
        let r := (recOf t.records p.normTensor).getD {}
        let k := clipFactor qn r.fxrExp t.upd.tau
        let s := s.updStep c t.number (fun t => { t with qNorm := some qn, clip := k.1, clipFlags := k.2, nonfinite := k.1.isNone })
        let s := s.feed c (.clip t.number k.1)
        if k.1.isNone && t.upd.nonfinite then s.stopStep c t.number .gradNonfinite else s
    | _, _ => s)

/-! ## The update (R151, R159–R166) -/

/-- A slot that a quick copy still reads is copied before it is written (R301): every block of it. -/
def Ctx.guardQuick (x : Ctx) (v : Nat) : Ctx :=
  { x with quick := x.quick.map (fun q => if q.slot = slotIx x v then { q with copied := q.copied.map (fun _ => true) } else q) }

/-- The mirror's inputs are here: the buddy's update record and every slice, where there is a buddy (R164); a sapling has no mirror (R288). -/
def State.mirrorReady (s : State) (c : CtxId) (t : Step) (p : Program) : Bool :=
  (buddyOf p s.ident).isNone || s.shadowing c ||
    (t.recvUpdate.isSome && slicesCover p ((s.ctx c).mirSlot (t.number - 1)).data t.recvSlices)

/-- What the mirror's update reads: the buddy's version N − 1 and its slices (R164, R180). -/
def State.mirrorReads (s : State) (c : CtxId) (n : Nat) (l : Loc) : Bool :=
  match l with
  | .mirror d i _ => decide (d = c) && decide (i = slotIx (s.ctx c) (n - 1))
  | .workRecvSlice d _ => decide (d = c)
  | _ => false

/-- The mirror slot takes the buddy's update from the slices received, once they are here and the slot can be written (R151,
R164); without an update it is a copy, whose CRC list has every slice too (R161, R163). -/
def State.mirrorUpdate (s : State) (c : CtxId) (t : Step) (p : Program) : State :=
  let x := s.ctx c
  let n := t.number
  if (x.mirSlot n).writable && s.mirrorReady c t p then
    match s.badUpset (fun _ l => s.mirrorReads c n l) with
    | some s' => s'
    | none =>
    let mold := (x.mirSlot (n - 1)).data
    let shared (r : ScaleRec) : ScaleRec := if r.fmt = 8 then (recAt t.records r.tensor r.inst).getD r else r
    let mu := updateSlot p t.rngKey n (mold.records.map shared) (t.recvUpdate.getD t.upd) t.clip t.clipFlags t.recvSlices mold
    (s.chargePart c 2 (2 * 2097152 * p.mirrorUnits)).updCtx c (fun x =>
      x.updMir n (fun u => { u with state := .writing, version := n, data := mu.data }))
  else s

/-- The layers of a program's slot tensors in increasing order (R166). -/
def layersOf (p : Program) : List Nat :=
  sortBy (fun a b => decide (a ≤ b)) ((p.slotTensors.map (fun a => a.layer)).eraseDups)

/-- What the update of a step reads: version N − 1 and the reduced slices (R157, R180). -/
def State.updateReads (s : State) (c : CtxId) (n : Nat) (l : Loc) : Bool :=
  match l with
  | .live d i _ => decide (d = c) && decide (i = slotIx (s.ctx c) (n - 1))
  | .workSlice d _ => decide (d = c)
  | _ => false

/-- STEP_REDUCTIONS_CLEAN (R151, R159–R162, R166): with every reduction clean, c known and the step before decided, the
update writes version N to the live slot, layer by layer in increasing order; the mirror follows as its slices allow. Each is
computed whole here (log 115). -/
def execStepReductionsClean (c : CtxId) (s : State) : Host.Outcome State Fault Refusal :=
  .next (
    let x := s.ctx c
    match x.steps, x.prog with
    | t :: _, some p =>
      let old := x.dataAt t (t.number - 1)
      let n := t.number
      let slotFree := t.replay || (x.liveSlot n).writable
      if t.state ≠ .backward || !t.updateClean p || !(t.clip.isSome || t.nonfinite) || !slotFree ||
          !(t.nonfinite || slicesCover p old t.slices) then s
      else
        match (if t.replay then none else s.badUpset (fun _ l => s.updateReads c n l)) with
        | some s' => s'
        | none =>
        let up := updateSlot p t.rngKey n t.records t.upd t.clip t.clipFlags t.slices old
        let s := s.updStep c n (fun t =>
          let t := up.flags.foldl (fun (t : Step) (e : Nat × Flags) => t.orFlags e.1 0 e.2) t
          { t with state := .update, skipped := t.nonfinite, layersReady := layersOf p, records := up.data.records })
        if t.replay then
          s.updCtx c (fun x => { x with replaying := x.replaying.map (fun r => { r with slots := AL.set (n % 3) up.data r.slots }) })
        else
          let i := slotIx x n
          let s := (s.chargePart c 0 (2 * 2097152 * p.slotUnits)).dropUpsets (fun l => match l with
            | .live d j _ => decide (d = c) && decide (j = i)
            | _ => false)
          let s := s.updCtx c (fun x => (x.guardQuick n).updLive n (fun u => { u with state := .writing, version := n, data := up.data }))
          s.mirrorUpdate c t p
    | _, _ => s)

/-- The PROVISIONAL completion of a step, where CP_STEP_POLICY_c.PROV_CPL asks for it (R209, R218). -/
def State.provisional (s : State) (c : CtxId) (t : Step) : State :=
  if bitOf (s.reg (aStepPol c.val)) 4 && !t.provPosted then
    let s := (s.postNow c .step ⟨.provisional, t.attempt, .success, t.desc.index, 0, t.number, dTag t.desc.bytes⟩).updStep c t.number
      (fun t => { t with provPosted := true })
    s.send (.takeoverRecord c (takeoverRec (s.ring (setOf c)) { t with provPosted := true }))
  else s

/-- UPDATE_WRITTEN (R149, R163, R164, R198, R218): version N is written; the slots are PROVISIONAL, the CRC lists and digests
formed, the digest sent to the buddy, and the step goes on to CHECKING; until the mirror's inputs are here, it waits. A replayed
step exchanges no digest (R223). -/
def execUpdateWritten (c : CtxId) (s : State) : Host.Outcome State Fault Refusal :=
  .next (
    let x := s.ctx c
    match x.steps, x.prog with
    | t :: _, some p =>
      let n := t.number
      let s := if t.state = .update ∧ t.replay = false ∧ (x.mirSlot n).state ≠ .writing then s.mirrorUpdate c t p else s
      let x := s.ctx c
      if t.state ≠ .update || !(t.replay || decide ((x.mirSlot n).state = .writing)) then s
      else
        let d := x.dataAt t n
        let crcs := crcList p t.upd t.slices d
        let dig := updateDigest n crcs d.t
        if t.replay then
          (s.updStep c n (fun t => { t with
            state := .voting, crcs := crcs, digest := dig, ownCompared := true, mirCompared := true })).castVotes c
        else
          let md := (x.mirSlot n).data
          let mcrcs := crcList p (t.recvUpdate.getD t.upd) t.recvSlices md
          let alone := (buddyOf p s.ident).isNone
          let s := s.updCtx c (fun x =>
            let x := x.updLive n (fun u => { u with state := .provisional })
            x.updMir n (fun u => { u with state := .provisional }))
          let s := s.updStep c n (fun t => { t with
            state := .checking, crcs := crcs, digest := dig, mirrorCrcs := mcrcs, mirrorDigest := updateDigest n mcrcs md.t
            ownCompared := alone, mirCompared := alone })
          if s.shadowing c then s
          else (if alone then s else s.send (.digest c n dig crcs)).provisional c t
    | _, _ => s)

end Sys2Proof.Machine
end

