-- ==== Sys2Proof/Machine/Collective.lean ====
section
/-! DEFINITION. The collective engine, and the operations of the shared cache (R191, R192, R234, R349–R351). -/

namespace Sys2Proof.Machine

/-! ## Collectives (R349–R351) -/

/-- Markers among elements. -/
def markerCount (ns : List Int) : Nat := (ns.filter (fun n => decide (n = fxrMarker))).length

/-- Two elements as FP32, or words, combined. -/
def onWords (f : BitVec 32 → BitVec 32 → BitVec 32) (a b : Int) : Int :=
  ((f (BitVec.ofInt 32 a) (BitVec.ofInt 32 b)).toNat : Int)

/-- Elements of an accumulator combined with a contribution's (R349); the first contribution stands as it is. -/
def collCombine (op : CollOp) (first : Bool) (old new : List Int) : List Int :=
  let zip (f : Int → Int → Int) : List Int := if first then new else List.zipWith f old new
  match op with
  | .sum => fxrAddLists old new
  | .maxF32 => zip (onWords fmax)
  | .minF32 => zip (onWords fmin)
  | .maxFxr | .maxInt => zip max
  | .minFxr | .minInt => zip min
  | .orWord => zip (onWords (· ||| ·))
  | .andWord => zip (onWords (· &&& ·))
  | .place => new

/-- A contribution added into a block's accumulator (R349, R350): the elements by the operation, the magnitude by maximum,
overflow by OR. -/
def Accum.take (a : Accum) (op : CollOp) (tensor : Nat) (vals : List Int) (amax : BitVec 32) (ovf : Bool) : Accum :=
  { a with tensor := tensor, vals := collCombine op (decide (a.got = 0)) a.vals vals, got := a.got + 1
           amax := if a.got = 0 then amax else fmax a.amax amax, ovf := a.ovf || ovf }

/-- The residue a packet carries: that of its FXR64 elements (R234). -/
def collResidue (op : CollOp) (vals : List Int) : Nat :=
  match op with
  | .sum | .maxFxr | .minFxr => residueOf vals
  | _ => 0

/-- The marker count a packet carries (R234). -/
def collMarkers (op : CollOp) (vals : List Int) : Nat :=
  match op with
  | .sum | .maxFxr | .minFxr => markerCount vals
  | _ => 0

/-- Blocks of a collective that has landed before are complete again: a replayed reduction's land as they are (R85; log 157). -/
def Ctx.landAgain (x : Ctx) (stream : Nat) : Ctx × List ((Nat × Nat × Nat) × Accum) :=
  let again (e : (Nat × Nat × Nat) × Accum) : Bool :=
    e.1.1 == stream && decide (e.1.2.1 < AL.get 0 stream x.streamNext) && e.2.done
  ({ x with accums := x.accums.filter (fun e => !again e) }, x.accums.filter again)

/-- The collectives of a stream land in SEQ order: those at the front whose blocks here are all complete (R220, R351). The
accumulators that landed come with the context. -/
def Ctx.landStream (stream : Nat) : Nat → Ctx → Ctx × List ((Nat × Nat × Nat) × Accum)
  | 0, x => (x, [])
  | k + 1, x =>
    let q := AL.get 0 stream x.streamNext
    let mine := x.accums.filter (fun e => e.1.1 == stream && e.1.2.1 == q)
    if mine.isEmpty || mine.any (fun e => !e.2.done) then (x, [])
    else
      let r := Ctx.landStream stream k { x with
        accums := x.accums.filter (fun e => !(e.1.1 == stream && e.1.2.1 == q)), streamNext := AL.set stream (q + 1) x.streamNext }
      (r.1, mine ++ r.2)

/-- The results of a stream land; the owner of a block gives out its result (R350, R351). -/
def State.landColl (s : State) (c : CtxId) (p : Program) (stream : Nat) : State :=
  let a := (s.ctx c).landAgain stream
  let r := a.1.landStream stream (a.1.accums.length + 1)
  let s := s.updCtx c (fun _ => r.1)
  ((a.2 ++ r.2).filter (fun e => (p.collectives[e.1.2.2]?).any (fun b => b.owner == s.ident))).foldl (fun (s : State) e =>
    s.send (.collectiveResult c e.1.1 e.1.2.1 e.1.2.2 e.2.vals e.2.amax e.2.ovf)) s

/-- Elements of a hop at which neither input is a marker (R234). -/
def unmarked (a b xs : List Int) : List Int :=
  (xs.zipIdx.filter (fun e => decide (a.getD e.2 0 ≠ fxrMarker) && decide (b.getD e.2 0 ≠ fxrMarker))).map (fun e => e.1)

/-- The check of a hop (R234): the residue of the output is the sum of those of the inputs, over the positions no marker reaches, and
the output has as many markers as positions receive one. Only a sum keeps residues. -/
def hopAgrees (op : CollOp) (first : Bool) (old new out : List Int) : Bool :=
  if op ≠ .sum then true
  else
    let old := if first then new.map (fun _ => 0) else old
    let reached := ((old.zip new).filter (fun e => decide (e.1 = fxrMarker) || decide (e.2 = fxrMarker))).length
    residueOf out == (residueOf (unmarked old new old) + residueOf (unmarked old new new)) % 65535 && markerCount out == reached

/-- Elements with a fault of the adder at one position. -/
def withHopFault (f : Option (Nat × Int)) (vals : List Int) : List Int :=
  match f with
  | some (i, d) => vals.modify i (fun n => n + d)
  | none => vals

/-- The link die whose engine adds a block here: that of the port towards the block's next node, or from a node it comes from; LD0
where none is known (the spec gives a block no engine; log 159). -/
def State.engineDie (s : State) (b : CollBlock) : Nat :=
  let froms := (b.parents.filter (fun e => e.2 == s.ident)).map (fun e => e.1)
  let next := (AL.find? s.ident b.parents).toList ++ froms
  ((next.filterMap s.portTo).head?.map linkDieOf).getD 0

/-- A contribution joins its block's accumulator; the complete block goes to the next node or lands at its owner (R350,
R351). A hop whose residue or marker check fails is a failed reduction check of its link die (R234). -/
def State.collJoin (s : State) (c : CtxId) (p : Program) (b : CollBlock) (stream seq block tensor : Nat) (vals : List Int)
    (amax : BitVec 32) (ovf : Bool) (hop : Option (Nat × Int)) : State :=
  let old : Accum := AL.get {} (stream, seq, block) (s.ctx c).accums
  let a := old.take b.op tensor vals amax ovf
  let a := { a with vals := withHopFault hop a.vals, done := decide (AL.get 0 s.ident b.expects ≤ a.got) }
  if hopAgrees b.op (decide (old.got = 0)) old.vals vals a.vals = false then
    match (s.ctx c).faultStep with
    | some t => s.reductionFailed c t.number (s.engineDie b) ((residueOf old.vals + residueOf vals) % 65535) (residueOf a.vals)
    | none => s
  else
  let s := s.updCtx c (fun x => { x with accums := AL.set (stream, seq, block) a x.accums })
  if a.done then
    let s := match AL.find? s.ident b.parents with
      | some up => s.send (.collective c up stream seq block a.vals (collResidue b.op a.vals) (collMarkers b.op a.vals) a.amax a.ovf)
      | none => s
    s.landColl c p stream
  else s

/-- COLLECTIVE_CONTRIBUTION_ARRIVE (R234, R349–R351): a contribution that arrives, its packet's residue and marker count checked, joins
its block's accumulator; `hopFault` is what the adder gets wrong at a position. -/
def execCollectiveContributionArrive (c : CtxId) (stream seq block tensor : Nat) (epoch : BitVec 16) (vals : List Int)
    (residue markers : Nat) (amax : BitVec 32) (overflow : Bool) (hopFault : Option (Nat × Int)) (s : State) :
    Host.Outcome State Fault Refusal :=
  .next (
    let x := s.ctx c
    match x.prog with
    | none => s
    | some p =>
      match p.collectives[block]? with
      | none => s
      | some b =>
        let a : Accum := AL.get {} (stream, seq, block) x.accums
        if epoch ≠ x.epoch then s.updCtx c (fun x => { x with epochDrops := x.epochDrops + 1 })
        else if decide (256 ≤ stream) || (decide (seq < AL.get 0 stream x.streamNext) && decide (b.op ≠ .sum)) || a.done then s
        else if decide (b.op = .sum) && (decide (residueOf vals ≠ residue % 65535) || decide (markerCount vals ≠ markers)) then
          match x.faultStep with
          | some t => s.reductionFailed c t.number (s.engineDie b) (residue % 65535) (residueOf vals)
          | none => s
        else s.collJoin c p b stream seq block tensor vals amax overflow hopFault)

/-! ## The shared cache (R191, R192) -/

/-- Bytes an operation works on: full-width accumulator slots for the two combines (R89, R191). -/
def cacheWidth : CacheOp → Nat
  | .add64 | .accInt | .fxrAdd | .max64 | .min64 => 8
  | .accFp => 16
  | _ => 4

/-- The new value of a reduction target (R191). A combine adds accumulators exactly, with their classes (R37, R38). -/
def cacheApply (op : CacheOp) (old v : Nat) : Nat :=
  let s (w : Nat) (f : Int → Int → Int) : Nat := ofSigned w (f (toSigned w old) (toSigned w v))
  match op with
  | .add32 => (old + v) % 2 ^ 32
  | .add64 => (old + v) % 2 ^ 64
  | .accInt => accSlot .int8 ((slotAcc .int8 old).add (slotAcc .int8 v))
  | .accFp => accSlot .e4m3 ((slotAcc .e4m3 old).add (slotAcc .e4m3 v))
  | .fxrAdd => s 64 fxrAdd
  | .maxF32 => (fmax (BitVec.ofNat 32 old) (BitVec.ofNat 32 v)).toNat
  | .minF32 => (fmin (BitVec.ofNat 32 old) (BitVec.ofNat 32 v)).toNat
  | .max32 => s 32 max
  | .min32 => s 32 min
  | .max64 => s 64 max
  | .min64 => s 64 min
  | .or32 => (old ||| v) % 2 ^ 32
  | .deposit _ => v % 2 ^ 32

/-- The address an operation works at: a deposit goes to the slot of its chunk index (R116, R191). -/
def cacheAddr (op : CacheOp) (a : Nat) : Nat :=
  match op with
  | .deposit chunk => a + 4 * chunk
  | _ => a

/-- The inputs of the operations that write a target are still held (R192): its step computes, the record of its instance, where it has
one, is not sealed, and no log they read has been released (R136). -/
def State.inputsHeld (s : State) (e : RedTarget) : Bool :=
  let x := s.ctx e.ctx
  let logs := ((x.prog.map (·.pushDecls)).getD []).filter (fun d => d.feeds.contains e.tensor)
  let there (d : PushDecl) : Bool := x.logStacks.any (fun (st : Nat × List WLog) =>
    st.2.any (fun w => w.tag.tensor == d.tensor && w.tag.inst == e.inst && w.tag.step == e.step))
  match x.stepNo e.step with
  | some t => (decide (t.state = .forward) || (decide (t.state = .backward) && logs.all there)) &&
      !((recAt t.records e.tensor e.inst).map (·.sealed)).getD false
  | none => false

/-- Bytes of a line of the shared cache (chapter 7, before R191). -/
def cacheLine : Nat := 256

/-- The cache bank that holds an address: its die and its line's number there (the manual gives no number of banks; log 124). -/
def cacheBank (a : Nat) : Nat × Nat := (dpaDie a, a / cacheLine % 65536)

/-- The targets that make the line of an address dirty. -/
def State.dirtyIn (s : State) (a : Nat) : List RedTarget :=
  (s.mem.targets.filter (fun e => e.1 / cacheLine == a / cacheLine)).map (fun e => e.2)

/-- The reduction target of an instance is reset: every address it has written holds what it held before (R192). -/
def State.resetTarget (s : State) (e : RedTarget) : State :=
  let mine (q : Nat × RedTarget) : Bool := decide (q.2.ctx = e.ctx) && q.2.step == e.step && q.2.tensor == e.tensor && q.2.inst == e.inst
  let gone := s.mem.targets.filter mine
  let s := gone.foldl (fun (s : State) q => s.hbmPut q.1 (leBytes q.2.width q.2.before)) s
  { s with mem := { s.mem with
    targets := s.mem.targets.filter (fun q => !mine q)
    cacheLost := s.mem.cacheLost ++ (gone.map (fun q => q.1)).filter (fun k => !s.mem.cacheLost.contains k) } }

/-- A parity error in a dirty line (R192): the target of the instance that made it dirty is reset and the passes that contribute to it
are outstanding again, with CACHE_PARITY; without their inputs the clearing rolls back. -/
def State.cacheParity (s : State) (a : Nat) (e : RedTarget) : State :=
  let held := s.inputsHeld e
  let s := { s with mem := { s.mem with cacheErrs := AL.upd 0 (cacheBank a) (· + 1) s.mem.cacheErrs } }
  let word := leNat (s.hbmGet (a / 4 * 4) 4)
  let s := s.resetTarget e
  let s := s.emit (some e.ctx) e.step .cacheParity (dpaDie a) { mkSig 0x0F (if held then 9 else 3) 4 (cacheBank a).2
    (if held then .corrected else .recoverable) with
      ctx := e.ctx.val, step := e.step, tensor := e.tensor, inst := e.inst, observed := word
      attempt := (((s.ctx e.ctx).stepNo e.step).map (·.attempt)).getD 0 }
  if held then (s.countRepair e.ctx).rerun e.ctx e.step (fun _ o => o.outTensor == e.tensor && o.outInst == e.inst)
  else s.parityRollback e.ctx .cacheParity

/-- A core issues operations for a context: in the active set, out of reset, the context loaded and not paused. -/
def State.issues (s : State) (p : CoreId) (c : CtxId) : Bool :=
  decide ((s.core p).status = .active) && !s.inReset (.core p) && (s.ctx c).loaded && !(s.ctx c).paused

/-- The residue check of an accumulator combine: modulo 65,535 the new partial is the old one plus the contribution (R231). -/
def combineBad (op : CacheOp) (old v new : Nat) : Bool :=
  let acc (n : Nat) : Option Int := match op with
    | .accInt => accTotal [slotAcc .int8 n]
    | .accFp => accTotal [slotAcc .e4m3 n]
    | _ => none
  match acc old, acc v, acc new with
  | some a, some b, some c => decide ((c - a - b) % 65535 ≠ 0)
  | _, _, _ => false

/-- A combine with an error in the sum it forms. -/
def combineFault (op : CacheOp) (delta : Int) (n : Nat) : Nat :=
  match op with
  | .accInt => accSlot .int8 ((slotAcc .int8 n).off delta)
  | .accFp => accSlot .e4m3 ((slotAcc .e4m3 n).off delta)
  | _ => n

/-- A reduction carried out on its target, whose line it makes dirty for the tensor instance (R191, R192). -/
def State.reduceAt (s : State) (op : CacheOp) (c : CtxId) (n a v tensor inst : Nat) : State :=
  s.reduceTo c n tensor inst a (leBytes (cacheWidth op) (cacheApply op (leNat (s.hbmGet a (cacheWidth op))) v))

/-- An accumulator combine with an error in its sum: its residue check fails (R226, R231). The referee's result is the right sum. -/
def State.combineWith (s : State) (op : CacheOp) (core : CoreId) (c : CtxId) (n a v tensor inst : Nat) (delta : Int) : State :=
  let old := leNat (s.hbmGet a (cacheWidth op))
  let right := cacheApply op old v
  let seen := combineFault op delta right
  let s := (s.reduceAt op c n a v tensor inst).hbmPut a (leBytes (cacheWidth op) seen)
  if combineBad op old v seen then
    s.checkFailed core c n .drain .drainCheck 0x04 { tensor := tensor, inst := inst } (right % 65535) (seen % 65535)
      { fix := .cache a (leBytes (cacheWidth op) right), equal := right == seen }
  else s

/-- CACHE_REDUCTION (R37, R89, R116, R185–R187, R191, R192): a core's non-returning reduction of the value in one of its slots
on a target of its context. A line that fails parity is repaired first: a clean one is read again from its home stack, a
dirty one starts again with its contributors. -/
def execCacheReduction (op : CacheOp) (core : CoreId) (c : CtxId) (dva : Nat) (src : SlotRef) (tensor inst : Nat)
    (fault : CacheFault) (s : State) : Host.Outcome State Fault Refusal :=
  .next (
    let n := s.workNo c
    let at_ := cacheAddr op dva
    if !s.issues core c then s
    else
      match s.reach c at_ .reduction with
      | none => s.devFault c n at_ .reduction
      | some a =>
        match s.readsBad core c n { op := tensor } false [src.ref] with
        | some s' => s'
        | none =>
          let v := (s.core core).spadField [src.ref] src.off (cacheWidth op)
          match fault, s.dirtyIn a with
          | .parity, e :: es => (e :: es).eraseDups.foldl (fun (s : State) e => s.cacheParity a e) s
          | .parity, [] =>
            let s := { s with mem := { s.mem with cacheErrs := AL.upd 0 (cacheBank a) (· + 1) s.mem.cacheErrs } }
            let s := s.emit (some c) n .cacheParity (dpaDie a) { mkSig 0x0F 9 4 (cacheBank a).2 .corrected with
              ctx := c.val, step := n, attempt := (((s.ctx c).stepNo n).map (·.attempt)).getD 0, tensor := tensor, inst := inst
              observed := leNat (s.hbmGet (a / 4 * 4) 4) }
            (s.countRepair c).reduceAt op c n a v tensor inst
          | .combine delta, _ => s.combineWith op core c n a v tensor inst delta
          | .none, _ => s.reduceAt op c n a v tensor inst)

/-- The new value of a 64-bit word under a returning operation (R191). -/
def atomicApply : AtomicOp → BitVec 64 → BitVec 64
  | .fetchAdd v, old => old + v
  | .exchange v, _ => v
  | .cas expect v, old => if old = expect then v else old

/-- CACHE_ATOMIC (R191, R192): a returning operation of the command processor or a sequencer answers the old value; a parity
error in its line is a fault of the hub's control state, handled by the reset of its domain. -/
def execCacheAtomic (op : AtomicOp) (dpa : Nat) (parityBad : Bool) (s : State) : Host.Outcome State Fault Refusal :=
  .next (
    if !s.populated dpa || (s.partOf dpa).isNone then s.event moduleSet .devTranslationFault (.access dpa .write)
    else if parityBad then
      { s with mem := { s.mem with cacheErrs := AL.upd 0 (cacheBank dpa) (· + 1) s.mem.cacheErrs } }.cpReset
    else
      let old := BitVec.ofNat 64 (leNat (s.hbmGet dpa 8))
      let s := (s.hbmPut dpa (leBytes 8 (atomicApply op old).toNat)).charge dpa 16
      { s with mem := { s.mem with lastAtomic := some old } })

end Sys2Proof.Machine
end

