-- ==== Sys2Proof/Machine/Contributions.lean ====
section
/-! DEFINITION. Contributions to gradients: entry into the accumulators of an output block, GATHER, and the hand-over of
unreduced blocks to the collective engine (R45, R84, R112, R144–R147, R350). -/

namespace Sys2Proof.Machine

/-- The width of an accumulator element of a gradient: FP32, or FXR64 (R145). -/
def accBits (fp32 : Bool) : Nat := if fp32 then 32 else 64

/-- FXR64 elements added into accumulators (R47, R145). -/
def addFxr (old new : List Nat) : List Nat := List.zipWith (fun a b => ofSigned 64 (fxrAdd (toSigned 64 a) (toSigned 64 b))) old new

/-- FP32 elements added into accumulators with RNE, with the flags of the additions (R111, R112, R145). -/
def addF32s (old new : List Nat) : List Flagged := List.zipWith (fun a b => addF (BitVec.ofNat 32 a) (BitVec.ofNat 32 b)) old new

/-- One micro-batch's contribution added into the accumulators of its slot (R144, R145); the first one starts them. -/
def State.addContribution (s : State) (c : CtxId) (t : Step) (fp32 : Bool) (g : GradBlock) (w : GradWait) : State :=
  let key := (w.tensor, w.use, w.blk)
  let new := (s.core w.core).spadElems w.src (accBits fp32) g.count
  let old := (AL.find? key t.grads).map (fun a => (s.core a.core).spadElems a.acc (accBits fp32) g.count)
  let (sum, fl) : List Nat × Flags :=
    match old with
    | none => (new, {})
    | some o =>
      if fp32 then
        let es := addF32s o new
        (es.map (fun e => e.1.toNat), es.foldl (fun (f : Flags) e => f.or e.2) {})
      else (addFxr o new, {})
  let s := s.updCore w.core (fun x => x.putBlocks (s.runBlocks c t.number w.acc (packCodes (accBits fp32) sum)))
  s.updStep c t.number (fun t => { t.orFlags w.tensor 0 fl with
    grads := AL.upd (⟨w.core, w.acc, []⟩ : GradSlot) key (fun a => { a with mbs := a.mbs ++ [w.mb] }) t.grads })

/-- FP32 contributions that wait enter in increasing micro-batch order, each read against its tags (R18, R145). -/
def State.enterWaiting (c : CtxId) (n tensor use : Nat) (g : GradBlock) : Nat → State → State
  | 0, s => s
  | k + 1, s =>
    match (s.ctx c).stepNo n with
    | none => s
    | some t =>
      let b := ((AL.find? (tensor, use, g.blk) t.grads).map (fun a => a.mbs.length)).getD 0
      match t.waitGrads.find? (fun w => w.tensor == tensor && w.use == use && w.blk == g.blk && w.mb == b) with
      | none => s
      | some w =>
        let old := ((AL.find? (tensor, use, g.blk) t.grads).map (·.acc)).getD []
        match s.readsBad w.core c n { op := tensor } false (w.src ++ old) with
        | some s' => s'
        | none =>
        let s := (s.addContribution c t true g w).updStep c n (fun t => { t with waitGrads := t.waitGrads.erase w })
        State.enterWaiting c n tensor use g k s

/-! ## The hand-over (R144, R350) -/

/-- The accumulators of an output block that are complete: every micro-batch of the one use of a tensor entered, or its use
slots gathered (R145, R147). -/
def Step.blockDone (t : Step) (p : Program) (g : Nat × Bool × Nat) (blk : Nat) : Option GradSlot :=
  match AL.find? (g.1, 0, blk) t.grads with
  | some a =>
    if a.mbs.length = p.microbatches ∧ (g.2.2 ≤ 1 ∨ t.gathered.contains g.1 = true) then some a else none
  | none => none

/-- An unreduced element of a gradient as FXR64 where its block is complete: an FP32 sum is entered once (R45, R145). -/
def State.gradElem (s : State) (t : Step) (p : Program) (g : Nat × Bool × Nat) (i : Nat) : Option (Nat × Flags × BitVec 32 × Bool) :=
  match p.gradBlocks.find? (fun b => b.tensor == g.1 && decide (b.first ≤ i) && decide (i < b.first + b.count)) with
  | none => none
  | some b =>
    match t.blockDone p g b.blk with
    | none => none
    | some a =>
      let e := (s.core a.core).spadElem a.acc (accBits g.2.1) (i - b.first)
      if g.2.1 then
        let x := f32 (BitVec.ofNat 32 e)
        let k := fxrCode ((recOf t.records g.1).getD {}) x
        some (k.1, k.2.1, rneF32 x.abs, k.2.2)
      else some (e, {}, 0, false)

/-- The accumulators that hold a range of a gradient. -/
def Step.rangeSlots (t : Step) (p : Program) (g : Nat × Bool × Nat) (first count : Nat) : List GradSlot :=
  (p.gradBlocks.filter (fun b => b.tensor == g.1 && decide (b.first < first + count) && decide (first < b.first + b.count))).filterMap
    (fun b => t.blockDone p g b.blk)

/-- The elements of a range of a gradient, where all of them are complete. -/
def State.gradRange (s : State) (t : Step) (p : Program) (g : Nat × Bool × Nat) (first count : Nat) :
    Option (List (Nat × Flags × BitVec 32 × Bool)) :=
  let es := (List.range count).filterMap (fun i => s.gradElem t p g (first + i))
  if es.length = count then some es else none

/-- One collective block of a gradient, its accumulators read against their tags (R18), goes to the engine of its link die as this module's own contribution, once its range is
complete; it carries the tensor's magnitude and overflow so far (R84, R144, R349, R350). -/
def State.handBlock (s : State) (c : CtxId) (n : Nat) (p : Program) (g : Nat × Bool × Nat) (e : CollBlock × Nat) : State :=
  let b := e.1
  match (s.ctx c).stepNo n with
  | none => s
  | some t =>
    if b.tensor ≠ g.1 || t.handed.contains (g.1, e.2) || !b.contributors.contains s.ident then s
    else
      match s.gradRange t p g b.first b.count with
      | none => s
      | some es =>
        match s.slotsBad c n g.1 (t.rangeSlots p g b.first b.count) with
        | some s' => s'
        | none =>
        let note (t : Step) : Step :=
          let t := es.foldl (fun (t : Step) k => (t.orFlags g.1 0 k.2.1).noteFxr g.1 (if (f32 k.2.2.1).isFin then k.2.2.1 else 0) k.2.2.2) t
          { t with handed := t.handed ++ [(g.1, e.2)] }
        let s := s.updStep c n note
        let t := note t
        s.collJoin c p b b.stream (AL.get 0 b.stream t.streamAt + b.seqIx) e.2 g.1 (es.map (fun k => toSigned 64 k.1))
          (AL.get 0 g.1 t.amags) (t.overs.contains g.1) none

/-- Every collective block of a gradient that is complete goes to the engine; the accumulators are free once all have gone. -/
def State.handOver (s : State) (c : CtxId) (n : Nat) (p : Program) (g : Nat × Bool × Nat) : State :=
  let s := p.collectives.zipIdx.foldl (fun (s : State) e => s.handBlock c n p g e) s
  s.updStep c n (fun t =>
    if p.collectives.zipIdx.all (fun e => e.1.tensor != g.1 || !e.1.contributors.contains s.ident || t.handed.contains (g.1, e.2)) &&
        p.gradBlocks.all (fun b => b.tensor != g.1 || (t.blockDone p g b.blk).isSome) then
      { t with grads := t.grads.filter (fun e => e.1.1 != g.1) }
    else t)

/-! ## The commands -/

/-- A contribution may enter (R144–R146): the step is in BACKWARD, the tensor, use, micro-batch and block are the program's, it
has not entered yet, its blocks are as many as its elements take and name its output block, its slot is on this core, and
no arbitration names its tensor. -/
def State.mayEnter (s : State) (core : CoreId) (c : CtxId) (t : Step) (p : Program) (g : Nat × Bool × Nat) (b : GradBlock) (w : GradWait) :
    Bool :=
  let a := AL.find? (w.tensor, w.use, w.blk) t.grads
  decide (t.state = .backward) && s.issues core c && decide (w.use < g.2.2) && decide (w.mb < p.microbatches) &&
    !((a.map (·.mbs)).getD []).contains w.mb &&
    !t.waitGrads.any (fun v => v.tensor == w.tensor && v.use == w.use && v.blk == w.blk && v.mb == w.mb) &&
    (match a with
      | some a => a.core == core && a.acc == w.acc
      | none => true) &&
    w.src.length == blocksFor (accBits g.2.1) b.count && w.acc.length == w.src.length &&
    w.src.all (fun r => r.ident.tensor == w.tensor && r.ident.row * 65536 + r.ident.col == w.blk) &&
    !t.handed.any (fun h => h.1 == w.tensor) && !s.tensorBusy c t.number w.tensor

/-- GRADIENT_CONTRIBUTION_ENTRY (R144–R146): one micro-batch's checked contribution to an output block of a gradient goes
from the blocks the drain wrote into the block's accumulators: FXR64 at once, FP32 in micro-batch order. A complete block
goes to the collective engine. -/
def execGradientContributionEntry (core : CoreId) (c : CtxId) (place : GradPlace) (src acc : List BlockRef) (s : State) :
    Host.Outcome State Fault Refusal :=
  .next (
    let x := s.ctx c
    let tensor := place.tensor
    let w : GradWait := ⟨tensor, place.use, place.blk, place.mb, core, src, acc⟩
    match x.working, x.prog with
    | some t, some p =>
      match p.gradTensors.find? (fun g => g.1 == tensor), p.gradBlocks.find? (fun b => b.tensor == tensor && b.blk == place.blk) with
      | some g, some b =>
        if !s.mayEnter core c t p g b w then s
        else
          match s.readsBad core c t.number { op := tensor } false (src ++ (if (AL.find? (tensor, place.use, place.blk) t.grads).isSome then acc else [])) with
          | some s' => s'
          | none =>
            let s := if g.2.1 then
                State.enterWaiting c t.number tensor place.use b p.microbatches
                  (s.updStep c t.number (fun t => { t with waitGrads := t.waitGrads ++ [w] }))
              else s.addContribution c t false b w
            s.handOver c t.number p g
      | _, _ => s
    | _, _ => s)

/-- GATHER (R147): after the last contribution to each, the use slots of every output block of a tied tensor are added exactly
into the first, and the block goes to the reduction. -/
def execGather (c : CtxId) (tensor : Nat) (s : State) : Host.Outcome State Fault Refusal :=
  .next (
    let x := s.ctx c
    match x.working, x.prog with
    | some t, some p =>
      match p.gradTensors.find? (fun g => g.1 == tensor) with
      | none => s
      | some g =>
        let blocks := p.gradBlocks.filter (fun b => b.tensor == tensor)
        let get (u : Nat) (b : GradBlock) : Option GradSlot := AL.find? (tensor, u, b.blk) t.grads
        let ready := blocks.all (fun b => (List.range g.2.2).all (fun u =>
          ((get u b).map (fun a => a.mbs.length)).getD 0 == p.microbatches))
        if g.2.1 || !ready || t.gathered.contains tensor then s
        else
          match s.slotsBad c t.number tensor (blocks.flatMap (fun b => (List.range g.2.2).filterMap (fun u => get u b))) with
          | some s' => s'
          | none =>
          let one (s : State) (b : GradBlock) : State :=
            match get 0 b with
            | none => s
            | some a =>
              let elems (u : Nat) : List Nat := ((get u b).map (fun a => (s.core a.core).spadElems a.acc 64 b.count)).getD []
              let total := ((List.range (g.2.2 - 1)).map (fun u => elems (u + 1))).foldl addFxr (elems 0)
              s.updCore a.core (fun k => k.putBlocks (s.runBlocks c t.number a.acc (packCodes 64 total)))
          let s := (blocks.foldl one s).updStep c t.number (fun t => { t with gathered := t.gathered ++ [tensor] })
          s.handOver c t.number p g
    | _, _ => s)

end Sys2Proof.Machine
end

