-- ==== Sys2Proof/Machine/Digest.lean ====
section
/-! DEFINITION. Update digests exchanged with the buddy and the arbitration of a difference; module strikes (R245–R248). -/

namespace Sys2Proof.Machine

/-! ## Module strikes (R248) -/

/-- A signature of this module for an entry of a digest comparison (R260, R262). -/
def State.digestSig (s : State) (c : CtxId) (n outcome : Nat) (sev : Severity) (expected observed : Nat) : State :=
  let a := (((s.ctx c).stepNo n).map (·.attempt)).getD 0
  s.emit (some c) n .digestMismatch 0 { mkSig 0x0C outcome 3 s.ident sev with
    ctx := c.val, step := n, attempt := a, expected := expected, observed := observed }

/-- A module strike on this module: counted over its last 1,000 committed steps, those of all its contexts; the third is reported
to the steward, and the count is held at 3 from then on (R248; log 158). -/
def State.moduleStrike (s : State) (c : CtxId) : State :=
  let now := s.grove.commits
  let old := AL.get [] s.ident s.grove.modStrikes
  if 3 ≤ old.length then s
  else
    let all := old.filter (fun k => decide (now < k + 1000)) ++ [now]
    let s := { s with grove := { s.grove with modStrikes := AL.set s.ident all s.grove.modStrikes } }
    if all.length = 3 then s.send (.strikeReport c s.ident) else s

/-! ## The exchange (R245) -/

/-- Positions at which two CRC lists differ. -/
def crcDiffs (a b : List Nat) : List Nat :=
  (List.range (max a.length b.length)).filter (fun i => a.getD i 0 != b.getD i 0 || decide (a.length ≤ i) || decide (b.length ≤ i))

/-- The entries a comparison leaves to arbitrate: none where the digests are equal or every entry agrees. -/
def digestEntries (ownShard : Bool) (d e : List Byte) (a b : List Nat) : List DigestArb :=
  if d = e then [] else (crcDiffs a b).map (fun i => ⟨i, ownShard, none⟩)

/-- A comparison is settled: no entry of it is left. -/
def settled (ownShard : Bool) (l : List DigestArb) : Bool := l.all (fun a => a.ownShard != ownShard)

/-- Entries that remain put in place; a comparison of which none remain passes. -/
def Step.withArbs (t : Step) (l : List DigestArb) : Step :=
  { t with digestArb := l, ownCompared := t.ownCompared || settled true l, mirCompared := t.mirCompared || settled false l }

/-- DIGEST_EXCHANGE_RECEIVE (R245, R246): the buddy's digest and CRC list of its own shard, and those of its mirror of this
module's shard, for which this module sends in return those of its mirror. Equal digests pass; a difference goes to arbitration entry by
entry; where every entry agrees the comparison is clean, its signature tells of it, and a digest that differs from the one formed
again gives its module a strike (R246, R260). -/
def execDigestExchangeReceive (c : CtxId) (tag : StepTag) (digest : List Byte) (crcs : List Nat) (mirrorDigest : List Byte)
    (mirrorCrcs : List Nat) (s : State) : Host.Outcome State Fault Refusal :=
  .next (s.inEpoch c tag.epoch (
    let step := tag.step
    match (s.ctx c).stepNo step with
    | none => s
    | some t =>
      if t.state ≠ .checking ∨ t.ownCompared = true ∨ t.mirCompared = true ∨ t.digestArb ≠ [] then s
      else
        let x := s.ctx c
        let again (own : Bool) : List Byte :=
          if own then updateDigest step t.crcs (x.dataAt t step).t else updateDigest step t.mirrorCrcs (x.mirSlot step).data.t
        let alike (own : Bool) (d e : List Byte) (a b : List Nat) (s : State) : State :=
          if d ≠ e ∧ digestEntries own d e a b = [] then
            let s := s.digestSig c step 7 .corrected 0 0
            if d = again own then s else s.moduleStrike c
          else s
        let s := alike true t.digest mirrorDigest t.crcs mirrorCrcs s
        let s := alike false t.mirrorDigest digest t.mirrorCrcs crcs s
        let s := s.send (.mirrorDigest c step t.mirrorDigest t.mirrorCrcs)
        s.updStep c step (fun t =>
          { t with peerOwn := mirrorCrcs, peerMir := crcs }.withArbs
            (digestEntries true t.digest mirrorDigest t.crcs mirrorCrcs ++ digestEntries false t.mirrorDigest digest t.mirrorCrcs crcs))))

/-! ## Arbitration (R246) -/

/-- An entry of a step's arbitration leaves it. -/
def State.endDigestArb (s : State) (c : CtxId) (step : Nat) (a : DigestArb) : State :=
  let s := s.updCtx c (fun x => x.endShipment step a.entry a.ownShard)
  s.updStep c step (fun t => t.withArbs (t.digestArb.filter (fun b => !(b.entry == a.entry && b.ownShard == a.ownShard))))

/-- An entry that makes this module vote dirty (R246): class 5, with its signature, and a strike where one is due. -/
def State.digestDirty (s : State) (c : CtxId) (step : Nat) (strike : Bool) (expected observed : Nat) : State :=
  let s := s.digestSig c step 3 .recoverable expected observed
  let s := if strike then s.moduleStrike c else s
  s.failClass c step 5 .digestMismatch

/-- A module runs as a sapling: the steward assigned it, or its beacon says so, and it is not admitted (R274, R287, R333). -/
def State.saplingMod (s : State) (m : Nat) : Bool :=
  s.grove.shadows.any (fun e => e.2.sapling == m) || s.link.ports.any (fun e => e.2.beacon.any (fun b => b.ident == m && b.sapling))

/-- The referee module of this module's pair (R247): the lowest-numbered other module of the grove in the clearing that is
not a sapling. -/
def State.refereeModule (s : State) (c : CtxId) : Option Nat :=
  match (s.groveMembers c).filter (fun m => (s.ctx c).healthy m && some m != s.buddy c && !s.saplingMod m) with
  | [] => none
  | m :: ms => some (ms.foldl min m)

/-- The slices a comparison goes over: those of the own shard, or those received for the mirror. -/
def Step.slicesOf (t : Step) (ownShard : Bool) : AL Nat Slice := if ownShard then t.slices else t.recvSlices

/-- The version an entry's inputs are of: N − 1 for a slice, N for a quantised copy, whose input is its master weight (R246). -/
def Step.inputVersion (t : Step) (a : DigestArb) : Nat :=
  if a.entry < (t.slicesOf a.ownShard).length then t.number - 1 else t.number

/-- An entry's inputs are shipped to the referee module, under a reference on the slot of their version (R246 step 3, R150). -/
def State.ship (s : State) (c : CtxId) (t : Step) (rcv : Nat) (a : DigestArb) (own peer : Nat) : State :=
  let step := t.number
  let v := t.inputVersion a
  let s := s.updCtx c (fun x =>
    let x := { x with shipped := x.shipped ++ [(step, a.entry, a.ownShard, v)] }
    if a.ownShard then x.addReader v else x.updMir v (fun t => { t with readers := t.readers + 1 }))
  let mark (b : DigestArb) : DigestArb :=
    if b.entry = a.entry ∧ b.ownShard = a.ownShard then { b with written := some (own, peer) } else b
  (s.updStep c step (fun t => { t with digestArb := t.digestArb.map mark })).send (.shipment c rcv step a.entry)

/-- The CRC of an entry formed again from the bytes this module wrote (R246 step 1). -/
def Ctx.rereadCrc (x : Ctx) (p : Program) (t : Step) (ownShard : Bool) (entry : Nat) : Nat :=
  let u := if ownShard then t.upd else t.recvUpdate.getD t.upd
  let d := if ownShard then x.dataAt t t.number else (x.mirSlot t.number).data
  (crcList p u (t.slicesOf ownShard) d).getD entry 0

/-- The CRC of an entry recomputed from the inputs retained: version N − 1, the slices, the update record and c; a quantised copy
from its master weight of version N (R246 step 2). -/
def Ctx.recomputedCrc (x : Ctx) (p : Program) (t : Step) (ownShard : Bool) (entry : Nat) : Nat :=
  let n := t.number
  let u := if ownShard then t.upd else t.recvUpdate.getD t.upd
  let slices := t.slicesOf ownShard
  let d (v : Nat) : SlotData := if ownShard then x.dataAt t v else (x.mirSlot v).data
  if entry < slices.length then
    (crcList p u slices (updateSlot p t.rngKey n (d n).records u t.clip t.clipFlags slices (d (n - 1))).data).getD entry 0
  else
    match (copies p)[entry - slices.length]? with
    | some a => copyCrc p (updateCopy p t.rngKey n ⟨d n, []⟩ a).data a
    | none => 0

/-- DIGEST_RECOMPUTE_COMPLETE (R246 steps 1 to 3): the CRCs of the bytes both wrote, read again, and the CRCs both
recomputed, decide the entry or send its inputs to the referee module. This module's are formed here; `rereadFlip` and `ownFlip` are the
bits in which a fault changes them. -/
def execDigestRecomputeComplete (c : CtxId) (step entry : Nat) (ownShard : Bool) (ownFlip peer rereadFlip peerWritten : Nat)
    (s : State) : Host.Outcome State Fault Refusal :=
  .next (
    match (s.ctx c).stepNo step, (s.ctx c).prog with
    | some t, some p =>
      match t.digestArb.find? (fun a => a.entry == entry && a.ownShard == ownShard && a.written.isNone) with
      | none => s
      | some a =>
        let own := (s.ctx c).recomputedCrc p t ownShard entry ^^^ ownFlip
        let ownWritten := (s.ctx c).rereadCrc p t ownShard entry ^^^ rereadFlip
        let first := (if ownShard then t.crcs else t.mirrorCrcs).getD entry 0
        if ownWritten = peerWritten then
          let s := if first = ownWritten then s
            else (s.digestSig c step 7 .corrected ownWritten first).moduleStrike c
          s.endDigestArb c step a
        else if own = peer then
          let s := s.endDigestArb c step a
          if ownWritten = own then s else s.digestDirty c step true own ownWritten
        else
          match s.refereeModule c with
          | some m => s.ship c t m a ownWritten peerWritten
          | none => (s.endDigestArb c step a).digestDirty c step false own ownWritten
    | _, _ => s)

/-- The slice an entry of the CRC list stands for: its place in slice order. -/
def Step.entrySlice (t : Step) (ownShard : Bool) (entry : Nat) : Nat :=
  (sortBy (fun a b => decide (a ≤ b)) ((t.slicesOf ownShard).map (fun e => e.1))).getD entry 0

/-- REFEREE_MODULE_RESULT (R246, R247): what the referee module found of an entry. The module whose CRC it does not match votes
dirty with a strike; inputs that differ make both vote dirty without one, and the wrong copy is repaired. The shipment's
reference is dropped, of a discarded step's too (R153). -/
def execRefereeModuleResult (c : CtxId) (step entry : Nat) (ownShard : Bool) (finding : DigestFinding) (s : State) :
    Host.Outcome State Fault Refusal :=
  .next (
    let s := s.updCtx c (fun x => x.endShipment step entry ownShard)
    match (s.ctx c).stepNo step with
    | none => s
    | some t =>
      match t.digestArb.find? (fun a => a.entry == entry && a.ownShard == ownShard && a.written.isSome) with
      | none => s
      | some a =>
        let mine := (a.written.map (·.1)).getD 0
        let i := slotIx (s.ctx c) (step - 1)
        let s := s.endDigestArb c step a
        match finding with
        | .crc n => if n = mine then s else s.digestDirty c step true n mine
        | .versionDiffers gs =>
          let repair (s : State) (e : Nat × Option Bool) : State :=
            if e.2 = some true ∧ t.inputVersion a < step then
              s.refetch c (if ownShard then .live c i e.1 else .mirror c i e.1) (if ownShard then .live else .mirror) (step - 1) e.1
            else s
          let lost := ownShard && decide (t.inputVersion a < step) && gs.any (fun e => e.2.isNone)
          let s := gs.foldl repair s
          if lost then s.memStateLost c else s.digestDirty c step false 0 mine
        | .gradientDiffers wrong =>
          let g := t.entrySlice ownShard entry
          let s := if wrong then s.refetch c (if ownShard then .workSlice c g else .workRecvSlice c g) (if ownShard then .landed else .received) step g else s
          s.digestDirty c step false 0 mine)

/-! ## The referee module (R247) -/

/-- The lowest-numbered replica of a module's shard that is not lost and not the given other module (R247). -/
def Ctx.replicaOf (x : Ctx) (m but : Nat) : Option Nat :=
  match x.prog with
  | some p =>
    match (p.shards.getD (shardOf p m) []).filter (fun k => k != m && k != but && !x.lostMods.contains k) with
    | [] => none
    | k :: ks => some (ks.foldl min k)
  | none => none

/-- REFEREE_SHIPMENT_RECEIVE (R247): this module compares the inputs of a pair granule by granule; where they agree it
recomputes the slice and answers both with its CRC. `modA` is the owner of the shard, `modB` its mirror; `replicaCrcs` are the
granule CRCs the lowest-numbered replica answers with; `aRight` says whether the slice residue
recorded at landing is that of `modA`'s copy. -/
def execRefereeShipmentReceive (c : CtxId) (step entry : Nat) (modA modB : ModNo) (versA versB gradA gradB : List Nat)
    (result : Nat) (replicaCrcs : Option (List Nat)) (aRight : Bool) (s : State) : Host.Outcome State Fault Refusal :=
  .next (
    let tell (s : State) (a b : DigestFinding) : State :=
      (s.send (.refereeResult c modA.val step entry a)).send (.refereeResult c modB.val step entry b)
    let gs := crcDiffs versA versB
    if gs ≠ [] then
      match (s.ctx c).replicaOf modA.val modB.val, replicaCrcs with
      | some m, some r =>
        let s := gs.foldl (fun (s : State) g => s.send (.replicaRequest c m (step - 1) g)) s
        let of_ (v : List Nat) : DigestFinding := .versionDiffers (gs.map (fun g => (g, some (v.getD g 0 != r.getD g 0))))
        tell s (of_ versA) (of_ versB)
      | _, _ => tell s (.versionDiffers (gs.map (fun g => (g, none)))) (.versionDiffers (gs.map (fun g => (g, none))))
    else if crcDiffs gradA gradB ≠ [] then tell s (.gradientDiffers (!aRight)) (.gradientDiffers aRight)
    else tell s (.crc result) (.crc result))

end Sys2Proof.Machine
end

