-- ==== Sys2Proof/Machine/Resets.lean ====
section
/-! DEFINITION. Domains leaving reset, the watchdogs of the MSS and the command processor (R264–R270). -/

namespace Sys2Proof.Machine

/-- What a domain does as it leaves reset: a port that is not dark or fenced trains (R332); the commit unit's pending
decisions are issued (R22); a die's PLLs run again (R425) and its trellis links have trained (R421); the MSS takes what waits in its mailbox (R22, R458). -/
def State.resumeDomain (s : State) (d : Domain) : State :=
  match d with
  | .port p =>
    if s.dark p || (s.port p).state == 5 then s
    else s.updPort p (fun x => { x with state := 1, stage := none, lit := true })
  | .cp => (allCtx.foldl (fun (s : State) c => State.decideSteps c 0 [] 2 s) s).deliverMbox
  | .mss => { s with mss := { s.mss with reported := none } }.deliverMbox
  | .die e => { s with hub := { s.hub with
      pllsDown := s.hub.pllsDown.filter (fun k => k != .arith e && k != .hbm e)
      trellis := s.hub.trellis.map (fun l => if l.1.touches e then (l.1, { l.2 with lost := false }) else l) } }
  | _ => s

/-- The ports, dies and other domains that come out of reset with an outer domain. -/
def State.portsUp (s : State) : State :=
  allPorts.foldl (fun (s : State) p => if (s.port p).state = 0 ∧ (s.port p).holdOff = false ∧ (s.dom (.port p)).inReset = false then s.resumeDomain (.port p) else s) s

/-- DOMAIN_RESET_COMPLETE (R264): a domain leaves reset, unless it is held for the spacing of R267 or the module must cool
first (R403). -/
def execDomainResetComplete (d : Domain) (s : State) : Host.Outcome State Fault Refusal :=
  .next (
    let x := s.dom d
    if !x.inReset || x.held then s
    else if decide (d = .warm) && (s.hub.tripped || !s.hub.refclk || !s.hub.mainPower) then s
    else if d = .guest then s
    else
      let s := s.updDom d (fun x => { x with inReset := false, outAt := some s.now })
      if s.inReset d then s
      else if d = .warm then s.portsUp
      else s.resumeDomain d)

/-- RESET_SPACING_RELEASE (R267): 1 ms has passed since the previous generation advanced; the held reset is entered. -/
def execResetSpacingRelease (d : Domain) (s : State) : Host.Outcome State Fault Refusal :=
  .next (
    if !(s.dom d).held || s.tooSoon d then s
    else if d = .cold then
      { s.updDom .cold (fun x => { x with lastAt := some s.now, inReset := false, held := false }) with
        hub := { (s.updDom .cold (fun x => { x with lastAt := some s.now, inReset := false, held := false })).hub with coldGen := s.hub.coldGen + 1 } }
    else (s.updDom d (fun x => { x with gen := x.gen + 1, lastAt := some s.now, held := false })).clearDomain d)

/-- The module is lost by its MSS (R26, R269): MSS_FAILED goes to the steward. -/
def State.mssGone (s : State) : State :=
  let s := { s with hub := { s.hub with mssLost := true } }
  (if s.inClearing then s.send .mssFailed else s).modEvent .mssFailed

/-- The MSS domain is reset; the fourth entry within 60 s loses the module (R269); one during a start
counts against the build (R406). -/
def State.mssReset (s : State) : State :=
  let recent := s.hub.mssResets.filter (fun t => decide (s.now < t + 60000000))
  let s := ({ s with hub := { s.hub with mssResets := recent ++ [s.now] } }).enterReset .mss
  let s := if s.hub.starting = .none then s else { s with mss := { s.mss with bootResets := s.mss.bootResets + 1 } }
  if 3 ≤ recent.length then s.mssGone else s

/-- MSS_WATCHDOG_EXPIRE (R269): ten missed beats. -/
def execMssWatchdogExpire (s : State) : Host.Outcome State Fault Refusal :=
  .next (if s.mssRuns then s.mssReset else s)

/-- MSS_LOCKSTEP_MISMATCH (R269): the domain is reset at once. -/
def execMssLockstepMismatch (s : State) : Host.Outcome State Fault Refusal :=
  .next (if s.mssRuns then s.mssReset else s)

/-- MSS_RESUME_TIMEOUT (R269): no beat 100 ms after the MSS left reset. -/
def execMssResumeTimeout (s : State) : Host.Outcome State Fault Refusal :=
  .next (
    let x := s.dom .mss
    match x.outAt with
    | some t => if !x.inReset && !s.hub.mssLost && decide (t + 100000 ≤ s.now) then s.mssGone else s
    | none => s)

/-- CP_WATCHDOG_EXPIRE (R270): ten missed beats of a CP core. -/
def execCpWatchdogExpire (s : State) : Host.Outcome State Fault Refusal :=
  .next (if s.inReset .cp then s else s.cpReset)

end Sys2Proof.Machine
end

