-- ==== Sys2Proof/Machine/Governor.lean ====
section
/-! DEFINITION. Sensors, the power and thermal governor, the brake, thermal trips (R391, R400–R403). Junctions and coolant are
in eighths of a degree, stacks in degrees, as R391 resolves them. -/

namespace Sys2Proof.Machine

/-- PWR_STATUS (R400). -/
def State.pwrStatus (s : State) : Nat :=
  let g := s.gov
  let low (l : List Nat) : Nat := if l.any (fun c => decide (c < 28)) then 1 else 0
  s.ceiling 0 + 32 * s.ceiling 1 + 1024 * s.ceiling 2 + 32768 * s.ceiling 3 +
    2 ^ 20 * g.brakeAt.isSome.toNat + 2 ^ 21 * low g.junction + 2 ^ 22 * low g.stack + 2 ^ 23 * low g.power

/-- One of the conditions of THERM_ALERT_N begins or ends to hold (R403). -/
def State.setAlert (s : State) (i : Nat) (on : Bool) : State :=
  let rest := s.gov.alerts.filter (fun k => k != i)
  { s with gov := { s.gov with alerts := if on then rest ++ [i] else rest } }

/-- THERM_ALERT_N is asserted (R403). -/
def State.thermAlert (s : State) : Bool := !s.gov.alerts.isEmpty

/-- The coolant condition (R403): inlet above 45 °C, or outlet above inlet by more than 15 °C. -/
def State.coolantHot (s : State) : Bool :=
  decide (360 < s.sensor .coolantIn) || decide (120 < s.sensor .coolantOut - s.sensor .coolantIn)

/-- The alert conditions a sample touches (R403); the coolant's is logged as it begins. -/
def State.alertOf (s : State) (x : Sensor) (v : Int) : State :=
  match x with
  | .junction i => s.setAlert i.val (decide (800 ≤ v))
  | .stackTemp k => s.setAlert (16 + k.val) (decide (93 ≤ v))
  | .coolantIn | .coolantOut =>
    let was := s.gov.alerts.contains 48
    let s' := s.setAlert 48 s.coolantHot
    if s.coolantHot && !was then s'.addLog .governor .informational .success [48] none else s'
  | _ => s

/-- What a sample reads (R391): the module's own values where the sensor reports them, else what the sensor gives. -/
def State.sampled (s : State) (x : Sensor) (v : Int) : Int :=
  match x with
  | .governor => s.pwrStatus
  | .drops p => (((s.port p).drops.map (fun (e : Status × Nat) => e.2)).foldl (· + ·) 0 + (((s.port p).silent.map (fun (e : SilentDrop × Nat) => e.2)).foldl (· + ·) 0) : Nat)
  | _ => v

/-- SENSOR_SAMPLE (R391, R403): the MSS takes a sample. -/
def execSensorSample (x : Sensor) (value : Int) (s : State) : Host.Outcome State Fault Refusal :=
  .next (
    if !s.mssRuns then s
    else
      let v := s.sampled x value
      ({ s with mss := { s.mss with sensors := AL.set x v s.mss.sensors } }).alertOf x v)

/-- A ceiling one step lower, 7 at least (R401). -/
def stepDown (c : Nat) : Nat := max 7 (c - 1)

/-- A ceiling one step higher, 28 at most (R401). -/
def stepUp (c : Nat) : Nat := min 28 (c + 1)

/-- POWER_LOOP_EVALUATION (R400, R401): a pending commit of the PWR bank applies; then above LIMIT_W every power ceiling falls a
step, and after 10 ms below 0.95 of it every one rises a step. -/
def execPowerLoopEvaluation (averageW : Nat) (s : State) : Host.Outcome State Fault Refusal :=
  .next (
    let s := s.reachPoint .pwr 0
    let limit := bitsOf (s.reg aPwrLimit) 11 0
    let g := s.gov
    if limit < averageW then { s with gov := { g with power := g.power.map stepDown, belowFor := 0 } }
    else if 100 * averageW < 95 * limit then
      if 100 ≤ g.belowFor + 1 then { s with gov := { g with power := g.power.map stepUp, belowFor := 0 } }
      else { s with gov := { g with belowFor := g.belowFor + 1 } }
    else { s with gov := { g with belowFor := 0 } })

/-- A BIST run that a brake or a hot junction aborts (R439): CAUSE 4 on every die. -/
def State.abortBist (s : State) : State :=
  if s.hub.bist.running then
    let s := { s with hub := { s.hub with bist := { s.hub.bist with running := false, cause := 4 } } }
    s.addLog .event .informational .bistAborted [] none
  else s

/-- The junction ceiling of a die after a 10 µs sample (R401): at 100 °C a step down; 1 ms below 98 °C a step up. -/
def Gov.junctionStep (g : Gov) (d : Nat) (temp : Int) : Gov :=
  if 800 ≤ temp then { g with junction := g.junction.modify d stepDown, coolJ := g.coolJ.set d 0 }
  else if temp < 784 then
    if 100 ≤ g.coolJ.getD d 0 + 1 then { g with junction := g.junction.modify d stepUp, coolJ := g.coolJ.set d 0 }
    else { g with coolJ := g.coolJ.modify d (· + 1) }
  else { g with coolJ := g.coolJ.set d 0 }

/-- JUNCTION_THROTTLE (R401, R403, R439): the hub hardware's 10 µs evaluation of a compute die's junction. -/
def execJunctionThrottle (d : Die) (temp : Int) (s : State) : Host.Outcome State Fault Refusal :=
  .next (
    let s := { s with gov := s.gov.junctionStep d.val temp }.setAlert (d.val + 1) (decide (800 ≤ temp))
    if 800 ≤ temp then s.abortBist else s)

/-- The stack ceiling of a die after a 100 µs evaluation of its five stacks (R401): at 90 °C a step down; 1 ms with every
stack below 88 °C a step up. -/
def Gov.stackStep (g : Gov) (d : Nat) (temps : List Int) : Gov :=
  if temps.any (fun t => decide (90 ≤ t)) then { g with stack := g.stack.modify d stepDown, coolS := g.coolS.set d 0 }
  else if temps.all (fun t => decide (t < 88)) then
    if 10 ≤ g.coolS.getD d 0 + 1 then { g with stack := g.stack.modify d stepUp, coolS := g.coolS.set d 0 }
    else { g with coolS := g.coolS.modify d (· + 1) }
  else { g with coolS := g.coolS.set d 0 }

/-- STACK_THROTTLE (R401). -/
def execStackThrottle (d : Die) (temps : List Int) (s : State) : Host.Outcome State Fault Refusal :=
  .next { s with gov := s.gov.stackStep d.val temps }

/-- The brake value of a die: the highest step, 7 to 28, at which the model predicts at most BRAKE_W; 175 MHz if none
(R402). `predicted` are the predictions from step 7 up. -/
def brakeStep (brakeW : Nat) (predicted : List Nat) : Nat :=
  ((predicted.take 22).zipIdx.filter (fun e => decide (e.1 ≤ brakeW))).foldl (fun a e => max a (7 + e.2)) 7

/-- BRAKE_VALUE_COMPUTE (R400, R402). -/
def execBrakeValueCompute (predicted : List (List Nat)) (s : State) : Host.Outcome State Fault Refusal :=
  .next (
    let w := bitsOf (s.reg aPwrLimit) 23 12
    { s with gov := { s.gov with brakeVal := (List.range 4).map (fun d => brakeStep w (predicted.getD d [])) } })

/-- PWR_BRAKE_ASSERT (R401, R402, R439): every die takes its latest brake value. -/
def execPwrBrakeAssert (s : State) : Host.Outcome State Fault Refusal :=
  .next (
    if s.gov.brakeAt.isSome then s
    else { s with gov := { s.gov with brakeAt := some s.now } }.abortBist)

/-- PWR_BRAKE_RELEASE (R402): the brake ceiling goes; POWER_BRAKE is logged with the duration in µs. -/
def execPwrBrakeRelease (s : State) : Host.Outcome State Fault Refusal :=
  .next (
    match s.gov.brakeAt with
    | some t =>
      { s with gov := { s.gov with brakeAt := none } }.addLog .governor .informational .powerBrake [s.now - t] none
    | none => s)

/-- THERMAL_TRIP (R403): a junction at 105 °C or a stack at 95 °C. The module reports MODULE_SELF_FENCE with cause
THERMAL_TRIP and enters warm reset; a BIST run is aborted (coinciding events of chapter 15). -/
def execThermalTrip (sensor : Sensor) (temp : Int) (s : State) : Host.Outcome State Fault Refusal :=
  .next (
    let trips : Bool := match sensor with
      | .junction _ => decide (840 ≤ temp)
      | .stackTemp _ => decide (95 ≤ temp)
      | _ => false
    if trips then
      let s := ((s.alertOf sensor temp).abortBist.addLog .governor .recoverable .thermalTrip [temp.toNat] none).selfFence (some .thermalTrip)
      { s with hub := { s.hub with tripped := true } }
    else s)

/-- THERMAL_TRIP_RELEASE (R403): every junction at or below 85 °C and every stack at or below 80 °C; the module leaves reset,
unless a lost clock or supply still holds it there (R425, R426). -/
def execThermalTripRelease (junctions stackTemps : List Int) (s : State) : Host.Outcome State Fault Refusal :=
  .next (
    if s.hub.tripped && junctions.all (fun t => decide (t ≤ 680)) && stackTemps.all (fun t => decide (t ≤ 80)) then
      let s := { s with hub := { s.hub with tripped := false } }
      if s.hub.refclk && s.hub.mainPower then (s.updDom .warm (fun x => { x with inReset := false })).portsUp else s
    else s)

end Sys2Proof.Machine
end

