-- ==== Sys2Proof/Machine/Grove.lean ====
section
/-! DEFINITION. Health in the grove: peer timeouts, probes, declarations and orders of the steward (R248, R269,
R272–R276, R281, R282, R286). -/

namespace Sys2Proof.Machine

/-! ## Peer timeouts (R272) -/

/-- The peer timeout T of a transfer of some bytes, in µs (R272). -/
def State.peerTimeoutUs (s : State) (bytes : Nat) : Nat :=
  let r := s.reg aPeerTmo
  1000 * bitsOf r 7 0 + cdiv bytes (2 ^ 30) * bitsOf r 31 16

/-- Time a transfer has waited since the context last resumed: peer timeouts restart from 0 there (R382). -/
def State.sinceResume (s : State) (c : CtxId) (elapsed : Nat) : Nat :=
  match (s.ctx c).resumedAt with
  | some t => min elapsed (s.now - t)
  | none => elapsed

/-- PEER_TIMEOUT (R183, R272, R273, R382): a transfer from a peer has taken `elapsed` µs, more than its T with the extensions the
steward has given it; none runs out while the context is paused. A refetch goes to the
next replica; anything else makes the peer suspect to the steward of its grove. -/
def execPeerTimeout (c : CtxId) (peer : ModNo) (bytes elapsed : Nat) (refetch : Option Loc) (s : State) :
    Host.Outcome State Fault Refusal :=
  .next (
    if s.sinceResume c elapsed ≤ s.peerTimeoutUs bytes * (1 + AL.get 0 peer.val (s.ctx c).waitsOn) ∨ (s.ctx c).paused = true then s
    else
      match refetch with
      | some loc =>
        match s.mem.repairs.find? (fun e => e.1 == loc) with
        | some e => s.refetchFailed c loc e.2
        | none => s
      | none =>
        match s.stewardOf c (groveOf peer.val) (some peer.val) with
        | some m =>
          (s.updCtx c (fun x => { x with waitsOn := AL.set peer.val (AL.get 0 peer.val x.waitsOn) x.waitsOn })).send
            (.suspect c m peer.val)
        | none => s)

/-! ## Orders and declarations (R274–R276) -/

/-- An order comes from the steward this module sees in the issuer's grove; for an event about a steward, from the next
healthy module (R274, R275). A module with no table of the clearing knows only its grove (log 29). -/
def State.fromSteward (s : State) (c : CtxId) (issuer : Nat) (but : Option Nat) : Bool :=
  match s.tableOf c with
  | some _ =>
    s.stewardOf c (groveOf issuer) none == some issuer ||
      (but.isSome && s.stewardOf c (groveOf issuer) but == some issuer)
  | none => groveOf issuer == groveOf s.phys

/-- A dropped order is counted (R275). -/
def State.badOrder (s : State) : State := { s with grove := { s.grove with badOrders := s.grove.badOrders + 1 } }

/-- The kind byte of a declaration payload (R476). -/
def declNo : DeclKind → Nat
  | .lost => 1 | .suspectCleared => 2 | .replaced => 3 | .admitted => 4

/-- The status of a declaration's event (R484; log 25). -/
def declStatus : DeclKind → Status
  | .lost => .moduleLost | .admitted => .saplingAdmitted | .suspectCleared | .replaced => .success

/-- The event of a declaration (R276, R476). -/
def State.declEvent (s : State) (d : Declared) : State :=
  s.eventFull (setOf d.ctx) (declStatus d.kind)
    (.decl ⟨declNo d.kind, d.issuer, d.seqNo, d.subject, d.physical, 0, d.gen⟩) (decide (d.kind = .lost)) 0 0
    .declaration none

/-- The event of an order: kind 5 ROLLBACK, 6 TAKEOVER (R276, R476). -/
def State.orderEvent (s : State) (c : CtxId) (kind issuer subject physical : Nat) (epoch : BitVec 16) : State :=
  let n := AL.get 0 (groveOf issuer) s.grove.seqNos
  s.eventFull (setOf c) .success (.decl ⟨kind, issuer, n, subject, physical, epoch, 0⟩) (kind == 5) 0 0 .declaration none

/-- The common contract level after an ADMITTED or REPLACED declaration: within a job it never rises (R293). -/
def State.relevel (s : State) (c : CtxId) (subject level : Nat) : State :=
  let s := { s with grove := { s.grove with modLevel := AL.set (c, subject) level s.grove.modLevel } }
  let now := s.commonLevel c
  let lvl := match AL.find? c s.grove.levels with
    | some l => if (s.ctx c).loaded then min l now else now
    | none => now
  { s with grove := { s.grove with levels := AL.set c lvl s.grove.levels } }

/-- This module leaves a job it has been replaced in (R282 step 5): with no context left it is a hot spare (R282 names a repair as the
other way; DESIGN CHOICE, log 156). -/
def State.leaveJob (s : State) (c : CtxId) : State :=
  let s := s.updCtx c (fun _ => {})
  if s.anyLoaded then s else { s with grove := { s.grove with ident := none, spare := true } }

/-- The hot spare an order goes to: the lowest-numbered module of the grove whose beacon, on an ACTIVE port, declares it an
admitted spare, and that no takeover has been ordered to (R279 step 2). -/
def State.hotSpare (s : State) (c : CtxId) : Option Nat :=
  let ordered (m : Nat) : Bool := (s.ctx c).takeoverOf.any (fun (e : Nat × Option Nat) => e.2 == some m)
  let spareAt (p : PortId) : Option Nat :=
    if s.isActive p then
      (s.port p).beacon.bind (fun b =>
        if b.spare && !b.sapling && groveOf b.phys == groveOf s.phys && !ordered b.phys then some b.phys else none)
    else none
  match allPorts.filterMap spareAt with
  | [] => none
  | m :: ms => some (ms.foldl min m)

/-- The lowest-numbered module holding a replica of a module's shard that is not lost (R281). -/
def Ctx.aliveReplica (x : Ctx) (p : Program) (m : Nat) : Option Nat :=
  match (p.shards.getD (shardOf p m) []).filter (fun k => k != m && !x.lostMods.contains k) with
  | [] => none
  | k :: ks => some (ks.foldl min k)

/-- Where a lost module's live and mirror slots are copied from: its buddy, or with that lost too a replica of its own shard and
one of the partner's (R279 step 2, R281). -/
def Ctx.takeoverSource (x : Ctx) (m : Nat) : Option (Nat × Nat) :=
  match x.prog with
  | some p =>
    match buddyOf p m with
    | some b =>
      if x.lostMods.contains b then
        match x.aliveReplica p m, x.aliveReplica p b with
        | some r, some q => some (r, q)
        | _, _ => none
      else some (b, b)
    | none => (x.aliveReplica p m).map (fun r => (r, r))
  | none => none

/-- TAKEOVER ordered for a lost identity (R279 step 2, R281): to a hot spare, or NO_SPARE and the clearing waits; without a
source for its state, MEM_STATE_LOST. -/
def State.orderTakeover (s : State) (c : CtxId) (m : Nat) : State :=
  match (s.ctx c).takeoverSource m with
  | none => (s.updCtx c (fun x => { x with takeoverOf := AL.del m x.takeoverOf })).memStateLost c
  | some b =>
    match s.hotSpare c with
    | some sp =>
      let s := s.updCtx c (fun x => { x with takeoverOf := AL.set m (some sp) x.takeoverOf })
      (s.send (.takeoverOrder c sp m b.1 b.2)).orderEvent c 6 s.ident m sp 0
    | none =>
      let s := s.updCtx c (fun x => { x with takeoverOf := AL.set m none x.takeoverOf, waitSpare := true })
      s.event (setOf c) .noSpare .none

/-- A spare copies the committed slots of this module, live and mirror, each under a copy reference: of the buddy of a lost module,
or of a module that is swapped (R150, R279 step 3, R282 step 2). -/
def State.holdForSpare (s : State) (c : CtxId) (m : Nat) : State :=
  s.updCtx c (fun x =>
    if x.loaded && x.spareCopy.isNone then
      { (x.addReader x.committed).updMir x.committed (fun t => { t with readers := t.readers + 1 }) with
        spareCopy := some (m, x.committed) }
    else x)

/-- A planned swap of a module for an admitted one (R282 step 1): after the second step from the newest in effect (DEDUCED,
log 30). Its order is posted like a takeover's (R276; log 161). -/
def State.swapFor (s : State) (c : CtxId) (m sp : Nat) : State :=
  let x := s.ctx c
  let n := x.committed + x.steps.length + 2
  let s := { s with grove := { s.grove with swapWait := s.grove.swapWait.filter (fun k => k != m) } }
  let s := ((s.updCtx c (fun x => { x with swapAfter := some (m, n) })).send (.swapOrder c m sp n)).orderEvent c 6 s.ident m sp 0
  if m = s.ident then s.holdForSpare c m else s

/-- A planned swap of a module ordered by its steward (R248, R282, R286): without an admitted hot spare it waits for one. -/
def State.orderSwap (s : State) (c : CtxId) (m : Nat) : State :=
  match s.hotSpare c with
  | some sp => s.swapFor c m sp
  | none =>
    if s.grove.swapWait.contains m then s
    else { s with grove := { s.grove with swapWait := s.grove.swapWait ++ [m] } }

/-- An admitted spare lets what waited for one go on: takeovers first, then planned swaps (R248, R281). -/
def State.spareCame (s : State) (c : CtxId) : State :=
  let waiting := ((s.ctx c).takeoverOf.filterMap (fun (e : Nat × Option Nat) => if e.2.isNone then some e.1 else none))
  match waiting with
  | m :: ms => (s.updCtx c (fun x => { x with waitSpare := !ms.isEmpty })).orderTakeover c m
  | [] =>
    match s.grove.swapWait with
    | m :: _ => s.orderSwap c m
    | [] => s

/-- The security version counter raised to the active build's (R404, R409): never lowered, never while the PUF path is locked;
a slot left below it is invalid for fallback. -/
def State.raiseCounter (s : State) : State :=
  let v : BitVec 32 := BitVec.ofNat 32 ((s.bundle.map (·.secVer)).getD 0)
  if s.mss.pufLocked || !s.mss.hubKeys || decide (v ≤ s.mss.counter) then s
  else
    let s := { s with mss := { s.mss with counter := v } }
    let f := s.inactive
    match f.bundle with
    | some b => if b.secVer < v.toNat then s.setInactive { f with valid := false } else s
    | none => s

/-- The copy to a spare has ended as the identity is bound to it: its references are dropped (R150, R279 step 5). -/
def State.endSpareCopy (s : State) (c : CtxId) (m : Nat) : State :=
  s.updCtx c (fun x =>
    match x.spareCopy with
    | some (k, v) =>
      if k = m then
        { (x.dropReader v).updMir v (fun t => { t with readers := t.readers - 1 }) with spareCopy := none }
      else x
    | none => x)

/-- The pause source of a lost module is discarded (coinciding events of chapter 13). -/
def State.endPeerPause (s : State) (c : CtxId) (m : Nat) : State :=
  if (s.ctx c).pausePeers.contains m then
    (s.updCtx c (fun x => { x with pausePeers := x.pausePeers.filter (fun k => k != m) })).resumeIf c
  else s

/-- A declaration applied (R275, R276): a loss ends a planned swap of the lost module and the run of a sapling that shadows it; a
replacement costs the stripe sets the seat the spare leaves, an admission brings a seat back (R316), and of a sapling
in a rolling upgrade it leads to the swap for the module it shadowed (R282, R295). A suspect cleared gives its waiting transfers
one more T (R273; log 160). -/
def State.applyDecl (s : State) (d : Declared) : State :=
  let c := d.ctx
  let s := s.declEvent d
  match d.kind with
  | .lost =>
    let s := s.updCtx c (fun x => { x with
      swapAfter := if x.swapAfter.any (fun e => e.1 == d.subject) then none else x.swapAfter
      lostMods := if x.lostMods.contains d.subject then x.lostMods else x.lostMods ++ [d.subject]
      suspects := x.suspects.filter (fun m => m != d.subject), probes := AL.del d.subject x.probes
      extensions := AL.del d.subject x.extensions, waitsOn := AL.del d.subject x.waitsOn })
    let s := { s with grove := { s.grove with
      shadows := s.grove.shadows.filter (fun (e : CtxId × Shadow) => !(decide (e.1 = c) && e.2.w == d.subject)) } }
    if s.grove.sapling.any (fun g => decide (g.ctx = c) && !g.admitted && decide (g.w.val = d.subject)) then
      { s with grove := { s.grove with sapling := none } }.updCtx c (fun _ => {})
    else
      let s := (s.drainLoses c d.subject).endPeerPause c d.subject
      if s.buddy c = some d.subject then s.holdForSpare c d.subject else s
  | .suspectCleared =>
    s.updCtx c (fun x => { x with
      suspects := x.suspects.filter (fun m => m != d.subject), probes := AL.del d.subject x.probes
      waitsOn := match AL.find? d.subject x.waitsOn with
        | some k => AL.set d.subject (k + 1) x.waitsOn
        | none => x.waitsOn })
  | .replaced =>
    let s := s.endSpareCopy c d.subject
    let s := { s with link := { s.link with gens := AL.set d.subject d.gen s.link.gens } }
    let s := s.updCtx c (fun x => { x with
      lostMods := x.lostMods.filter (fun m => m != d.subject), takeoverOf := AL.del d.subject x.takeoverOf, swapAfter := none })
    let s := s.relevel c d.subject d.level
    let vacated (l : List Nat) : List Nat :=
      let l := l.filter (fun q => q != seatOf d.subject)
      if l.contains (seatOf d.physical) then l else l ++ [seatOf d.physical]
    let s := if groveOf d.subject = groveOf s.ident ∧ d.physical ≠ d.subject then
        s.updCtx c (fun x => { x with gLost := x.gLost.map (fun e => (e.1, vacated e.2)) })
      else s
    if d.subject = s.ident ∧ d.physical ≠ s.phys then s.leaveJob c else s
  | .admitted =>
    let swap := s.grove.shadows.find? (fun e => decide (e.1 = c) && e.2.sapling == d.subject && e.2.replaces)
    let s := { s with grove := { s.grove with
      shadows := s.grove.shadows.filter (fun (e : CtxId × Shadow) => e.2.sapling != d.subject) } }
    let s := s.relevel c d.subject d.level
    let s := if groveOf d.subject = groveOf s.ident then
        s.updCtx c (fun x => { x with gLost := x.gLost.map (fun e => (e.1, e.2.filter (fun q => q != seatOf d.subject))) })
      else s
    let taken (g : Sapling) : Sapling := { g with admitted := true }
    let s := if d.physical = s.phys then
        { s with grove := { s.grove with sapling := s.grove.sapling.map taken, retired := false } }.raiseCounter
      else s
    match swap with
    | some e => if s.isSteward c && (s.ctx c).takeoverOf.all (fun t => t.2.isSome) then s.swapFor c e.2.w d.physical else
        if s.isSteward c then s.spareCame c else s
    | none => if s.isSteward c then s.spareCame c else s

/-- A declaration taken in sequence order; a later one waits for those before it (R275). -/
def State.takeDecl (s : State) (d : Declared) : State :=
  let g := groveOf d.issuer
  { s with grove := { s.grove with seqNos := AL.set g d.seqNo s.grove.seqNos } }.applyDecl d

/-- Declarations that waited and are next in order, at most `n`. -/
def State.drainDecls (g : Nat) : Nat → State → State
  | 0, s => s
  | n + 1, s =>
    let next := (AL.get 0 g s.grove.seqNos + 1) % 2 ^ 32
    match s.grove.declWait.find? (fun d => groveOf d.issuer == g && d.seqNo == next) with
    | some d => State.drainDecls g n
        ({ s with grove := { s.grove with declWait := s.grove.declWait.filter (fun e => e != d) } }.takeDecl d)
    | none => s

/-- A declaration made by this module as steward: sent to the clearing and applied here (R275). -/
def State.declare (s : State) (c : CtxId) (k : DeclKind) (subject physical : Nat) (gen : BitVec 8) (level : Nat) : State :=
  let n := (AL.get 0 (groveOf s.ident) s.grove.seqNos + 1) % 2 ^ 32
  (s.send (.declare c k s.ident n subject physical)).takeDecl ⟨c, k, s.ident, n, subject, physical, gen, level⟩

/-- DECLARATION_RECEIVE (R275): from the steward of the issuer's grove, in sequence order; others are dropped and counted;
one that has been applied changes nothing. -/
def execDeclarationReceive (c : CtxId) (kind : DeclKind) (issuer : ModNo) (seqNo : Nat) (subject physical : ModNo)
    (gen : BitVec 8) (level : Nat) (s : State) : Host.Outcome State Fault Refusal :=
  .next (
    if !s.fromSteward c issuer.val (some subject.val) then s.badOrder
    else
      let d : Declared := ⟨c, kind, issuer.val, seqNo, subject.val, physical.val, gen, level⟩
      let g := groveOf issuer.val
      let ahead := (seqNo + 2 ^ 32 - AL.get 0 g s.grove.seqNos % 2 ^ 32) % 2 ^ 32
      if ahead = 1 then State.drainDecls g s.grove.declWait.length (s.takeDecl d)
      else if ahead = 0 ∨ 2 ^ 31 ≤ ahead then s
      else { s with grove := { s.grove with declWait := s.grove.declWait ++ [d] } })

/-! ## Lost modules (R273, R279, R281) -/

/-- The rollback a loss calls for: it does not count towards REPLAY_LIMIT (R210, R279). Where a rollback awaits its
acknowledgement already, the epoch moves on and the acknowledgement is contributed again (DEDUCED, log 31). -/
def State.lossRollback (s : State) (c : CtxId) : State :=
  s.rollback c .moduleLost 0 false (if (s.ctx c).ackWait then (s.ctx c).stopAt else none)

/-- The steward declares a module of the clearing lost (R273, R279, R281): LOST, the ROLLBACK order that names the present
epoch, its own rollback, and the takeover; takeovers that copied from the lost module are ordered anew. -/
def State.declareLost (s : State) (c : CtxId) (m : Nat) : State :=
  let x := s.ctx c
  if x.lostMods.contains m || !s.isMember c m then s
  else
    let s := s.declare c .lost m m 0 0
    let s := (s.send (.rollbackOrder c x.epoch)).orderEvent c 5 s.ident m m x.epoch
    let s := s.lossRollback c
    let again := (s.ctx c).takeoverOf.filter (fun (e : Nat × Option Nat) =>
      e.2.isSome && ((s.ctx c).prog.bind (fun p => buddyOf p e.1)) == some m)
    let s := again.foldl (fun (s : State) (e : Nat × Option Nat) =>
      match (s.ctx c).takeoverSource e.1, e.2 with
      | some b, some sp => (s.send (.takeoverOrder c sp e.1 b.1 b.2)).orderEvent c 6 s.ident e.1 sp 0
      | _, _ => s.memStateLost c) s
    (s.updCtx c (fun x => { x with takeoverOf := AL.set m none x.takeoverOf })).orderTakeover c m

/-- This module acts as steward about a peer: the lowest healthy module of the peer's grove but the peer (R274). -/
def State.stewardFor (s : State) (c : CtxId) (peer : Nat) : Bool :=
  !s.grove.spare && groveOf peer == groveOf s.ident && s.stewardOf c (groveOf peer) (some peer) == some s.ident

/-- The number a probe path has in a message: the module it passes through, or this for the direct link. -/
def directPath : Nat := 4096

/-- The three paths a steward probes a peer on: the direct link and the two lowest-numbered other healthy modules (R273). -/
def State.probePaths (s : State) (c : CtxId) (peer : Nat) : List Nat :=
  let ms := sortBy (fun a b => decide (a ≤ b)) ((s.groveMembers c).filter (fun m => (s.ctx c).healthy m && m != peer))
  directPath :: ms.take 2

/-- SUSPECT_RECEIVE (R273, R274): the steward of the peer's grove for this event marks the peer suspect and probes it. -/
def execSuspectReceive (c : CtxId) (src peer : ModNo) (s : State) : Host.Outcome State Fault Refusal :=
  .next (
    let x := s.ctx c
    if !s.stewardFor c peer.val || x.lostMods.contains peer.val || !s.isMember c src.val then s
    else if (AL.find? peer.val x.probes).isSome then s
    else
      let ps := s.probePaths c peer.val
      let s := s.updCtx c (fun x => { x with
        suspects := if x.suspects.contains peer.val then x.suspects else x.suspects ++ [peer.val]
        probes := AL.set peer.val ps x.probes })
      ps.foldl (fun (s : State) p => s.send (.probe c peer.val p)) s)

/-- What a module tells of its progress: each loaded context's committed version and provisional steps, then the codes of
its domains in reset (R273). -/
def State.progressReport (s : State) : List Nat :=
  let ctxs := (allCtx.filter (fun c => (s.ctx c).loaded)).flatMap (fun c =>
    [c.val, (s.ctx c).committed, (s.ctx c).steps.length])
  ctxs ++ (s.hub.domains.filter (fun (e : Domain × DomSt) => e.2.inReset)).map (fun e => domCode e.1)

/-- PROBE_RECEIVE (R273): the module answers with its progress, unless it is in reset itself. -/
def execProbeReceive (src : ModNo) (path : Nat) (s : State) : Host.Outcome State Fault Refusal :=
  .next (if s.inReset .warm then s else s.send (.probeReply src.val path s.progressReport))

/-- PROBE_REPLY_RECEIVE (R273): some path answered. The peer stays, paths that failed are reported and their traffic moves;
the waiting timeout is extended, and without progress after four extensions the peer is lost. -/
def execProbeReplyReceive (c : CtxId) (peer : ModNo) (paths : List Nat) (progress : Bool) (s : State) :
    Host.Outcome State Fault Refusal :=
  .next (
    match AL.find? peer.val (s.ctx c).probes with
    | none => s
    | some ps =>
      if paths.isEmpty then s
      else
        let bad := ps.filter (fun p => !paths.contains p)
        let s := bad.foldl (fun (s : State) p =>
          let s := s.send (.detourSuspect peer.val p)
          if p = directPath then
            match s.portTo peer.val with
            | some q => s.moveTraffic q
            | none => s
          else s) s
        let before := if progress then 0 else AL.get 0 peer.val (s.ctx c).extensions
        if 4 ≤ before then s.declareLost c peer.val
        else
          let s := s.declare c .suspectCleared peer.val peer.val 0 0
          (s.updCtx c (fun x => { x with extensions := AL.set peer.val (before + 1) x.extensions })).send
            (.extend c peer.val))

/-- PROBE_TIMEOUT (R273): no path has answered within 3 ms. -/
def execProbeTimeout (c : CtxId) (peer : ModNo) (s : State) : Host.Outcome State Fault Refusal :=
  .next (if (AL.find? peer.val (s.ctx c).probes).isSome then s.declareLost c peer.val else s)

/-- A module that has told its steward it leaves: a member of the clearing is lost at once; a sapling shadows no longer. -/
def State.peerGone (s : State) (c : CtxId) (m : Nat) : State :=
  if !s.stewardFor c m then s
  else if s.isMember c m then s.declareLost c m
  else { s with grove := { s.grove with
    shadows := s.grove.shadows.filter (fun (e : CtxId × Shadow) => !(decide (e.1 = c) && e.2.sapling == m)) } }

/-- MODULE_SELF_FENCE_RECEIVE (R273): lost at once, without probes. -/
def execModuleSelfFenceReceive (c : CtxId) (peer : ModNo) (s : State) : Host.Outcome State Fault Refusal :=
  .next (s.peerGone c peer.val)

/-- MSS_FAILED_RECEIVE (R26, R269): the module is treated as lost. -/
def execMssFailedReceive (c : CtxId) (m : ModNo) (s : State) : Host.Outcome State Fault Refusal :=
  .next (s.peerGone c m.val)

/-- MODULE_STRIKE_REPORT_RECEIVE (R248): the steward orders a planned swap. -/
def execModuleStrikeReportReceive (c : CtxId) (m : ModNo) (s : State) : Host.Outcome State Fault Refusal :=
  .next (if s.isSteward c && groveOf m.val == groveOf s.ident then s.orderSwap c m.val else s)

/-- EOL_NO_SPARE_RECEIVE (R286): the steward orders a planned swap. -/
def execEolNoSpareReceive (c : CtxId) (m : ModNo) (s : State) : Host.Outcome State Fault Refusal :=
  .next (if s.isSteward c && groveOf m.val == groveOf s.ident then s.orderSwap c m.val else s)

/-- The epoch an order names has passed here (R275). -/
def State.epochPast (s : State) (c : CtxId) (epoch : BitVec 16) : Bool :=
  let past := ((s.ctx c).epoch - epoch).toNat
  decide (0 < past) && decide (past < 2 ^ 15)

/-- ROLLBACK_ORDER_RECEIVE (R204, R210, R275, R279 step 1): the order of the steward rolls back; a member's report of lost state
stops the clearing, this module posting STEP_PEER_STOPPED (log 49); either unless the epoch it names has passed. -/
def execRollbackOrderReceive (c : CtxId) (issuer : ModNo) (order : RollbackOrder) (s : State) :
    Host.Outcome State Fault Refusal :=
  .next (
    if order.stateLost then
      if (s.ctx c).loaded && !s.epochPast c order.epoch && issuer.val != s.ident && (s.clearingMods c).contains issuer.val then
        s.clearingStops c .stepPeerStopped
      else s
    else if !s.fromSteward c issuer.val none then s.badOrder
    else
      let epoch := order.epoch
      if (s.ctx c).loaded = false ∨ s.epochPast c epoch = true then s
      else (s.orderEvent c 5 issuer.val issuer.val issuer.val epoch).lossRollback c)

end Sys2Proof.Machine
end

