-- ==== Sys2Proof/Machine/Management.lean ====
section
/-! DEFINITION. The OEM commands of the MSS and PLDM base and monitoring (R188, R193, R244, R391, R392, R397, R409, R414). -/

namespace Sys2Proof.Machine

/-! ## The OEM type (R414) -/

/-- SELECT_PROFILE (R397): the selection waits for a job boundary. -/
def execSelectProfile (slot : Fin 4) (s : State) : Host.Outcome State Fault Refusal :=
  .next (if s.mssServes then (s.requestProfile slot).answer "SelectProfile" 0 none [] else s)

/-- The signature of the identity key (R411): a free value, empty where the key is not available (R417, R420). -/
def State.signature (s : State) : List Byte := if s.mss.idKey then Config.freeBytes s.hub.freeCtr else []

/-- READ_LOG (R392, R411): entries from a place on, with how many the log holds and how many were lost, as a signed extract (log 165). -/
def execReadLog (first count : Nat) (s : State) : Host.Outcome State Fault Refusal :=
  .next (
    if s.mssServes then
      { s.draw.2 with mss := { s.draw.2.mss with
        response := some ⟨"ReadLog", 0, none, [s.mss.log.length, s.mss.logLost.toNat], s.signature, [], (s.mss.log.drop first).take count⟩ } }
    else s)

/-- COMMIT_SECURITY_VERSION (R404, R409): with a token signed by the owner root the counter rises to the active build's
version. -/
def execCommitSecurityVersion (sigOk : Bool) (s : State) : Host.Outcome State Fault Refusal :=
  .next (
    if !s.mssServes then s
    else if !sigOk || s.mss.pufLocked || !s.mss.hubKeys then s.answer "CommitSecurityVersion" 1 none []
    else s.raiseCounter.answer "CommitSecurityVersion" 0 none [s.raiseCounter.mss.counter.toNat])

/-- MAP_OUT_CHANNEL (R20, R188, R189): the MSS commands the map-out of a physical channel, through the mailbox; a reserve channel is
fenced. The channel is taken as readable (R189 does not say; log 127). -/
def execMapOutChannel (d : Die) (ch : Nat) (s : State) : Host.Outcome State Fault Refusal :=
  .next (
    if !s.mssServes then s
    else if 160 ≤ ch ∨ s.mem.fenced.contains (d.val, ch) then s.answer "MapOutChannel" 1 none []
    else
      let running := match s.logicalFor (d.val, ch) with
        | some l => s.mem.mapouts.any (fun m => m.die == l.1 && m.logical == l.2)
        | none => false
      if running then s.answer "MapOutChannel" 1 none []
      else ((s.answer "MapOutChannel" 0 none []).postMbox false (.mapOut d ch)).deliverMbox)

/-- RELEASE_PRUNED_CORE (R19, R20, R244): a core that has passed a full-mode field test returns to service while no program is
loaded, by the MSS's message to the command processor. -/
def execReleasePrunedCore (core : CoreId) (s : State) : Host.Outcome State Fault Refusal :=
  .next (
    if !s.mssServes then s
    else if s.anyLoaded || !s.cores.pruned.contains core || !(s.core core).passedFull || s.mss.pufLocked then
      s.answer "ReleasePrunedCore" 1 none []
    else
      ((s.answer "ReleasePrunedCore" 0 none []).postMbox false (.releaseCore core)).deliverMbox)

/-- START_MARGINING (R193): a reserve channel that is not being filled, or any channel while no program is
loaded; its controller is reset (R264). -/
def execStartMargining (d : Die) (ch : Nat) (s : State) : Host.Outcome State Fault Refusal :=
  .next (
    if !s.mssServes then s
    else
      let p : Chan := (d.val, ch)
      let any := decide (ch < 160) && !s.anyLoaded
      if s.mem.margining.contains p || !(s.idleReserve p || any) then s.answer "StartMargining" 1 none []
      else
        let s := { s with mem := { s.mem with margining := s.mem.margining ++ [p] } }
        (s.enterReset (.hbm (hbmOf p))).answer "StartMargining" 0 none [])

/-! ## PLDM base, type 0 (R414) -/

/-- PLDM types of the module (R414), those of recovery alone where it runs in recovery (R406). -/
def State.pldmTypes (s : State) : List Nat := if s.hub.recovery then [0, 5] else [0, 2, 5, 0x3F]

/-- Commands of a PLDM type (R414). -/
def pldmCommands : Nat → List String
  | 0 => ["SetTID", "GetTID", "GetPLDMVersion", "GetPLDMTypes", "GetPLDMCommands"]
  | 2 => ["GetPDRRepositoryInfo", "GetPDR", "GetSensorReading", "GetStateSensorReadings", "SetEventReceiver",
          "EventMessageBufferSize", "PollForPlatformEventMessage"]
  | 5 => ["QueryDeviceIdentifiers", "GetFirmwareParameters", "RequestUpdate", "PassComponentTable", "UpdateComponent",
          "TransferComplete", "VerifyComplete", "ApplyComplete", "ActivateFirmware", "GetStatus", "CancelUpdateComponent",
          "CancelUpdate"]
  | 0x3F => ["ReadLog", "ClearLog", "SelectProfile", "CommitSecurityVersion", "MapOutChannel", "ReleasePrunedCore",
             "StartMargining", "DebugUnlock"]
  | _ => []

/-- SET_TID (R414). -/
def execSetTid (tid : Nat) (s : State) : Host.Outcome State Fault Refusal :=
  .next (if s.mssRuns then { s with mss := { s.mss with tid := tid % 256 } }.answer "SetTID" 0 none [] else s)

/-- GET_TID (R414). -/
def execGetTid (s : State) : Host.Outcome State Fault Refusal :=
  .next (if s.mssRuns then s.answer "GetTID" 0 none [s.mss.tid] else s)

/-- GET_PLDM_VERSION (R414): of a type the module has; the version itself is a free value. -/
def execGetPldmVersion (type : Nat) (s : State) : Host.Outcome State Fault Refusal :=
  .next (
    if !s.mssRuns then s
    else if s.pldmTypes.contains type then s.draw.2.answer "GetPLDMVersion" 0 none [s.draw.1 % 2 ^ 32]
    else s.answer "GetPLDMVersion" 1 none [])

/-- GET_PLDM_TYPES (R414). -/
def execGetPldmTypes (s : State) : Host.Outcome State Fault Refusal :=
  .next (if s.mssRuns then s.answer "GetPLDMTypes" 0 none s.pldmTypes else s)

/-- GET_PLDM_COMMANDS (R414). -/
def execGetPldmCommands (type : Nat) (s : State) : Host.Outcome State Fault Refusal :=
  .next (
    if !s.mssRuns then s
    else if s.pldmTypes.contains type then
      { s with mss := { s.mss with response := some ⟨"GetPLDMCommands", 0, none, [], [], pldmCommands type, []⟩ } }
    else s.answer "GetPLDMCommands" 1 none [])

/-! ## PLDM monitoring, type 2 (R391, R414) -/

/-- The numeric sensors with their identifiers, in the order of R391. -/
def sensorIds : List (Nat × Sensor) :=
  (List.finRange 7).map (fun i => (1 + i.val, .junction i)) ++
  (List.finRange 20).map (fun k => (0x10 + k.val, .stackTemp k)) ++
  [(0x30, .coolantIn), (0x31, .coolantOut), (0x40, .mainVolt), (0x41, .mainCurr), (0x42, .mainPower), (0x43, .standbyPower)] ++
  (List.finRange 4).map (fun d => (0x50 + d.val, .vdd d)) ++ [(0x60, .governor)] ++
  (List.finRange 40).map (fun p => (0x100 + p.val, .rxPower p)) ++
  (List.finRange 40).map (fun p => (0x140 + p.val, .preFecBer p)) ++
  (List.finRange 40).map (fun p => (0x180 + p.val, .drops p))

/-- A reading as 32 bits, two's complement. -/
def readingWord (v : Int) : Nat := (v % (2 ^ 32 : Nat)).toNat

/-- GET_PDR_REPOSITORY_INFO (R414): one record for each sensor. -/
def execGetPdrRepositoryInfo (s : State) : Host.Outcome State Fault Refusal :=
  .next (if s.mssServes then s.answer "GetPDRRepositoryInfo" 0 none [sensorIds.length] else s)

/-- GET_PDR (R391, R414): the record of a sensor, by handles from 1 in the order of R391, 0 asking for the first (log 39);
the next handle and the sensor's identifier. -/
def execGetPdr (handle : Nat) (s : State) : Host.Outcome State Fault Refusal :=
  .next (
    if !s.mssServes then s
    else
      let i := if handle = 0 then 0 else handle - 1
      match sensorIds[i]? with
      | some e => s.answer "GetPDR" 0 none [if i + 1 < sensorIds.length then i + 2 else 0, e.1]
      | none => s.answer "GetPDR" 1 none [])

/-- GET_SENSOR_READING (R391, R414): the latest sample of a numeric sensor. -/
def execGetSensorReading (id : Nat) (s : State) : Host.Outcome State Fault Refusal :=
  .next (
    if !s.mssServes then s
    else
      match (List.find? (fun (e : Nat × Sensor) => e.1 == id) sensorIds).bind (fun e => AL.find? e.2 s.mss.sensors) with
      | some v => s.answer "GetSensorReading" 0 none [readingWord v]
      | none => s.answer "GetSensorReading" 1 none [])

/-- GET_STATE_SENSOR_READINGS (R391, R414): every sensor of the module is numeric, so no identifier names a state sensor. -/
def execGetStateSensorReadings (id : Nat) (s : State) : Host.Outcome State Fault Refusal :=
  .next (if s.mssServes then s.answer "GetStateSensorReadings" 1 none [id] else s)

/-- SET_EVENT_RECEIVER (R414). -/
def execSetEventReceiver (eid : Nat) (s : State) : Host.Outcome State Fault Refusal :=
  .next (
    if s.mssServes then { s with mss := { s.mss with receiver := some eid } }.answer "SetEventReceiver" 0 none [] else s)

/-- EVENT_MESSAGE_BUFFER_SIZE (R414). -/
def execEventMessageBufferSize (size : Nat) (s : State) : Host.Outcome State Fault Refusal :=
  .next (
    if s.mssServes then { s with mss := { s.mss with evBuffer := size } }.answer "EventMessageBufferSize" 0 none [size] else s)

/-- POLL_FOR_PLATFORM_EVENT_MESSAGE (R414): an acknowledgement takes the oldest event away; the oldest that is left is
answered. -/
def execPollForPlatformEventMessage (ack : Option Nat) (s : State) : Host.Outcome State Fault Refusal :=
  .next (
    if !s.mssServes then s
    else
      let rest := if ack.isSome then s.mss.platform.drop 1 else s.mss.platform
      { s with mss := { s.mss with
        platform := rest
        response := some ⟨"PollForPlatformEventMessage", 0, none, [rest.length], [], [], rest.take 1⟩ } })

end Sys2Proof.Machine
end

