-- ==== Sys2Proof/Machine/FirmwareUpdate.lean ====
section
/-! DEFINITION. PLDM firmware update, type 5 (R398, R404–R409). The states an update passes through are those of the PLDM
standard (PRESUMED, log 40). -/

namespace Sys2Proof.Machine

/-- The state of the update changed. -/
def State.updUpdate (s : State) (f : FwUpdate → FwUpdate) : State := { s with mss := { s.mss with update := f s.mss.update } }

/-- The MSS asks the update agent for the next chunk of at most 4,096 bytes, while some of the component is still to come (R407, R414). -/
def State.askChunk (s : State) : State :=
  let u := s.mss.update
  if u.state = .download ∧ u.got < u.size then
    { s with out := { s.out with chunks := (u.got, min 4096 (u.size - u.got)) :: s.out.chunks } }
  else s

/-- A firmware command is answered while the MSS runs, in recovery too (R406). -/
def State.fwAnswer (s : State) (command : String) (ok : Bool) (vals : List Nat) : State :=
  s.answer command (if ok then 0 else 1) none vals

/-- The number of an update state, in the order of the standard (log 40). -/
def fwStateNo : FwState → Nat
  | .idle => 0 | .learn => 1 | .ready => 2 | .download => 3 | .verify => 4 | .apply => 5 | .activate => 6

/-- QUERY_DEVICE_IDENTIFIERS (R414): the module serial. -/
def execQueryDeviceIdentifiers (s : State) : Host.Outcome State Fault Refusal :=
  .next (if s.mssRuns then s.fwAnswer "QueryDeviceIdentifiers" true [Config.serial] else s)

/-- What a firmware slot tells of itself: valid, build, security version, contract level. -/
def slotVals (f : FwSlot) : List Nat :=
  match f.bundle with
  | some b => [f.valid.toNat, b.build, b.secVer, b.level]
  | none => [0, 0, 0, 0]

/-- GET_FIRMWARE_PARAMETERS (R404, R405, R414): the active slot, the other slot and the counter. -/
def execGetFirmwareParameters (s : State) : Host.Outcome State Fault Refusal :=
  .next (
    if s.mssRuns then
      let act := if s.mss.activeB then s.mss.slotB else s.mss.slotA
      s.fwAnswer "GetFirmwareParameters" true (slotVals act ++ slotVals s.inactive ++ [s.mss.counter.toNat])
    else s)

/-- REQUEST_UPDATE (R407): an update begins, from idle. -/
def execRequestUpdate (s : State) : Host.Outcome State Fault Refusal :=
  .next (
    if !s.mssRuns then s
    else if s.mss.update.state = .idle then
      (s.updUpdate (fun _ => { state := .learn })).fwAnswer "RequestUpdate" true []
    else s.fwAnswer "RequestUpdate" false [])

/-- The component identifiers of R407. -/
def knownComponent (i : Nat) : Bool := i == 1 || (decide (0x10 ≤ i) && decide (i ≤ 0x13))

/-- PASS_COMPONENT_TABLE (R407): the components the update will carry. -/
def execPassComponentTable (ids : List Nat) (s : State) : Host.Outcome State Fault Refusal :=
  .next (
    if !s.mssRuns then s
    else if s.mss.update.state = .learn ∧ ids.all knownComponent = true then
      (s.updUpdate (fun u => { u with state := .ready, passed := ids })).fwAnswer "PassComponentTable" true []
    else s.fwAnswer "PassComponentTable" false [])

/-- The identifier of a component (R407). -/
def componentId : Component → Nat
  | .bundle => 1
  | .profile k => 0x10 + k.val

/-- A slot's profile is in use (R398). -/
def State.profileInUse (s : State) (k : Fin 4) : Bool := s.mss.profile.isSome && s.mss.activeSlot == k

/-- UPDATE_COMPONENT (R398, R407, R419): the transfer of a component begins; a bundle goes to the inactive slot, which is
invalid from then on. The slot of the profile in use is refused with PROFILE_IN_USE. -/
def execUpdateComponent (comp : Component) (size : Nat) (s : State) : Host.Outcome State Fault Refusal :=
  .next (
    if !s.mssRuns then s
    else
      let u := s.mss.update
      let start (s : State) : State :=
        ((s.updUpdate (fun u => { u with state := .download, comp := some comp, size := size, got := 0, staged := none, result := none })).fwAnswer
          "UpdateComponent" true []).askChunk
      if u.state ≠ .ready ∨ u.passed.contains (componentId comp) = false then s.fwAnswer "UpdateComponent" false []
      else
        match comp with
        | .bundle => if s.mss.pufLocked then s.fwAnswer "UpdateComponent" false [] else start (s.setInactive { s.inactive with valid := false })
        | .profile k => if s.profileInUse k then s.refuse "UpdateComponent" .profileInUse else start s)

/-- FIRMWARE_DATA_RESPONSE (R407): the agent's answer to a RequestFirmwareData of at most 4,096 bytes. -/
def execFirmwareDataResponse (bytes : Nat) (s : State) : Host.Outcome State Fault Refusal :=
  .next (
    let u := s.mss.update
    if s.mssRuns && decide (u.state = .download) then
      (s.updUpdate (fun u => { u with got := min u.size (u.got + min bytes 4096) })).askChunk
    else s)

/-- TRANSFER_COMPLETE (R407): the whole component is staged; the MSS verifies it. -/
def execTransferComplete (s : State) : Host.Outcome State Fault Refusal :=
  .next (
    if !s.mssRuns then s
    else
      let u := s.mss.update
      if u.state = .download ∧ u.size ≤ u.got then
        (s.updUpdate (fun u => { u with state := .verify })).fwAnswer "TransferComplete" true []
      else s.fwAnswer "TransferComplete" false [])

/-- What is wrong with a staged component, if anything (R398, R405, R407). -/
def State.stagedBad (s : State) (x : Staged) : Option Status :=
  match x with
  | .bundle b =>
    let permitted := (s.mss.profile.map (·.acrs)).getD []
    if !b.sigOk || !(permitted.all (fun a => b.acrs.contains a)) then some .fwVerifyFailed
    else if b.secVer < s.mss.counter.toNat then some .fwRollbackRefused
    else none
  | .profile k p =>
    let old := ((AL.find? k s.mss.profiles).map (·.secVer)).getD 0
    if !p.sigOk then some .fwVerifyFailed
    else if p.secVer < old then some .fwRollbackRefused
    else none

/-- The staged content is of the component the update names. -/
def stagedFits (c : Component) (x : Staged) : Bool :=
  match c, x with
  | .bundle, .bundle _ => true
  | .profile k, .profile j _ => k == j
  | _, _ => false

/-- VERIFY_COMPLETE (R398, R407): the staged component passes and is applied next, or the transfer ends with FW_VERIFY_FAILED
or FW_ROLLBACK_REFUSED. -/
def execVerifyComplete (staged : Staged) (s : State) : Host.Outcome State Fault Refusal :=
  .next (
    if !s.mssRuns then s
    else
      match s.mss.update.comp with
      | some c =>
        if s.mss.update.state ≠ .verify ∨ stagedFits c staged = false then s.fwAnswer "VerifyComplete" false []
        else
          match s.stagedBad staged with
          | some st =>
            let s := s.updUpdate (fun u => { u with state := .ready, comp := none, result := some st })
            (s.addLog .update .informational st [] none).refuse "VerifyComplete" st
          | none =>
            (s.updUpdate (fun u => { u with state := .apply, staged := some staged, result := none })).fwAnswer "VerifyComplete" true []
      | none => s.fwAnswer "VerifyComplete" false [])

/-- A staged component is a profile. -/
def stagedProfile (x : Staged) : Bool :=
  match x with
  | .profile _ _ => true
  | .bundle _ => false

/-- APPLY_COMPLETE (R398, R407): the staged component is written: a bundle to the inactive slot, now valid, a profile to its
slot, unless that profile has come into use. While the PUF path is locked no firmware slot can be written (R419). -/
def execApplyComplete (s : State) : Host.Outcome State Fault Refusal :=
  .next (
    if !s.mssRuns then s
    else
      match s.mss.update.state, s.mss.update.comp, s.mss.update.staged with
      | .apply, some c, some x =>
        let write : Option State := match x with
          | .bundle b => if s.mss.pufLocked then none else some (s.setInactive { bundle := some b, valid := true })
          | .profile k p => if s.profileInUse k then none else some { s with mss := { s.mss with profiles := AL.set k p s.mss.profiles } }
        match write with
        | none => if stagedProfile x then s.refuse "ApplyComplete" .profileInUse else s.fwAnswer "ApplyComplete" false []
        | some s =>
          (s.updUpdate (fun u => { u with state := .ready, comp := none, staged := none, applied := u.applied ++ [c] })).fwAnswer
            "ApplyComplete" true []
      | _, _, _ => s.fwAnswer "ApplyComplete" false [])

/-- ACTIVATE_FIRMWARE (R288, R408): only in no clearing, else FW_ACTIVATE_BUSY. The staged slot is marked active; a warm reset with
the full start follows, and a reset of the MSS. With profiles alone applied there is no slot to activate. -/
def execActivateFirmware (s : State) : Host.Outcome State Fault Refusal :=
  .next (
    if !s.mssRuns then s
    else if s.mss.update.state ≠ .ready ∨ s.mss.update.applied.isEmpty = true then s.fwAnswer "ActivateFirmware" false []
    else if s.inClearing then (s.addLog .update .informational .fwActivateBusy [] none).refuse "ActivateFirmware" .fwActivateBusy
    else
      let bundle := s.mss.update.applied.contains .bundle && s.inactive.valid
      let s := (s.updUpdate (fun _ => {})).fwAnswer "ActivateFirmware" true []
      if bundle then
        (({ s with mss := { s.mss with activeB := !s.mss.activeB }, hub := { s.hub with recovery := false } }).mssReset).warmReset true
      else s)

/-- GET_STATUS (R407): the state of the update, what is transferred, and the last result. -/
def execGetStatus (s : State) : Host.Outcome State Fault Refusal :=
  .next (
    if s.mssRuns then
      let u := s.mss.update
      s.answer "GetStatus" 0 u.result [fwStateNo u.state, u.got, u.size]
    else s)

/-- CANCEL_UPDATE_COMPONENT (R407): the transfer of the component ends; the update is ready for another. -/
def execCancelUpdateComponent (s : State) : Host.Outcome State Fault Refusal :=
  .next (
    if !s.mssRuns then s
    else if s.mss.update.comp.isSome then
      (s.updUpdate (fun u => { u with state := .ready, comp := none, staged := none, got := 0 })).fwAnswer "CancelUpdateComponent" true []
    else s.fwAnswer "CancelUpdateComponent" false [])

/-- CANCEL_UPDATE (R407): the update ends; what had been applied stays in its slot. -/
def execCancelUpdate (s : State) : Host.Outcome State Fault Refusal :=
  .next (
    if !s.mssRuns then s
    else if s.mss.update.state = .idle then s.fwAnswer "CancelUpdate" false []
    else (s.updUpdate (fun _ => {})).fwAnswer "CancelUpdate" true [])

end Sys2Proof.Machine
end

