-- ==== Sys2Proof/Machine/VectorUnit.lean ====
section
/-! DEFINITION. VX, the rake, the scan unit, the core DMA's fills, and the stall that times out (R67, R107–R125, R185,
R187). -/

namespace Sys2Proof.Machine

/-! ## Vectors in the scratchpad (R107, R121) -/

/-- The 256 words of a half of a block. -/
def halfWords (b : SpadBlock) (h : Fin 2) : List Nat := (List.range 256).map (fun i => field b.bytes (1024 * h.val + 4 * i) 4)

/-- Elements of a vector in a format: 64 in FP64, else as many as its 256 words hold, at most 256 (R107; log 21). -/
def vecCount (f : Fmt) : Nat := if f = .fp64 then 64 else min 256 (8192 / f.bits)

/-- The first `n` elements packed in words, low elements first (R29). -/
def packedCodes (f : Fmt) (n : Nat) (ws : List Nat) : List Nat :=
  let v := ws.foldr (fun w a => w + 2 ^ 32 * a) 0
  (List.range n).map (fun i => v / 2 ^ (f.bits * i) % 2 ^ f.bits)

/-- The codes of a vector: FP64 elements in lanes 4i (low) and 4i + 1 (R107), others packed from lane 0 (R29; log 21). -/
def vecCodes (f : Fmt) (ws : List Nat) : List Nat :=
  if f = .fp64 then (List.range 64).map (fun i => ws.getD (4 * i) 0 + 2 ^ 32 * ws.getD (4 * i + 1) 0)
  else packedCodes f (vecCount f) ws

/-- A lane result: its word and its flags. -/
abbrev LaneOut := Nat × Flags

/-- Codes put into lanes, each with its flags: lanes no element covers keep what they held. -/
def codesToLanes (f : Fmt) (old : List Nat) (cs : List (Nat × Flags)) : List LaneOut :=
  if f = .fp64 then
    (List.range 256).map (fun l =>
      let e := cs.getD (l / 4) (0, {})
      if l / 4 < cs.length && l % 4 = 0 then (e.1 % 2 ^ 32, e.2)
      else if l / 4 < cs.length && l % 4 = 1 then (e.1 / 2 ^ 32, e.2) else (old.getD l 0, {}))
  else
    let v := cs.foldr (fun e a => e.1 + 2 ^ f.bits * a) 0
    (List.range 256).map (fun l =>
      if 32 * l < f.bits * cs.length then
        (v / 2 ^ (32 * l) % 2 ^ 32,
          ((cs.drop (32 * l / f.bits)).take (max 1 (32 / f.bits))).foldl (fun (a : Flags) (e : Nat × Flags) => a.or e.2) {})
      else (old.getD l 0, {}))

/-! ## Lane operations (R107–R111) -/

/-- A compare result in a width (R107: its encoding is open, log 22). -/
def cmpOut (bits : Nat) (b : Bool) : Nat := Config.vxCompare bits b % 2 ^ bits

/-- Whether a select takes its first input (log 22). -/
def selects (bits c : Nat) : Bool :=
  if c = cmpOut bits true then true else if c = cmpOut bits false then false else Config.vxSelect bits c

/-- FP32 lane by lane. Minimum and maximum order −0 below +0 and give the canonical NaN for a NaN, as the rake's do: R115 says so
of the rake alone, R107 nothing of VX (DESIGN CHOICE, log 116). -/
def lanesF32 (f : BitVec 32 → BitVec 32 → BitVec 32 → Flagged) (a b c : List Nat) : List LaneOut :=
  (List.range 256).map (fun l =>
    let r := f (BitVec.ofNat 32 (a.getD l 0)) (BitVec.ofNat 32 (b.getD l 0)) (BitVec.ofNat 32 (c.getD l 0))
    (r.1.toNat, r.2))

/-- 32-bit integers lane by lane; they raise no flag. -/
def lanesInt (f : BitVec 32 → BitVec 32 → BitVec 32 → Nat) (a b c : List Nat) : List LaneOut :=
  (List.range 256).map (fun l =>
    (f (BitVec.ofNat 32 (a.getD l 0)) (BitVec.ofNat 32 (b.getD l 0)) (BitVec.ofNat 32 (c.getD l 0)) % 2 ^ 32, {}))

/-- BF16, two elements to a lane. -/
def lanesBf (f : Nat → Nat → Nat → Nat × Flags) (a b c : List Nat) : List LaneOut :=
  (List.range 256).map (fun l =>
    let x := a.getD l 0
    let y := b.getD l 0
    let z := c.getD l 0
    let lo := f (x % 65536) (y % 65536) (z % 65536)
    let hi := f (x / 65536) (y / 65536) (z / 65536)
    (lo.1 + 65536 * hi.1, lo.2.or hi.2))

/-- A BF16 operation through FP32 (R108). -/
def bfLanes (f : BitVec 32 → BitVec 32 → BitVec 32 → Flagged) : List Nat → List Nat → List Nat → List LaneOut :=
  lanesBf (fun x y z => bfOp (f (bf16To32 x) (bf16To32 y) (bf16To32 z)))

/-- FP64, one element to lanes 4i and 4i + 1. -/
def lanes64 (f : Nat → Nat → Nat → Nat × Flags) (a b c old : List Nat) : List LaneOut :=
  let x := vecCodes .fp64 a
  let y := vecCodes .fp64 b
  let z := vecCodes .fp64 c
  codesToLanes .fp64 old ((List.range 64).map (fun i => f (x.getD i 0) (y.getD i 0) (z.getD i 0)))

/-- Maximum and minimum as lane results (R30, R115). -/
def maxF (a b : BitVec 32) : Flagged := (fmax a b, {})
/-- Minimum. -/
def minF (a b : BitVec 32) : Flagged := (fmin a b, {})

/-- A word selected: a NaN comes out canonical (R30). -/
def pickF (first : Bool) (y z : BitVec 32) : Flagged :=
  let w := if first then y else z
  (if (f32 w).isNan then nan32 else w, {})

/-- The bytes of lane words, low byte first. -/
def unpackBytes (ws : List Nat) : List Nat := ws.flatMap (fun w => (List.range 4).map (fun i => w / 256 ^ i % 256))

/-- The smoothing of an activation (R77): lane l times 2^(−j), j the l-th INT8 element of the vector of exponents, clamped into −16 to
15. The codes of this tensor are read as two's complement, for they stand for negative exponents too and R28's codes are unsigned
(DESIGN CHOICE, log 143). -/
def smoothLanes (a js : List Nat) : List LaneOut :=
  let codes := unpackBytes js
  a.zipIdx.map (fun e =>
    let r := mulF (BitVec.ofNat 32 e.1) (rneF32 (XV.ofScaled 1 (-(clampInt (toSigned 8 (codes.getD e.2 0)) (-16) 15))))
    (r.1.toNat, r.2))

/-- One stage of a butterfly at lane distance h (R75). -/
def butterflyLanes (h : Nat) (a : List Nat) : List LaneOut :=
  (List.range 256).map (fun l =>
    let w (i : Nat) : BitVec 32 := BitVec.ofNat 32 (a.getD i 0)
    let r := if h = 0 then (w l, {}) else if l / h % 2 = 0 then addF (w l) (w (l + h)) else subF (w (l - h)) (w l)
    (r.1.toNat, r.2))

/-- The random words of 64 blocks of a step (R49, R50). -/
def randomLanes (key step layer tile stream block : Nat) : List LaneOut :=
  let c0 := step % 2 ^ 32
  let c1 := layer % 65536 * 65536 + step / 2 ^ 32 % 65536
  ((List.range 64).flatMap (fun g =>
    philox key c0 c1 (tile % 2 ^ 32) (stream % 256 * 2 ^ 24 + (block + g) % 2 ^ 24))).map (fun w => (w, {}))

/-- The uniform FP32 values of random words (R51): exact. -/
def uniformLanes (a : List Nat) : List LaneOut :=
  a.map (fun w => ((rneF32 (.fin false (w % 2 ^ 32 / 256) (2 ^ 24))).toNat, {}))

/-- Elements dropped where their random word is below the threshold (R51): a dropped one is +0 (log 117), a NaN that stays the
canonical one (R30). -/
def dropLanes (p : Nat) (a b : List Nat) : List LaneOut :=
  (List.range 256).map (fun l =>
    let w := a.getD l 0
    (if b.getD l 0 < p then 0 else if (f32 (BitVec.ofNat 32 w)).isNan then nan32.toNat else w, {}))

/-! ## Conversions (R58, R59, R110) -/

/-- An exact value in a format (R45, R58, R59, R110), and whether its entry into FXR64 overflowed. -/
def elemCode (f : Fmt) (r : ScaleRec) (x : XV) : Nat × Flags × Bool :=
  if f.isNarrow then (let c := quantiseX f r.scale r.zp x; (c.1, c.2, false))
  else if f = .fxr64 then fxrCode r x
  else (let c := encodeFp f x; (c.1, c.2, false))

/-- Elements a conversion handles. -/
def convertCount (src dst : Fmt) : Nat := min (vecCount src) (vecCount dst)

/-- The exact values a conversion reads. -/
def convertIn (src dst : Fmt) (rs : ScaleRec) (a : List Nat) : List XV :=
  ((vecCodes src a).take (convertCount src dst)).map (elemValue src rs)

/-- The codes a conversion writes, with their flags and overflows. -/
def convertCodes (src dst : Fmt) (rs rd : ScaleRec) (a : List Nat) : List (Nat × Flags × Bool) :=
  (convertIn src dst rs a).map (elemCode dst rd)

/-! ## The instruction -/

/-- What an instruction takes beside its vectors: the records of its source and destination tensors, the random key, the drop
thresholds of its program. -/
structure VxEnv where
  rs    : ScaleRec
  rd    : ScaleRec
  key   : Nat
  drops : List Nat

/-- The lane results of an instruction on the words of its sources; `old` are those of its destination. The integer compare takes
its inputs as signed: R107 does not say (DESIGN CHOICE, log 116). -/
def vxLanes (op : VxOp) (v : VxEnv) (a b c old : List Nat) : List LaneOut :=
  let cmp (f : XV → XV → Bool) (x y : BitVec 32) : Flagged := (BitVec.ofNat 32 (cmpOut 32 (f (f32 x) (f32 y))), {})
  let cmpB (f : XV → XV → Bool) (x y _z : Nat) : Nat × Flags := (cmpOut 16 (f (f32 (bf16To32 x)) (f32 (bf16To32 y))), {})
  let cmp64 (f : XV → XV → Bool) (x y _z : Nat) : Nat × Flags := (cmpOut 64 (f (f64 x) (f64 y)), {})
  match op with
  | .add32 => lanesF32 (fun x y _ => addF x y) a b c
  | .sub32 => lanesF32 (fun x y _ => subF x y) a b c
  | .mul32 => lanesF32 (fun x y _ => mulF x y) a b c
  | .fma32 => lanesF32 fmaF a b c
  | .min32 => lanesF32 (fun x y _ => minF x y) a b c
  | .max32 => lanesF32 (fun x y _ => maxF x y) a b c
  | .abs32 => lanesF32 (fun x _ _ => absF x) a b c
  | .neg32 => lanesF32 (fun x _ _ => negF x) a b c
  | .cmpLt32 => lanesF32 (fun x y _ => cmp XV.lt x y) a b c
  | .cmpLe32 => lanesF32 (fun x y _ => cmp (fun u v => u.lt v || u.eq v) x y) a b c
  | .cmpEq32 => lanesF32 (fun x y _ => cmp XV.eq x y) a b c
  | .select32 => lanesF32 (fun x y z => pickF (selects 32 x.toNat) y z) a b c
  | .addB => bfLanes (fun x y _ => addF x y) a b c
  | .subB => bfLanes (fun x y _ => subF x y) a b c
  | .mulB => bfLanes (fun x y _ => mulF x y) a b c
  | .fmaB => bfLanes fmaF a b c
  | .minB => bfLanes (fun x y _ => minF x y) a b c
  | .maxB => bfLanes (fun x y _ => maxF x y) a b c
  | .absB => bfLanes (fun x _ _ => absF x) a b c
  | .negB => bfLanes (fun x _ _ => negF x) a b c
  | .cmpLtB => lanesBf (cmpB XV.lt) a b c
  | .cmpLeB => lanesBf (cmpB (fun u v => u.lt v || u.eq v)) a b c
  | .cmpEqB => lanesBf (cmpB XV.eq) a b c
  | .selectB => lanesBf (fun x y z => bfOp (pickF (selects 16 x) (bf16To32 y) (bf16To32 z))) a b c
  | .add64 => lanes64 (fun x y _ => flagged64 [f64 x, f64 y] false ((f64 x).add (f64 y))) a b c old
  | .sub64 => lanes64 (fun x y _ => flagged64 [f64 x, f64 y] false ((f64 x).add (f64 y).neg)) a b c old
  | .mul64 => lanes64 (fun x y _ => flagged64 [f64 x, f64 y] false ((f64 x).mul (f64 y))) a b c old
  | .fma64 => lanes64 (fun x y z => flagged64 [f64 x, f64 y, f64 z] false (((f64 x).mul (f64 y)).add (f64 z))) a b c old
  | .div64 => lanes64 (fun x y _ => flagged64 [f64 x, f64 y] (dzDiv (f64 x) (f64 y)) ((f64 x).div (f64 y))) a b c old
  | .sqrt64 => lanes64 (fun x _ _ => flagged64 [f64 x] false (f64 x).sqrt) a b c old
  | .cmpLt64 => lanes64 (cmp64 XV.lt) a b c old
  | .cmpLe64 => lanes64 (cmp64 (fun u v => u.lt v || u.eq v)) a b c old
  | .cmpEq64 => lanes64 (cmp64 XV.eq) a b c old
  | .iadd => lanesInt (fun x y _ => (x + y).toNat) a b c
  | .isub => lanesInt (fun x y _ => (x - y).toNat) a b c
  | .imul => lanesInt (fun x y _ => (x * y).toNat) a b c
  | .ishl => lanesInt (fun x y _ => if y.toNat < 32 then (x <<< y.toNat).toNat else (Config.vxShiftOver x y).toNat) a b c
  | .ishr => lanesInt (fun x y _ => if y.toNat < 32 then (x >>> y.toNat).toNat else (Config.vxShiftOver x y).toNat) a b c
  | .isar => lanesInt (fun x y _ => if y.toNat < 32 then (x.sshiftRight y.toNat).toNat else (Config.vxShiftOver x y).toNat) a b c
  | .iand => lanesInt (fun x y _ => (x &&& y).toNat) a b c
  | .ior => lanesInt (fun x y _ => (x ||| y).toNat) a b c
  | .ixor => lanesInt (fun x y _ => (x ^^^ y).toNat) a b c
  | .icmpLt => lanesInt (fun x y _ => cmpOut 32 (x.slt y)) a b c
  | .icmpEq => lanesInt (fun x y _ => cmpOut 32 (x == y)) a b c
  | .iselect => lanesInt (fun x y z => if selects 32 x.toNat then y.toNat else z.toNat) a b c
  | .div32 => lanesF32 (fun x y _ => divF x y) a b c
  | .sqrt32 => lanesF32 (fun x _ _ => sqrtF x) a b c
  | .recip32 => lanesF32 (fun x _ _ => recipF x) a b c
  | .rsqrt32 => lanesF32 (fun x _ _ => rsqrtF x) a b c
  | .exp => lanesF32 (fun x _ _ => expF x) a b c
  | .exp2 => lanesF32 (fun x _ _ => exp2F x) a b c
  | .log => lanesF32 (fun x _ _ => logF x) a b c
  | .log2 => lanesF32 (fun x _ _ => log2F x) a b c
  | .sigmaHat => lanesF32 (fun x _ _ => (sigmaHat x, {})) a b c
  | .siluD => lanesF32 (fun x _ _ => siluDF x) a b c
  | .geluD => lanesF32 (fun x _ _ => geluDF x) a b c
  | .reluD => lanesF32 (fun x _ _ => (reluD x, {})) a b c
  | .sqReluD => lanesF32 (fun x _ _ => sqReluDF x) a b c
  | .convert src dst => codesToLanes dst old ((convertCodes src dst v.rs v.rd a).map (fun e => (e.1, e.2.1)))
  | .smooth => smoothLanes a b
  | .butterfly h => butterflyLanes h a
  | .random layer tile stream block step => randomLanes v.key step layer tile stream block
  | .uniform => uniformLanes a
  | .dropout use => dropLanes (v.drops.getD use 0) a b
  | .permute table => table.map (fun i => (a.getD i.val 0, {})) ++ ((List.range 256).drop table.length).map (fun l => (old.getD l 0, {}))
  | .move => a.map (fun w => (w, {}))

/-- The format of the elements an instruction writes, where R107 gives one. -/
def vxOutFmt : VxOp → Option Fmt
  | .add32 | .sub32 | .mul32 | .fma32 | .min32 | .max32 | .abs32 | .neg32 | .select32 | .div32 | .sqrt32 | .recip32
  | .rsqrt32 | .exp | .exp2 | .log | .log2 | .sigmaHat | .siluD | .geluD | .reluD | .sqReluD | .smooth | .butterfly _
  | .uniform | .dropout _ => some .fp32
  | .addB | .subB | .mulB | .fmaB | .minB | .maxB | .absB | .negB | .selectB => some .bf16
  | .add64 | .sub64 | .mul64 | .fma64 | .div64 | .sqrt64 => some .fp64
  | .convert _ dst => some dst
  | _ => none

/-- The class of an instruction in the order of R107, from 0. -/
def vxClass : VxOp → Nat
  | .add64 | .sub64 | .mul64 | .fma64 | .div64 | .sqrt64 | .cmpLt64 | .cmpLe64 | .cmpEq64 => 1
  | .iadd | .isub | .imul | .ishl | .ishr | .isar | .iand | .ior | .ixor | .icmpLt | .icmpEq | .iselect => 2
  | .div32 | .sqrt32 | .recip32 | .rsqrt32 => 3
  | .exp | .exp2 | .log | .log2 | .sigmaHat | .siluD | .geluD | .reluD | .sqReluD => 4
  | .convert _ _ => 5
  | .butterfly _ => 6
  | .random .. | .uniform | .dropout _ => 7
  | .permute _ | .move => 8
  | _ => 0

/-- A core may execute a vector operation of a context now: active, out of reset, the context loaded and not paused, the
core not excluded from the output tensor nor kept from the load pattern, and no referee's output awaited for this very operation
(R101, R237, R258). -/
def State.mayVector (s : State) (k : CoreId) (c : CtxId) (n tensor pattern : Nat) (v : VecTile) : Bool :=
  let x := s.ctx c
  decide ((s.core k).status = .active) && !s.inReset (.core k) && x.loaded && !x.paused &&
    !(s.exclusions c n).contains (k, tensor) && decide ((s.core k).condShape ≠ some pattern) &&
    !(s.core k).arbs.any (fun a => decide (a.ctx = c) && decide (a.fix = .vec v))

/-- The load-pattern hash of an instruction (R261). -/
def vxPattern (op : VxOp) : Nat := vecPattern (vxClass op) (((vxOutFmt op).map Fmt.code).getD 0)

/-- A draw names a step that runs here, or, outside a step, the committed version (R50; log 142); the signs of a rotation the step field 0
(R76). -/
def State.drawOk (s : State) (c : CtxId) (op : VxOp) : Bool :=
  match op with
  | .random _ _ stream _ step =>
    if stream = 2 then step == 0
    else match (s.ctx c).stepNo step with
      | some t => decide (t.state ≠ .discarded)
      | none => (s.ctx c).steps.isEmpty && step == (s.ctx c).committed
  | _ => true

/-- The step an instruction belongs to: for a draw the one it names, else that of the blocks it reads (R50, R152). -/
def State.vxStep (s : State) (k : CoreId) (c : CtxId) (op : VxOp) (srcs : List VecRef) : Nat :=
  match op with
  | .random _ _ _ _ step => if ((s.ctx c).stepNo step).isSome then step else s.workNo c
  | _ => s.opStep k c (srcs.map (fun v => v.ref))

/-- Key of a VX result among a step's outputs: tile coordinates, then block and half. -/
def vecKey (d : VecRef) : Nat × Nat × Nat × Nat :=
  (d.ref.ident.tensor, d.ref.ident.inst, d.ref.ident.row, d.ref.ident.col * 2 ^ 17 + d.ref.ident.block * 2 + d.half.val)

/-- The format a tensor's entry takes for what an instruction writes (R112, R479): that of R107, else the one the tensor has in the
step or in its record, else that of the source, else 32-bit words (log 118). -/
def Step.vxFmt (t : Step) (op : VxOp) (src dst : BlockIdent) : Fmt :=
  let held (b : BlockIdent) : Option Fmt :=
    match (AL.find? b.tensor t.outFmt).bind Fmt.ofCode with
    | some f => some f
    | none => (recAt t.records b.tensor b.inst).bind recFmt
  match vxOutFmt op with
  | some f => f
  | none => match held dst with
    | some f => f
    | none => match op with
      | .move | .permute _ => (held src).getD .fp32
      | _ => .fp32

/-- The codes an instruction writes in a format, from its lanes' words. -/
def vecElems (op : VxOp) (f : Fmt) (ws : List Nat) : List Nat :=
  match op with
  | .convert src dst => (vecCodes f ws).take (convertCount src dst)
  | _ => if f = .fp64 then vecCodes f ws else packedCodes f (8192 / f.bits) ws

/-- The step takes what a VX instruction wrote: flags, codes, entries into FXR64, and the measured range of a first attempt (R78,
R84, R112); an instance recomputed under its sealed record is not measured again (R139). -/
def Step.takeVector (t : Step) (op : VxOp) (src dst : BlockIdent) (key : Nat × Nat × Nat × Nat) (v : VxEnv) (a : List Nat)
    (outs : List LaneOut) : Step :=
  let t := outs.foldl (fun (t : Step) (e : LaneOut) => t.orFlags dst.tensor dst.inst e.2) t
  let f := t.vxFmt op src dst
  let t := { t with
    outTiles := AL.set key [vecElems op f (outs.map (fun e => e.1))] t.outTiles, outFmt := AL.set dst.tensor f.code t.outFmt }
  match op with
  | .convert from_ dest =>
    let xs := convertIn from_ dest v.rs a
    if dest = .fxr64 then
      (xs.zip (convertCodes from_ dest v.rs v.rd a)).foldl (fun (t : Step) e =>
        t.noteFxr dst.tensor (if e.1.isFin then rneF32 e.1.abs else 0) e.2.2.2) t
    else if dest.isNarrow && v.rd.epoch == 0 && !v.rd.sealed then
      { t with measures := AL.upd {} (dst.tensor, dst.inst) (fun m => (xs.map rneF32).foldl (fun (m : Measure) x => m.add v.rd x) m) t.measures }
    else t
  | _ => t

/-- A fault xors bits into one lane. -/
def faultLane (f : Option LaneFault) (outs : List LaneOut) : List LaneOut :=
  match f with
  | some e => outs.zipIdx.map (fun o => if o.2 = e.lane then ((o.1.1 ^^^ e.bits) % 2 ^ 32, o.1.2) else o.1)
  | none => outs

/-- The words of a source vector. -/
def CoreSt.vecWords (k : CoreSt) (r : Option VecRef) : List Nat :=
  match r with
  | some v => halfWords (k.block v.ref.block) v.half
  | none => List.replicate 256 0

/-- A half of a block as VX writes it: once both halves are written under one tag the block is whole (R122, R123). -/
def State.vecBlock (s : State) (k : CoreId) (c : CtxId) (n : Nat) (d : VecRef) (ws : List Nat) : Fin 2048 × SpadBlock :=
  let old := (s.core k).block d.ref.block
  let new := s.partBlock k c n ⟨d.ref, 1024 * d.half.val⟩ (ws.flatMap (leBytes 4))
  let begun := !old.whole && decide (old.tag = new.tag) && decide (old.ident = new.ident)
  let halves := d.half :: (if begun then old.halves.erase d.half else [])
  (d.ref.block, { new with halves := halves, whole := halves.length == 2 })

/-- The random key an instruction uses: the step's; outside a step the one it brings (R49). -/
def State.rngNow (s : State) (c : CtxId) (n key : Nat) : Nat := (((s.ctx c).stepNo n).map (·.rngKey)).getD key

/-- What an instruction takes beside its vectors, in step `n` of a context. -/
def State.vxEnv (s : State) (c : CtxId) (n key : Nat) (src dst : BlockIdent) : VxEnv :=
  ⟨s.outRec c n src.tensor src.inst, s.outRec c n dst.tensor dst.inst, s.rngNow c n key, (((s.ctx c).prog.map (·.dropP)).getD [])⟩

/-- A VX instruction whose reads are good: its lanes are computed and written, the checker lanes compare theirs (R107,
R113, R114). -/
def State.vxRun (s : State) (k : CoreId) (op : VxOp) (srcs : List VecRef) (dst : VecRef) (c : CtxId) (n key : Nat)
    (fault : Option LaneFault) : State :=
  let x := s.core k
  let src := ((srcs[0]?).map (fun v => v.ref.ident)).getD dst.ref.ident
  let env := s.vxEnv c n key src dst.ref.ident
  let a := x.vecWords srcs[0]?
  let good := vxLanes op env a (x.vecWords srcs[1]?) (x.vecWords srcs[2]?) (x.vecWords (some dst))
  let seen := faultLane fault good
  let g := x.laneCtr % 16
  let words (os : List LaneOut) : List Nat := os.map (fun e => e.1)
  let right := s.vecBlock k c n dst (words good)
  let s := (s.countOp k).updCore k (fun y => { (y.putBlocks [s.vecBlock k c n dst (words seen)]) with
    laneCtr := (x.laneCtr + 1) % 16, stalled := none })
  let s := s.updStep c n (fun t => t.takeVector op src dst.ref.ident (vecKey dst) env a seen)
  let inGroup := (List.range 16).map (fun i => 16 * g + i)
  match inGroup.find? (fun l => decide (good[l]? ≠ seen[l]?)) with
  | some l =>
    let f := (((s.ctx c).stepNo n).map (fun t => t.vxFmt op src dst.ref.ident)).getD .fp32
    s.checkFailed k c n .vx .checkerLaneMismatch 0x06
      { blockPlace dst.ref.ident with
        pattern := vxPattern op, vxOp := some op, group := g }
      ((good.getD l (0, {})).1) ((seen.getD l (0, {})).1)
      { fix := .blocks [right] [(vecKey dst, [vecElems op f (words good)])] }
  | none => s

/-- VX_INSTRUCTION (R107–R114): the sources are read against their tags (R125), the lanes computed, the result and its tag
written, flags kept and the checker lanes compared. `key`: the random key outside a step; `parityBad`: the word of the first source's
block that fails its parity. -/
def execVxInstruction (core : CoreId) (op : VxOp) (srcs : List VecRef) (dst : VecRef) (ctx : CtxId)
    (key : Nat) (parityBad : Option (Fin 512)) (fault : Option LaneFault) (s : State) : Host.Outcome State Fault Refusal :=
  .next (
    let n := s.vxStep core ctx op srcs
    let v : VecTile := .vx op srcs dst key
    if !s.mayVector core ctx n dst.ref.ident.tensor (vxPattern op) v || !s.drawOk ctx op then s
    else
      let s := match srcs[0]?, parityBad with
        | some v, some w => s.updCore core (fun x => { x with
            blocks := AL.upd blankBlock v.ref.block (fun b => { b with dataOk := false, badWord := w.val }) x.blocks })
        | _, _ => s
      match s.readsBad core ctx n ⟨dst.ref.ident.tensor, .vec v⟩ true (srcs.map (fun v => v.ref)) with
      | some s' => s'
      | none => s.vxRun core op srcs dst ctx n key fault)

/-! ## The rake (R115–R117) -/

/-- A value of a whole number. -/
def wholeOf : XV → Int
  | .fin neg n d => signedNum neg (n / d)
  | _ => fxrMarker

/-- The elements of a rake's vector as exact values: FP32; FXR64 as its integers, whose order is theirs, a marker as NaN; an
integer format stands for the 32-bit integers of R115. -/
def rakeValues (fmt : Fmt) (ws : List Nat) (n : Nat) : List XV :=
  if fmt.isInt then (ws.take n).map (fun w => XV.ofInt (toSigned 32 w))
  else if fmt = .fxr64 then ((vecCodes .fxr64 ws).take n).map (fun c =>
    if toSigned 64 c = fxrMarker then XV.nan else XV.ofInt (toSigned 64 c))
  else (ws.take n).map (fun w => f32 (BitVec.ofNat 32 w))

/-- The elements of an exact sum as FXR64 codes with flags and overflow: as they are, or entered under a record (R45, R115). -/
def rakeEntries (fmt : Fmt) (r : ScaleRec) (ws : List Nat) (n : Nat) : List (Nat × Flags × Bool) :=
  if fmt = .fxr64 then ((vecCodes .fxr64 ws).take n).map (fun c => (c, {}, false))
  else (ws.take n).map (fun w => fxrCode r (f32 (BitVec.ofNat 32 w)))

/-- Max or min of a running value and a vector; a NaN wins (R115). -/
def rakeExtreme (less : XV → XV → Bool) (acc : Option XV) (xs : List XV) : Option XV :=
  let all := acc.toList ++ xs
  if all.any XV.isNan then some .nan
  else match all with
    | [] => none
    | x :: rest => some (rest.foldl (fun m y => if less m y then y else m) x)

/-- The better of two candidates of an argmax, in any order: a NaN before all, then the larger value, then the smaller index
(R115). −0 and +0 are not equal here but in the order −0 below +0 that R115 gives max and min; it does not say so of argmax
(DESIGN CHOICE, log 116). -/
def argBetter (a b : XV × Nat) : XV × Nat :=
  match a.1.isNan, b.1.isNan with
  | true, true => if b.2 < a.2 then b else a
  | true, false => a
  | false, true => b
  | false, false =>
    if a.1.ltTotal b.1 then b else if b.1.ltTotal a.1 then a else if b.2 < a.2 then b else a

/-- Argmax of the candidates so far and a vector's (R115; the order of the zeros: log 116). -/
def rakeArgmax (acc : Option (XV × Nat)) (index : Nat) (xs : List XV) : Option (XV × Nat) :=
  match acc.toList ++ xs.zipIdx.map (fun e => (e.1, index + e.2)) with
  | [] => none
  | x :: rest => some (rest.foldl argBetter x)

/-- Range over a threshold: non-finite values take no part (R72, R78, R115). -/
def rakeRangeAdd (threshold : BitVec 32) (m : Measure) (x : BitVec 32) : Measure :=
  match f32 x with
  | .fin .. =>
    let far := if (f32 threshold).lt (f32 x).abs then 1 else 0
    if m.finite = 0 then { lo := x, hi := x, finite := 1, far := far }
    else
      { lo := if (f32 x).ltTotal (f32 m.lo) then x else m.lo, hi := if (f32 m.hi).ltTotal (f32 x) then x else m.hi
        finite := m.finite + 1, far := m.far + far }
  | _ => m

/-- The chunk sums of a vector of a Sum or Sum of squares (R42, R115, R116): those it holds, for chunk sums that are completed. -/
def rakeChunks (op : RakeOp) (ws : List (BitVec 32)) : List (BitVec 32) :=
  match op with
  | .sumSq => let ys := ws.map (fun w => fmul w w); chunkSums (ys.length + 1) ys
  | .chunks => ws
  | _ => chunkSums (ws.length + 1) ws

/-- Chunk sums onto the running accumulator, in chunk order (R42, R116). -/
def RakeAcc.addChunks (k : RakeAcc) (cs : List (BitVec 32)) : RakeAcc :=
  match k.val, cs with
  | some a, _ => { k with val := some (f32 (Sys2Proof.addChunks (rneF32 a.1) cs), 0) }
  | none, y :: rest => { k with val := some (f32 (Sys2Proof.addChunks y rest), 0) }
  | none, [] => k

/-- Entries onto the exact sum or sum of squares: a marker stays apart from the finite sum (R47, R48, R115). `off`: an error of the
accumulator; the sum of the inputs, of which the check takes the residue, is formed apart (R117). -/
def RakeAcc.addExact (k : RakeAcc) (square : Bool) (codes : List Nat) (off : Int) : RakeAcc :=
  let ns := codes.map (toSigned 64)
  let add (n : Int) : Int := if n = fxrMarker then 0 else if square then n * n else n
  let sum := (ns.map add).foldl (· + ·) 0
  { k with exact := k.exact + sum + off, right := k.right + sum, marker := k.marker || ns.contains fxrMarker }

/-- The flags of the FP32 operations of a vector's sum onto the running accumulator (R42, R111, R112). -/
def rakeFlags (op : RakeOp) (acc : Option (BitVec 32)) (ws : List (BitVec 32)) : Flags :=
  match op with
  | .sum => sumFlags acc ws
  | .sumSq =>
    let ys := ws.map (fun w => mulF w w)
    (Flags.all (ys.map (fun y => y.2))).or (sumFlags acc (ys.map (fun y => y.1)))
  | .chunks => match acc, ws with
    | some a, _ => seqFlags a ws
    | none, c :: rest => seqFlags c rest
    | none, [] => {}
  | _ => {}

/-- Error bits in a value of an input format. -/
def flipValue (fmt : Fmt) (bits : Nat) (x : XV) : XV :=
  if fmt.isInt then XV.ofInt (toSigned 32 (ofSigned 32 (wholeOf x) ^^^ bits))
  else if fmt = .fxr64 then XV.ofInt (toSigned 64 (ofSigned 64 (wholeOf x) ^^^ bits))
  else f32 (rneF32 x ^^^ BitVec.ofNat 32 bits)

/-- The rake's accumulators after one vector, with the error of a fault. -/
def RakeAcc.step (k : RakeAcc) (op : RakeOp) (fmt : Fmt) (r : ScaleRec) (ws : List Nat) (lanes index : Nat) (fault : RakeFault) :
    RakeAcc :=
  let ws32 := (ws.take lanes).map (fun w => BitVec.ofNat 32 w)
  let xs := rakeValues fmt ws lanes
  let cs := match fault with
    | .chunk i bits => (rakeChunks op ws32).zipIdx.map (fun (e : BitVec 32 × Nat) => if e.2 = i then e.1 ^^^ BitVec.ofNat 32 bits else e.1)
    | _ => rakeChunks op ws32
  let off : Int := match fault with
    | .exact d => d
    | _ => 0
  let tree (x : XV) : XV := match fault with
    | .tree bits => flipValue fmt bits x
    | _ => x
  let codes := (rakeEntries fmt r ws lanes).map (fun e => e.1)
  let k := { k with flags := k.flags.or (rakeFlags op (k.val.map (fun (a : XV × Nat) => rneF32 a.1)) ws32) }
  match op with
  | .sum | .sumSq | .chunks => k.addChunks cs
  | .exactSum => k.addExact false codes off
  | .exactSumSq => k.addExact true codes off
  | .max => { k with val := (rakeExtreme XV.ltTotal (k.val.map (fun (a : XV × Nat) => a.1)) xs).map (fun x => (tree x, 0)) }
  | .min => { k with val := (rakeExtreme (fun x y => y.ltTotal x) (k.val.map (fun (a : XV × Nat) => a.1)) xs).map (fun x => (tree x, 0)) }
  | .argmax => { k with val := (rakeArgmax k.val index xs).map (fun (a : XV × Nat) => (tree a.1, a.2)) }
  | .range t =>
    let m := ws32.foldl (rakeRangeAdd t) k.range
    { k with range := match fault with
      | .tree bits => { m with lo := m.lo ^^^ BitVec.ofNat 32 bits }
      | _ => m }

/-- The result of a reduction: a value, an exact sum, an index or count; a range's high value stands in the exact sum. A sum of no
elements is +0 (R43, R115); max, min and argmax of no elements have no result in R115, nor has a range of no finite value (R78), and the
model gives 0 with index 0, and 0 for both ends of the range (DESIGN CHOICE, log 116). -/
def rakeResult (k : RakeAcc) (op : RakeOp) : XV × Int × Nat :=
  match op with
  | .exactSum | .exactSumSq => (XV.ofInt 0, if k.marker then fxrMarker else k.exact, 0)
  | .range _ => (f32 k.range.lo, k.range.hi.toNat, k.range.far)
  | _ => let a := k.val.getD (XV.ofInt 0, 0); (a.1, 0, a.2)

/-- The bytes of a result in its slot, in the width of R115: 4 for FP32 sums, 16 and 24 for exact sums and sums of squares, the
input format's for max and min, 8 for argmax, 12 for range. -/
def rakeBytes (op : RakeOp) (fmt : Fmt) (o : XV × Int × Nat) : List Byte :=
  match op with
  | .sum | .sumSq | .chunks => leBytes 4 (rneF32 o.1).toNat
  | .exactSum => leBytes 16 (ofSigned 128 o.2.1)
  | .exactSumSq => leBytes 24 (ofSigned 192 o.2.1)
  | .max | .min =>
    if fmt.isInt then leBytes 4 (ofSigned 32 (wholeOf o.1))
    else if fmt = .fxr64 then leBytes 8 (ofSigned 64 (wholeOf o.1))
    else leBytes 4 (rneF32 o.1).toNat
  | .argmax => leBytes 4 (rneF32 o.1).toNat ++ leBytes 4 o.2.2
  | .range _ => leBytes 4 (rneF32 o.1).toNat ++ leBytes 4 o.2.1.toNat ++ leBytes 4 o.2.2

/-- The exact value of a result that enters FXR64: an exact sum in units of 2^E, a sum of squares in units of 2^2E (R48, R115). -/
def rakeExactValue (op : RakeOp) (e : Int) (o : XV × Int × Nat) : XV :=
  match op with
  | .exactSum => if o.2.1 = fxrMarker then XV.nan else XV.ofScaled o.2.1 e
  | .exactSumSq => if o.2.1 = fxrMarker then XV.nan else XV.ofScaled o.2.1 (2 * e)
  | _ => o.1

/-- A result with an exact sum apart from the marker: a finite sum equal to −2^63 is no marker (R47, R115). -/
def rakeEntered (k : RakeAcc) (op : RakeOp) (e : Int) (o : XV × Int × Nat) : XV :=
  match op with
  | .exactSum => if k.marker then XV.nan else XV.ofScaled k.exact e
  | .exactSumSq => if k.marker then XV.nan else XV.ofScaled k.exact (2 * e)
  | _ => rakeExactValue op e o

/-- The residue check of a completed exact sum: modulo 65,535 it is the sum of its inputs, of a slice without a marker (R117). -/
def rakeResidueBad (op : RakeOp) (k : RakeAcc) : Bool :=
  match op with
  | .exactSum | .exactSumSq => !k.marker && decide ((k.exact - k.right) % 65535 ≠ 0)
  | _ => false

/-- The rake's own check of one vector sees a fault (R117): the second chunk tree recomputes chunk g mod 4; the duplicate trees are
compared. -/
def rakeChecked (op : RakeOp) (fault : RakeFault) (g chunks : Nat) (good seen : RakeAcc) : Bool :=
  match op, fault with
  | .sum, .chunk i bits | .sumSq, .chunk i bits => decide (i = g % 4) && decide (i < chunks) && decide (bits % 2 ^ 32 ≠ 0)
  | .max, .tree _ | .min, .tree _ | .argmax, .tree _ | .range _, .tree _ => decide (good ≠ seen)
  | _, _ => false

/-- The name of a rake operation's result in a signature: its exact sum, or its FP32 bits. -/
def rakeBits (o : XV × Int × Nat) : Nat := if o.2.1 ≠ 0 then ofSigned 64 o.2.1 else (rneF32 o.1).toNat

/-- A slot written in a block: a block whole under the same tag stays so; another is whole once its last word is written (R115, R122,
R123). -/
def State.slotBlock (s : State) (p : CoreId) (c : CtxId) (n : Nat) (d : SlotRef) (bytes : List Byte) : SpadBlock :=
  let old := (s.core p).block d.ref.block
  let new := s.partBlock p c n d bytes
  { new with whole := new.whole || (old.whole && decide (old.tag = new.tag) && decide (old.ident = new.ident)) }

/-- The slot a reduction's result goes to. -/
def rakeSlotOf : RakeDest → Option SlotRef
  | .slot d | .entered d _ _ => some d
  | .more | .deposit _ => none

/-- The bytes a completed reduction puts into its slot (R48, R115). -/
def State.rakeSlot (s : State) (c : CtxId) (n : Nat) (op : RakeOp) (fmt : Fmt) (e : Int) (dest : RakeDest) (k : RakeAcc) : List Byte :=
  match dest with
  | .entered _ tensor inst => leBytes 8 (fxrCode (s.outRec c n tensor inst) (rakeEntered k op e (rakeResult k op))).1
  | _ => rakeBytes op fmt (rakeResult k op)

/-- The blocks a completed reduction writes (R115). -/
def State.rakeBlocks (s : State) (p : CoreId) (c : CtxId) (n : Nat) (op : RakeOp) (fmt : Fmt) (e : Int) (dest : RakeDest) (k : RakeAcc) :
    List (Fin 2048 × SpadBlock) :=
  match rakeSlotOf dest with
  | some d => [(d.ref.block, s.slotBlock p c n d (s.rakeSlot c n op fmt e dest k))]
  | none => []

/-- What the step takes of the entries of a rake operation into FXR64: flags, magnitudes, overflows (R45, R84, R111). -/
def Step.takeRake (t : Step) (tensor inst : Nat) (es : List (XV × Nat × Flags × Bool)) : Step :=
  es.foldl (fun (t : Step) e =>
    (t.orFlags tensor inst e.2.2.1).noteFxr tensor (if e.1.isFin then rneF32 e.1.abs else 0) e.2.2.2) t

/-- The entries of a vector of an exact sum with their exact values. -/
def rakeNoted (op : RakeOp) (fmt : Fmt) (r : ScaleRec) (ws : List Nat) (n : Nat) : List (XV × Nat × Flags × Bool) :=
  match op with
  | .exactSum | .exactSumSq =>
    if fmt = .fxr64 then [] else ((ws.take n).map (fun w => f32 (BitVec.ofNat 32 w))).zip (rakeEntries fmt r ws n)
  | _ => []

/-- The chunk sums of a vector of a split sum go to the shared cache, in chunk order (R116). -/
def State.depositVector (s : State) (c : CtxId) (n tensor inst dva : Nat) (cs : List (BitVec 32)) : State :=
  s.storeAt c n tensor inst dva (cs.flatMap (fun w => leBytes 4 w.toNat))

/-- The tensor a rake operation writes: that of its slot, or the one it enters; before the last vector, the one named for its
entries. -/
def rakeTensor (entry : TensorRef) : RakeDest → Nat
  | .slot d => d.ref.ident.tensor
  | .entered _ t _ => t
  | .more | .deposit _ => entry.tensor

/-- The FORMAT code and the elements a result is listed with in its tensor's entry: an FXR64 number entered, else 32-bit words
(R112, R479; log 118). -/
def rakeCodes (bytes : List Byte) : RakeDest → Nat × List Nat
  | .entered .. => (8, [leNat bytes])
  | _ => (0xA, (List.range (bytes.length / 4)).map (fun i => leNat ((bytes.drop (4 * i)).take 4)))

/-- The step takes a rake result: its codes and the flags of its sums (R112). -/
def Step.takeResult (t : Step) (d : SlotRef) (fmtCode : Nat) (codes : List Nat) (fl : Flags) : Step :=
  let b := d.ref.ident
  { t.orFlags b.tensor b.inst fl with
    outTiles := AL.set (b.tensor, b.inst, b.row, b.col * 2 ^ 28 + b.block * 2 ^ 12 + d.off) [codes] t.outTiles
    outFmt := AL.set b.tensor fmtCode t.outFmt }

/-- A rake operation whose reads are good. -/
def State.rakeRun (s : State) (core : CoreId) (op : RakeOp) (fmt : Fmt) (src : VecRef) (lanes index : Nat) (c : CtxId) (n tensor inst : Nat)
    (dest : RakeDest) (fault : RakeFault) : State :=
  let x := s.core core
  let ws := halfWords (x.block src.ref.block) src.half
  let lanes := min lanes 256
  let r := if fmt = .fxr64 then s.outRec c n src.ref.ident.tensor src.ref.ident.inst else s.outRec c n tensor inst
  let start : RakeAcc := if x.rakeOf = some (c, n) then x.rake else {}
  let good := start.step op fmt r ws lanes index .none
  let seen := start.step op fmt r ws lanes index fault
  let ws32 := (ws.take lanes).map (fun w => BitVec.ofNat 32 w)
  let bad := rakeChecked op fault x.laneCtr (rakeChunks op ws32).length good seen
  let s := (s.countOp core).updCore core (fun y => { y with stalled := none })
  let s := s.updStep c n (fun t => t.takeRake tensor inst (rakeNoted op fmt r ws lanes))
  let place : Place := { blockPlace src.ref.ident with pattern := vecPattern 9 fmt.code, op := some (rakeTensor ⟨tensor, inst⟩ dest) }
  let report (s : State) (bad : Bool) (right : RakeAcc) (fix : Fix) (equal : Bool) : State :=
    if bad then
      s.checkFailed core c n .rake .rakeCheck 0x07 place (rakeBits (rakeResult right op)) (rakeBits (rakeResult seen op))
        { fix := fix, equal := equal }
    else s
  match dest with
  | .more => report (s.updCore core (fun y => { y with rake := seen, rakeOf := some (c, n) })) bad good (.rake good none []) false
  | .deposit dva =>
    let cs := match fault with
      | .chunk i bits => (rakeChunks op ws32).zipIdx.map (fun (e : BitVec 32 × Nat) => if e.2 = i then e.1 ^^^ BitVec.ofNat 32 bits else e.1)
      | _ => rakeChunks op ws32
    let fix : Fix := match s.reach c dva .reduction with
      | some a => .cache a ((rakeChunks op ws32).flatMap (fun w => leBytes 4 w.toNat))
      | none => .none
    let s := s.updStep c n (fun t => t.orFlags tensor inst good.flags)
    report (s.depositVector c n tensor inst dva cs) bad good fix false
  | .slot _ | .entered .. =>
    let residue := rakeResidueBad op seen
    let right := if residue then { seen with exact := seen.right } else good
    let kept := if bad || residue then right else seen
    let noted := match dest with
      | .entered _ t i =>
        let v := rakeEntered kept op r.fxrExp (rakeResult kept op)
        s.updStep c n (fun u => u.takeRake t i [(v, fxrCode (s.outRec c n t i) v)])
      | _ => s
    let noted := match rakeSlotOf dest with
      | some d =>
        let e := rakeCodes (s.rakeSlot c n op fmt r.fxrExp dest kept) dest
        noted.updStep c n (fun t => t.takeResult d e.1 e.2 kept.flags)
      | none => noted
    let s := noted.updCore core (fun y => { (y.putBlocks (s.rakeBlocks core c n op fmt r.fxrExp dest seen)) with
      rake := {}, rakeOf := none, rakeOut := some (rakeResult seen op) })
    report s (bad || residue) right (.rake {} (some (rakeResult right op)) (s.rakeBlocks core c n op fmt r.fxrExp dest right)) false

/-- The core's rake has an arbitration outstanding: its accumulator may still be replaced (R117, R237). -/
def CoreSt.rakeInDoubt (k : CoreSt) : Bool := k.arbs.any (fun a => decide (a.unit = .rake))

/-- RAKE_REDUCTION (R48, R115–R117): one vector into the accumulator; the last one gives the result, into its slot. `entry`: the tensor at whose exponent FP32 elements enter an exact sum. -/
def execRakeReduction (core : CoreId) (op : RakeOp) (fmt : Fmt) (src : VecRef) (lanes index : Nat) (ctx : CtxId)
    (entry : TensorRef) (dest : RakeDest) (fault : RakeFault) (s : State) : Host.Outcome State Fault Refusal :=
  .next (
    let n := s.opStep core ctx [src.ref]
    let v : VecTile := .rake op fmt src lanes index entry dest
    if !s.mayVector core ctx n (rakeTensor entry dest) (vecPattern 9 fmt.code) v || (s.core core).rakeInDoubt then s
    else
      match s.readsBad core ctx n ⟨rakeTensor entry dest, .vec v⟩ true [src.ref] with
      | some s' => s'
      | none => s.rakeRun core op fmt src lanes index ctx n entry.tensor entry.inst dest fault)

/-! ## The scan unit (R118–R120) -/

/-- Running sums of a sequence with their heads, from a carry: inclusive or exclusive (R119). -/
def scanSums (inclusive : Bool) : Int → List (Int × Bool) → List Int
  | _, [] => []
  | acc, (x, head) :: rest =>
    let start := if head then 0 else acc
    (if inclusive then start + x else start) :: scanSums inclusive (start + x) rest

/-- What is carried out of a part: the sum since its last head (R120). -/
def scanCarry : Int → List (Int × Bool) → Int
  | acc, [] => acc
  | acc, (x, head) :: rest => scanCarry ((if head then 0 else acc) + x) rest

/-- Counts of the keys below n (R119). -/
def scanHist (n : Nat) (keys : List Int) : List Int :=
  (List.range n).map (fun (k : Nat) => Int.ofNat (keys.filter (fun (e : Int) => e == (k : Int))).length)

/-- Ranks by key from starting ranks: earlier elements with the same key; a key of n or more ranks 0xFFFF_FFFF (R119, R120). -/
def scanRanks (n : Nat) (start keys : List Int) : List Int :=
  keys.zipIdx.map (fun (e : Int × Nat) =>
    if 0 ≤ e.1 ∧ e.1 < (n : Int) then start.getD e.1.toNat 0 + Int.ofNat ((keys.take e.2).filter (fun k => k == e.1)).length
    else 0xFFFFFFFF)

/-- The input of a scan operation: 32-bit signed elements, or flag bits for a compaction (R119). -/
def CoreSt.scanInput (k : CoreSt) (op : ScanOp) (src : List BlockRef) (count : Nat) : List Int :=
  match op with
  | .compact => (k.spadElems src 1 count).map Int.ofNat
  | _ => (k.spadElems src 32 count).map (toSigned 32)

/-- The heads of a part whose first element is `first`: element 0 of the sequence is one whatever its bit (R119). -/
def CoreSt.scanHeads (k : CoreSt) (op : ScanOp) (count first : Nat) : List Bool :=
  match op with
  | .segmented _ heads => (k.spadElems heads 1 count).zipIdx.map (fun e => e.1 == 1 || first + e.2 == 0)
  | _ => (List.range count).map (fun i => first + i == 0)

/-- What the earlier parts of a split sequence leave a part to start from (R120): the sum of their totals of 64 bits, or, for a
segmented scan, the last of them (DEDUCED, log 119); the sum of their histograms. -/
def CoreSt.scanStart (k : CoreSt) (op : ScanOp) (earlier : List BlockRef) (parts : Nat) : List Int :=
  let totals := (k.spadElems earlier 64 parts).map (toSigned 64)
  match op with
  | .prefixSum _ => [totals.foldl (· + ·) 0]
  | .segmented _ _ => [totals.getLast?.getD 0]
  | .rank n =>
    let cs := k.spadElems earlier 32 (n * parts)
    (List.range n).map (fun i => ((List.range parts).map (fun p => (cs.getD (p * n + i) 0 : Int))).foldl (· + ·) 0)
  | _ => []

/-- The output of a scan operation on a part. -/
def scanResult (op : ScanOp) (first : Nat) (start keys : List Int) (heads : List Bool) : List Int :=
  match op with
  | .prefixSum inclusive => scanSums inclusive (start.headD 0) (keys.map (fun k => (k, false)))
  | .segmented inclusive _ => scanSums inclusive (start.headD 0) (keys.zip heads)
  | .histogram n => scanHist n keys
  | .rank n => scanRanks n start keys
  | .compact => (keys.zipIdx.filter (fun (e : Int × Nat) => e.1 != 0)).map (fun (e : Int × Nat) => Int.ofNat (first + e.2))

/-- The total a part of a prefix sum passes on: its own sum; that of a segmented scan, the sum carried out of it (R120). -/
def scanTotal (op : ScanOp) (start keys : List Int) (heads : List Bool) : Int :=
  match op with
  | .prefixSum _ => keys.foldl (· + ·) 0
  | .segmented _ _ => scanCarry (start.headD 0) (keys.zip heads)
  | _ => 0

/-- The width of a scan operation's output elements (R119). -/
def scanBits : ScanOp → Nat
  | .prefixSum _ | .segmented _ _ => 64
  | _ => 32

/-- The blocks a scan operation reads. -/
def scanReads (op : ScanOp) (src earlier : List BlockRef) : List BlockRef :=
  match op with
  | .segmented _ heads => src ++ heads ++ earlier
  | _ => src ++ earlier

/-- Some key of a histogram or rank is K or more (R120). -/
def scanClamps (op : ScanOp) (keys : List Int) : Bool :=
  match op with
  | .histogram n | .rank n => keys.any (fun k => !(decide (0 ≤ k) && decide (k < (n : Int))))
  | _ => false

/-- A step takes a scan operation's output: as 32-bit words in its tensor's entry (log 118), with its flag (R112, R120). -/
def Step.takeScan (t : Step) (tensor first bits : Nat) (clamps : Bool) (codes : List Nat) : Step :=
  let t := if clamps then t.orFlags tensor 0 { cl := true } else t
  { t with
    outTiles := AL.set (tensor, 0, first, 0) [if bits = 64 then codes.flatMap (fun v => [v % 2 ^ 32, v / 2 ^ 32]) else codes] t.outTiles
    outFmt := AL.set tensor Fmt.fp32.code t.outFmt }

/-- The totals of the cross-check of a scan operation (R226): what its input gives, and what its output shows. A prefix's last sum against
an exact sum; a histogram's counts against the count of keys below K; a compaction's length against the flags set; the largest rank of
each key against its histogram count less 1, added over the keys that occur. -/
def scanTotals (op : ScanOp) (start keys : List Int) (heads : List Bool) (out : List Int) : Int × Int :=
  let total (xs : List Int) : Int := xs.foldl (· + ·) 0
  let ends (inclusive : Bool) : Int := (out.getLast?.getD 0) + (if inclusive then 0 else keys.getLast?.getD 0)
  match op with
  | .prefixSum inclusive => (start.headD 0 + total keys, ends inclusive)
  | .segmented inclusive _ =>
    (scanCarry (start.headD 0) (keys.zip heads), if inclusive then ends true else if heads.getLast?.getD false then keys.getLast?.getD 0 else ends false)
  | .histogram n => (Int.ofNat (keys.filter (fun k => decide (0 ≤ k) && decide (k < (n : Int)))).length, total out)
  | .compact => (Int.ofNat (keys.filter (fun k => k != 0)).length, Int.ofNat out.length)
  | .rank n =>
    let of_ (k : Nat) : Int × Int :=
      let mine := (keys.zip out).filter (fun e => e.1 == (k : Int))
      if mine.isEmpty then (0, 0)
      else (start.getD k 0 + Int.ofNat mine.length - 1, (mine.map (fun e => e.2)).foldl max (mine.headD (0, 0)).2)
    (total ((List.range n).map (fun k => (of_ k).1)), total ((List.range n).map (fun k => (of_ k).2)))

/-- The cross-check of a scan operation fails; of ranks, key by key (R226). -/
def scanBad (op : ScanOp) (start keys : List Int) (heads : List Bool) (out : List Int) : Bool :=
  match op with
  | .rank n => (List.range n).any (fun k =>
      let mine := (keys.zip out).filter (fun e => e.1 == (k : Int))
      !mine.isEmpty && decide ((mine.map (fun e => e.2)).foldl max (mine.headD (0, 0)).2 ≠ start.getD k 0 + Int.ofNat mine.length - 1))
  | _ => decide ((scanTotals op start keys heads out).1 ≠ (scanTotals op start keys heads out).2)

/-- An error in one element of a scan operation's output; past its end, an element too many. -/
def faultScan (f : Option (Nat × Int)) (out : List Int) : List Int :=
  match f with
  | some (i, d) => if i < out.length then out.zipIdx.map (fun e => if e.2 = i then e.1 + d else e.1) else out ++ [d]
  | none => out

/-- A scan operation whose reads are good: its output is written and its totals are cross-checked (R119, R226). -/
def State.scanRun (s : State) (core : CoreId) (op : ScanOp) (part : ScanPart) (dst : List BlockRef) (c : CtxId) (n tensor : Nat)
    (fault : Option (Nat × Int)) : State :=
  let k := s.core core
  let keys := k.scanInput op part.src part.count
  let heads := k.scanHeads op part.count part.first
  let start := k.scanStart op part.earlier part.parts
  let right := scanResult op part.first start keys heads
  let seen := faultScan fault right
  let bits := scanBits op
  let s := s.countOp core
  let codes (xs : List Int) : List Nat := xs.map (ofSigned bits)
  let blocks (xs : List Int) : List (Fin 2048 × SpadBlock) := s.runBlocks c n dst (packCodes bits (codes xs))
  let s' := s.updCore core (fun x => { (x.putBlocks (blocks seen)) with
    scanOut := seen, scanSum := scanTotal op start keys heads, stalled := none })
  let s' := s'.updStep c n (fun t => t.takeScan tensor part.first bits (scanClamps op keys) (codes seen))
  if scanBad op start keys heads seen then
    s'.checkFailed core c n .scan .scanCheck 0x08 { tensor := tensor, pattern := vecPattern 10 0 }
      (ofSigned 64 (scanTotals op start keys heads seen).1) (ofSigned 64 (scanTotals op start keys heads seen).2)
      { fix := .scan right (blocks right), scan := true }
  else s'

/-- SCAN_OPERATION (R118–R120, R226): on an active scan-capable core, on a part of a sequence; an empty part is an ordered no-op.
Totals that differ are reported as SCAN_CHECK. -/
def execScanOperation (core : CoreId) (op : ScanOp) (part : ScanPart)
    (dst : List BlockRef) (ctx : CtxId) (tensor : Nat) (fault : Option (Nat × Int)) (s : State) : Host.Outcome State Fault Refusal :=
  .next (
    let n := s.opStep core ctx (scanReads op part.src part.earlier)
    let v : VecTile := .scan op part dst tensor
    if !s.mayVector core ctx n tensor (vecPattern 10 0) v || !Config.scanCapable core.num.val || part.count == 0 then s
    else
      match s.readsBad core ctx n ⟨tensor, .vec v⟩ true (scanReads op part.src part.earlier) with
      | some s' => s'
      | none => s.scanRun core op part dst ctx n tensor fault)

/-! ## Fills by the core DMA (R123, R185, R187) -/

/-- CORE_DMA_FILL (R123, R124, R180, R185–R188): a block is filled from device memory and its tag written from the descriptor's
identity fields; a word that fails parity is repaired first, and where the repair goes to another module the block's readers wait for
the fill that follows (R122, R180). -/
def execCoreDmaFill (core : CoreId) (ctx : CtxId) (dva : Nat) (dst : FillRef) (parity : Option WordFault)
    (hardFault : Option Nat) (s : State) : Host.Outcome State Fault Refusal :=
  .next (
    let x := s.ctx ctx
    let n := if (x.stepNo dst.version.step).isSome then dst.version.step else s.workNo ctx
    if (s.core core).status ≠ .active || s.inReset (.core core) || !x.loaded || x.paused then s
    else
      match s.reach ctx dva .read with
      | none => s.devFault ctx n dva .read
      | some a =>
        let p := s.chanOf (a + 4 * ((parity.map (·.word)).getD 0))
        let read := s.hbmGet a 2048
        let bad (f : WordFault) : Bool := wordFails f (faultWord read f)
        let s' := match parity with
          | some f => if bad f then (s.report p f).parityRepair p f.loc false else s.report p f
          | none => s
        let data := match parity with
          | some f => if bad f then s'.hbmGet a 2048 else flipWord read f
          | none => read
        let s' := s'.charge a 2048
        let s' := match hardFault with
          | some g => s'.hardFault p g
          | none => s'
        let b : SpadBlock := {
          tag := tileTag dst.ref.ident dst.version, tagOk := true, dataOk := true, badWord := 0
          whole := decide (s'.mem.repairs.length ≤ s.mem.repairs.length), ident := dst.ref.ident, version := dst.version
          writer := some (ctx, s.stepNow ctx n), bytes := data, halves := [0, 1], source := some dst.source }
        s'.updCore core (fun k => k.putBlocks [(dst.ref.block, b)]))

/-- The stall of a core that a timeout names. -/
def CoreSt.stallNamed (k : CoreSt) (c : CtxId) (tensor inst : Nat) (tile : Version) : Option Stall :=
  [k.mx.stalled, k.stalled].findSome? (fun w =>
    w.filter (fun w => decide (w.ctx = c) && w.tensor == tensor && w.inst == inst && decide (w.version = tile)))

/-- A core without a stall. -/
def CoreSt.unstall (k : CoreSt) (w : Stall) : CoreSt :=
  { k with stalled := k.stalled.filter (fun v => v != w), mx := { k.mx with stalled := k.mx.stalled.filter (fun v => v != w) } }

/-- The 10 µs limit of a stall counts: the context is not paused, and the record is sealed with a version that is not the tile's, so
never during its producer's replay (R67, R382; coinciding events of chapter 3). -/
def State.stallCounts (s : State) (w : Stall) : Bool :=
  let b : BlockIdent := ⟨w.tensor, w.inst, w.ctx.val, 0, 0, 0⟩
  !(s.ctx w.ctx).paused && !s.unsealed w.ctx w.step b && decide (s.versionOf w.ctx w.step b ≠ w.version)

/-- SCALE_VERSION_TIMEOUT (R67, R241): a tile stalled on this record for 10 µs; the consuming core gets a strike, and the step fails its
parity class. -/
def execScaleVersionTimeout (core : CoreId) (c : CtxId) (tensor inst : Nat) (tile : Version) (s : State) :
    Host.Outcome State Fault Refusal :=
  .next (
    match (s.core core).stallNamed c tensor inst tile with
    | none => s
    | some w =>
      if !s.stallCounts w then s
      else
        let r := (s.recNow c w.step tensor inst).getD {}
        let t := (s.ctx c).stepNo w.step
        let s := s.updCore core (fun x => x.unstall w)
        let s := s.updStep c w.step (fun t => { t with nTimeout := t.nTimeout + 1 })
        let s := s.addStrike core false
        let s := s.emit (some c) w.step .scaleVersionTimeout core.die.val { coreSig 0x0B 3 core .recoverable with
          ctx := c.val, step := w.step, attempt := (t.map (·.attempt)).getD 0, tensor := tensor, inst := inst
          seed := (t.map (·.rngKey)).getD 0, strikes := min 3 (s.core core).live.length
          expected := tile.step + 2 ^ 48 * tile.epoch, observed := r.step + 2 ^ 48 * r.epoch }
        (s.failClass c w.step 2 .scaleVersionTimeout).settleStrikes (some c) w.step)

end Sys2Proof.Machine
end

