-- ==== Sys2Proof/Machine/Guest.lean ====
section
/-! DEFINITION. The hedge before the guest-die site and the guest timeout (R3, R277, R415, R416). -/

namespace Sys2Proof.Machine

/-- Guest addresses of one window (R415): window n begins at n × 2^41. -/
def hedgeSpan : Nat := 2199023255552

/-- The window a guest request lies in with its kind of access permitted, as the window's context and DVA (R415, R416). -/
def State.hedgeWindow (s : State) (addr len : Nat) (write : Bool) : Option (CtxId × Nat) :=
  let n := addr / hedgeSpan
  let w := s.reg (aHedgeWin n)
  let off := addr % hedgeSpan
  if bitOf (s.reg aHedgeCfg) 0 ∧ n < 8 ∧ bitOf w 0 ∧ bitOf w (if write then 2 else 1) ∧
      off + len ≤ bitsOf w 16 7 * 2097152 then
    some (Fin.ofNat 16 (bitsOf w 6 3), bitsOf (s.reg (aHedgeBase n)) 19 0 * 2097152 + off)
  else none

/-- The DPA of each byte of a range of device addresses, where every page of it is translated with the permission (R185). -/
def Ctx.translateAll (x : Ctx) (dva bit : Nat) : Nat → Option (List Nat)
  | 0 => some []
  | n + 1 =>
    match x.translate dva bit, x.translateAll (dva + 1) bit n with
    | some a, some as => some (a :: as)
    | _, _ => none

/-- Bytes written, each at its own address. -/
def State.putEach (s : State) : List Nat → List Byte → State
  | a :: as, b :: bs => (s.hbmPut a [b]).putEach as bs
  | _, _ => s

/-- A hedge violation (R416): the request is dropped, logged with its guest address, and the guest domain reset. -/
def State.hedgeViolation (s : State) (addr : Nat) : State :=
  (s.addLog .security .informational .hedgeViolation [addr] none).enterReset .guest

/-- GUEST_REQUEST (R416): inside a window with a permitted kind of access it is served, to the bytes behind the window's pages;
any other is a hedge violation. On a module whose site is empty the bank refuses ENABLE, so every request is one (R3, R415). -/
def execGuestRequest (addr : Nat) (write : Bool) (bytes : List Byte) (len : Nat) (s : State) :
    Host.Outcome State Fault Refusal :=
  .next (
    let n := if write then bytes.length else len
    match s.hedgeWindow addr n write with
    | none => s.hedgeViolation addr
    | some (c, dva) =>
      match (s.ctx c).translateAll dva (if write then 2 else 1) n with
      | none => s.hedgeViolation addr
      | some as =>
        if write then s.putEach as bytes
        else { s with guest := { s.guest with lastRead := some (as.map (fun a => hbmRead s.mem.hbm a)) } })

/-- GUEST_TIMEOUT (R277): the guest domain is reset; after the third failed attempt the site is fenced with GUEST_FENCED. -/
def execGuestTimeout (s : State) : Host.Outcome State Fault Refusal :=
  .next (
    if s.guest.fenced then s
    else
      let n := s.guest.attempts + 1
      let s := { s with guest := { s.guest with attempts := n } }
      if 3 ≤ n then { s with guest := { s.guest with fenced := true } }.modEvent .guestFenced
      else s.enterReset .guest)

end Sys2Proof.Machine
end

