-- ==== Sys2Proof/Machine/Package.lean ====
section
/-! DEFINITION. Reset pin, supplies, clocks, the start, the trellis (R3, R19, R264, R406, R421–R430). -/

namespace Sys2Proof.Machine

/-! ## Boot (R406) -/

/-- A firmware slot passes the boot ROM's verification: marked valid, signed, not below the counter; the active one only
while it has not reset three times in a start (R406). -/
def State.slotPasses (s : State) (f : FwSlot) (active : Bool) : Bool :=
  f.valid && f.bundle.any (fun b => b.sigOk && decide (s.mss.counter.toNat ≤ b.secVer)) &&
    !(active && decide (3 ≤ s.mss.bootResets))

/-- The boot ROM verifies the active slot, falls back to the other, or starts in recovery (R406). -/
def State.boot (s : State) : State :=
  let act := if s.mss.activeB then s.mss.slotB else s.mss.slotA
  if s.slotPasses act true then s
  else if s.slotPasses s.inactive false then
    { s with mss := { s.mss with activeB := !s.mss.activeB, bootResets := 0 } }.addLog .update .informational .fwFallback [] none
  else
    { s with hub := { s.hub with dead := true, recovery := true, starting := .none } }.addLog .update .informational .fwNone [] none

/-- A cold start from the boot ROM: profile pins sampled, bundle and profile verified (R395, R406, R428). -/
def State.coldBoot (s : State) (sel : Fin 4) : State := (s.coldStart sel).boot

/-! ## The reset pin and the supplies (R426) -/

/-- MOD_RESET_N_ASSERT (R426): an assertion of at least 10 µs is a cold reset, one shorter than 1 µs is ignored; for one between
them the manual gives neither, and a free value decides. -/
def execModResetNAssert (nanoseconds : Nat) (s : State) : Host.Outcome State Fault Refusal :=
  .next (
    let cold (s : State) : State :=
      let s := s.coldReset s.hub.profileSel
      { s with hub := { s.hub with modReset := true, starting := .none } }
    if nanoseconds < 1000 then s
    else if 10000 ≤ nanoseconds then cold s
    else if s.draw.1 % 2 = 0 then s.draw.2 else cold s.draw.2)

/-- MOD_RESET_N_RELEASE (R428): the cold start runs, with the profile pins as sampled. -/
def execModResetNRelease (profileSel : Fin 4) (s : State) : Host.Outcome State Fault Refusal :=
  .next (
    if s.hub.modReset && s.hub.mainPower then
      let s := { s with hub := { s.hub with modReset := false, starting := .full, profileSel := profileSel } }
      (s.startProfile profileSel).boot
    else s)

/-- MAIN_POWER_LOSS (R426): every die but the always-on domain goes down; stack contents are lost. -/
def execMainPowerLoss (s : State) : Host.Outcome State Fault Refusal :=
  .next (
    if s.hub.mainPower then
      let s := s.warmReset true
      { s with hub := { s.hub with mainPower := false, starting := .none, firstReady := false }
               mem := { hardFaults := s.mem.hardFaults, chmap := s.mem.chmap, fenced := s.mem.fenced, lanes := s.mem.lanes } }
    else s)

/-- MAIN_POWER_RETURN (R426): a cold start. -/
def execMainPowerReturn (s : State) : Host.Outcome State Fault Refusal :=
  .next (
    if s.hub.mainPower then s
    else { s with hub := { s.hub with mainPower := true } }.coldBoot s.hub.profileSel)

/-! ## Clocks (R425) -/

/-- REFCLK_LOST (R425): the rest of the module is held in warm reset. -/
def execRefclkLost (s : State) : Host.Outcome State Fault Refusal :=
  .next (
    if s.hub.refclk then
      let s := (s.addLog .event .informational .refclkLost [] none).warmReset false
      { s with hub := { s.hub with refclk := false } }
    else s)

/-- REFCLK_RETURN (R425): the clock has been stable for 1 ms; the module leaves warm reset. -/
def execRefclkReturn (s : State) : Host.Outcome State Fault Refusal :=
  .next (
    if s.hub.refclk then s
    else
      let s := { s with hub := { s.hub with refclk := true } }
      if s.hub.tripped || !s.hub.mainPower then s else (s.updDom .warm (fun x => { x with inReset := false })).portsUp)

/-- A compute-die reset by a fault (R264, coinciding events of chapter 10): the module's steps fail a check class and its
clearings roll back; a second within 10 s loses the module. The class and its status are the cache's (DEDUCED, log 42). -/
def State.dieReset (s : State) (ds : List Die) : State :=
  let recent := s.hub.dieResets.filter (fun t => decide (s.now < t + 10000000))
  if !recent.isEmpty then s.selfFence none
  else
    let s := { s with hub := { s.hub with dieResets := recent ++ [s.now] } }
    let s := ds.foldl (fun (s : State) d => s.enterReset (.die d)) s
    allCtx.foldl (fun (s : State) c => if (s.ctx c).loaded then s.parityRollback c .cacheParity else s) s

/-- PLL_UNLOCK (R425): the PLL's clock stops; the arithmetic and HBM PLLs reset their compute die, every other the module. -/
def execPllUnlock (p : Pll) (s : State) : Host.Outcome State Fault Refusal :=
  .next (
    let s := s.addLog .event .informational .pllUnlock [] none
    let s := { s with hub := { s.hub with pllsDown := if s.hub.pllsDown.contains p then s.hub.pllsDown else s.hub.pllsDown ++ [p] } }
    match p with
    | .arith d | .hbm d => s.dieReset [d]
    | .trellis | .serdes _ | .hub => s.warmReset false)

/-! ## The trellis (R421, R422) -/

/-- A trellis link changed. -/
def State.updTrellis (s : State) (l : TrellisLink) (f : TrellisSt → TrellisSt) : State :=
  { s with hub := { s.hub with trellis := AL.upd {} l f s.hub.trellis } }

/-- A trellis link is lost (R264, R422): its compute dies are reset; the link between hub and link die has none, and its loss is
that of the module (R26; log 43). One that is lost again before its dies have left reset fails to train, and makes the module
lost (R422). -/
def State.trellisLost (s : State) (l : TrellisLink) : State :=
  let again := (AL.get {} l s.hub.trellis).lost
  let s := s.updTrellis l (fun t => { t with lost := true })
  if again then s.selfFence none
  else match l with
  | .dieToLink d | .hubToDie d => s.dieReset [d]
  | .dieToDie a b => s.dieReset [a, b]
  | .hubToLink _ => s.selfFence none

/-- A lane of a group is replaced by a spare of the group, of which there are two (R421); one replaced at run time is logged. -/
def State.replaceLane (s : State) (l : TrellisLink) (group : Nat) (running : Bool) : State :=
  let s := s.updTrellis l (fun t => { t with used := AL.upd 0 group (· + 1) t.used })
  if running then s.addLog .event .informational .trellisLaneRepaired [group] none else s

/-- A group of a link needs a third replacement: half width, and the unit has no spare left (R422). -/
def State.halveLink (s : State) (l : TrellisLink) : State :=
  let s := (s.updTrellis l (fun t => { t with half := true })).modEvent .trellisDegraded
  (if s.inClearing then s.send .eolNoSpare else s).modEvent .eolNoSpare

/-- A lane of a group fails while half of the group's lanes or a spare still works (R421, R422). -/
def State.laneFails (s : State) (l : TrellisLink) (group : Nat) (running : Bool) : State :=
  let t : TrellisSt := AL.get {} l s.hub.trellis
  if t.half then s else if AL.get 0 group t.used < 2 then s.replaceLane l group running else s.halveLink l

/-! ## The start (R428–R430) -/

/-- A channel that fails at a start is mapped out at once: there is nothing to copy (R188, R189, R430); `none` when no reserve
is left. -/
def State.startMapout (s : State) (p : Chan) : Option State :=
  match s.logicalFor p with
  | none => some (s.fenceChan p)
  | some l =>
    match (s.fenceChan p).replacement l.1 with
    | none => none
    | some q =>
      let t := s.fenceChan p
      some (t.reserveLow { t with mem := { t.mem with chmap := AL.set l ⟨q.1, q.2, true⟩ t.mem.chmap } })

/-- A core that fails its start-up test joins the pruned list (R244, R430); a signature is logged. -/
def State.startCoreFails (s : State) (k : CoreId) : State :=
  let s := (s.updCore k (fun x => { x with status := .fenced }))
  let s := { s with cores := { s.cores with pruned := if s.cores.pruned.contains k then s.cores.pruned else s.cores.pruned ++ [k] } }
  s.emit none 0 .fieldTestFail k.die.val (coreSig 0x0E 5 k .informational)

/-- The active set of a die at a start: the lowest-numbered 8 scan-capable and 56 other cores that are not listed; the others
are spares (R19, R25; which cores is the model's, log 45). -/
def State.formDie (s : State) (d : Die) : State :=
  let all : List CoreId := (List.finRange 72).map (fun n => ⟨d, n⟩)
  let good := all.filter (fun k => !s.cores.pruned.contains k)
  let scan (k : CoreId) : Bool := Config.scanCapable k.num.val
  let act := (good.filter scan).take 8 ++ (good.filter (fun k => !scan k)).take 56
  all.foldl (fun (s : State) k =>
    if s.cores.pruned.contains k then s.updCore k (fun x => { x with status := .fenced, toGraft := false })
    else s.updCore k (fun x => { x with status := if act.contains k then .active else .spare, accepting := false, toGraft := false })) s

/-- What a full start does once its checks have passed: stacks zeroed, active sets formed, fabric ports brought up (R428). -/
def State.fullStart (s : State) (cores : List CoreId) : State :=
  let s := cores.foldl State.startCoreFails s
  let s := { s with mem := { s.mem with hbm := [] } }
  ((List.finRange 4).foldl State.formDie s).portsUp

/-- A short start keeps the active sets; a core that was under test returns to its set where that has room (R19, R429). -/
def State.shortStart (s : State) : State :=
  let s := s.backFromTest
  let up (s : State) (d : Domain) : State := s.updDom d (fun x => { x with inReset := false, held := false })
  let s := (List.finRange 4).foldl (fun (s : State) d => up s (.die d)) s
  (allPorts.foldl (fun (s : State) p => up s (.port p)) s).portsUp

/-- STARTUP_COMPLETE (R428–R430): the start ends in Ready, a full one with STARTUP_DONE; a failed die, or a failed channel with no
reserve left, ends it with STARTUP_FAILED. -/
def execStartupComplete (f : StartFailures) (s : State) : Host.Outcome State Fault Refusal :=
  .next (
    if s.hub.starting = .none ∨ s.hub.dead = true ∨ s.hub.modReset = true ∨ s.inReset .warm = true then s
    else
      let s := f.lanes.foldl (fun (s : State) e => s.laneFails e.1 e.2 false) s
      let fail (s : State) (n : Nat) : State :=
        { s with hub := { s.hub with dead := true, starting := .none } }.event moduleSet .startupFailed (.count n)
      match f.dieFails with
      | d :: _ => fail s d
      | [] =>
        let mapped := f.channels.foldl (fun (o : Option State) e => o.bind (fun s => s.startMapout (e.1.val, e.2.val))) (some s)
        match mapped with
        | none => fail (s.modEvent .memReserveExhausted) 0
        | some s =>
          let full := decide (s.hub.starting = .full)
          let s := if full then s.fullStart f.cores else s.shortStart
          let s := { s with ckpt := { s.ckpt with seedBad := f.seedbank } }
          let s := if f.seedbank then s.modEvent .ckptSeedbankError else s
          let s := { s with
            hub := { s.hub with power := .ready, goingTo := 0, wakeNext := false, trellis := s.hub.trellis.map (fun e => (e.1, { e.2 with lost := false })), starting := .none, firstReady := true }
            mss := { s.mss with bootResets := 0 } }
          if full then s.modEvent .startupDone else s)

/-- TRELLIS_LANE_ERRORS (R421, R422): more than 16 CRC failures of a lane in 1 ms. Two replacements from the group's spares; then half
width, with no spare left; then the link is lost. -/
def execTrellisLaneErrors (l : TrellisLink) (group failures : Nat) (halfWorks : Bool) (s : State) :
    Host.Outcome State Fault Refusal :=
  .next (
    let t : TrellisSt := AL.get {} l s.hub.trellis
    if failures ≤ 16 ∨ t.lost = true then s
    else if !halfWorks && (t.half || decide (2 ≤ AL.get 0 group t.used)) then s.trellisLost l
    else s.laneFails l group true)

/-- TRELLIS_LINK_LOSS (R264, R422). -/
def execTrellisLinkLoss (l : TrellisLink) (s : State) : Host.Outcome State Fault Refusal := .next (s.trellisLost l)

end Sys2Proof.Machine
end

