-- ==== Sys2Proof/Machine/PowerStates.lean ====
section
/-! DEFINITION. Power states and logic BIST (R431–R439). -/

namespace Sys2Proof.Machine

/-! ## Power states (R431–R434) -/

/-- What refuses a GO to Asleep or Dormant (R433). -/
def State.powerBusy (s : State) (target : Nat) : Bool :=
  s.anyLoaded || s.isSapling ||
    s.ctxs.any (fun e => e.2.copying) ||
    !s.mem.mapouts.isEmpty || !s.mem.margining.isEmpty || s.hub.bist.running ||
    (target == 2 && allCtx.any s.enabled)

/-- Domains that enter reset with a power state: the compute dies, in Dormant the ports too, dark (R431). -/
def State.powerDown (s : State) (target : Nat) : State :=
  let s := (List.finRange 4).foldl (fun (s : State) d => s.enterReset (.die d)) s
  if target = 2 then
    allPorts.foldl (fun (s : State) p =>
      (s.updPort p (fun x => { x with state := if x.state = 5 then 5 else 0, lit := false, holdOff := false, stage := none, accept := false })).enterReset
        (.port p)) s
  else s

/-- A wake begins (R431, R432): from Asleep, or with the short sequence from Dormant; one asked for while the module enters a
state waits for the entry to complete (coinciding events of chapter 15). -/
def State.wakeUp (s : State) : State :=
  match s.hub.power with
  | .asleep => s.wake
  | .dormant => { s with hub := { s.hub with power := .waking, goingTo := 0, starting := .short, wakeNext := false } }
  | .entering => { s with hub := { s.hub with wakeNext := true } }
  | .active | .ready | .waking => s

/-- A refused GO (R432, R433). -/
def State.powerRefused (s : State) : State :=
  { s with hub := { s.hub with refused := true } }.addLog .event .informational .pwrStateBusy [] none

/-- A write of PWR_STATE_CTL (R432, R433): TARGET is stored; GO wakes, enters a state or is refused. A GO while the module
enters a state or wakes only stores TARGET (log 44), but for a GO to Ready while it enters one, which wakes it after. -/
def State.powerGo (s : State) (w : Word) : State :=
  let t := bitsOf w.toNat 1 0
  let s := { s with hub := { s.hub with target := t, refused := s.hub.refused && !bitOf w.toNat 7 } }
  if !bitOf w.toNat 2 then s
  else if t = 3 then s.powerRefused
  else if t = 0 then s.wakeUp
  else if s.hub.power = .entering ∨ s.hub.power = .waking ∨ s.hub.power = .dormant then s
  else if s.powerBusy t then s.powerRefused
  else if s.hub.power = .asleep ∧ t = 1 then s
  else { s with hub := { s.hub with power := .entering, goingTo := t, wakeNext := false } }.powerDown t

/-- PWR_STATE_GO (R432, R433). -/
def execPwrStateGo (w : Word) (s : State) : Host.Outcome State Fault Refusal := .next (s.powerGo w)

/-- POWER_STATE_TRANSITION_COMPLETE (R431): an entry ends in its state, and a wake that waited for it begins; a wake from Asleep ends in Ready, the dies out of reset.
A wake from Dormant ends with its start. -/
def execPowerStateTransitionComplete (s : State) : Host.Outcome State Fault Refusal :=
  .next (
    match s.hub.power with
    | .entering =>
      let t := { s with hub := { s.hub with power := if s.hub.goingTo = 2 then .dormant else .asleep } }
      if s.hub.wakeNext then t.wakeUp else t
    | .waking =>
      if s.hub.starting = .none ∧ s.hub.dead = false ∧ s.inReset .warm = false then
        let s := (List.finRange 4).foldl (fun (s : State) d => s.updDom (.die d) (fun x => { x with inReset := false, held := false })) s
        { s with hub := { s.hub with power := .ready } }
      else s
    | .active | .ready | .asleep | .dormant => s)

/-- PWR_STATE_REFUSED_CLEAR (R432): RW1C. -/
def execPwrStateRefusedClear (s : State) : Host.Outcome State Fault Refusal :=
  .next { s with hub := { s.hub with refused := false } }

/-! ## Logic BIST (R437–R439) -/

/-- What keeps a BIST run from starting, by CAUSE (R437, R438). -/
def State.bistRefused (s : State) : List Nat :=
  let b := s.hub.bist
  (if s.anyLoaded || s.inClearing || b.running then [1] else []) ++
  (if b.clock < 24 ∨ 30 < b.clock ∨ b.vdd < 700 ∨ 800 < b.vdd ∨ b.vdd % 10 ≠ 0 then [2] else []) ++
  (if s.mss.profile.isNone then [3] else [])

/-- A write of HUB_BIST_CTL (R419, R437, R438): GO with no die does nothing; one that breaks R437 sets CAUSE (which, where several
apply, is open: log 18); else the erasure comes first and the run starts. -/
def State.bistGo (s : State) (w : Word) : State :=
  let v := w.toNat
  let s := { s with hub := { s.hub with bist := { s.hub.bist with
    dies := bitsOf v 6 0, clock := bitsOf v 12 8, vdd := bitsOf v 25 16 } } }
  if !bitOf v 31 ∨ bitsOf v 6 0 = 0 then s
  else
    match s.bistRefused with
    | [] =>
      let s := s.erase .test
      { s with hub := { s.hub with bist := { s.hub.bist with
        done := 0, pass := 0, running := true, cause := 0, run := (s.hub.bist.dies, s.hub.bist.clock, s.hub.bist.vdd) } } }
    | c :: cs =>
      let (k, s) := s.pick c (c :: cs)
      { s with hub := { s.hub with bist := { s.hub.bist with cause := k } } }

/-- BIST_GO (R419, R437, R438). -/
def execBistGo (w : Word) (s : State) : Host.Outcome State Fault Refusal := .next (if s.barTakes 0x300 then s.bistGo w else s)

/-- The result of one die of a run (R439). -/
def State.bistDie (s : State) (misr : List (BitVec 64)) (i : Nat) : State :=
  let b := s.hub.bist
  if !bitOf b.run.1 i then s
  else
    let got := misr.getD i 0
    let ok := ((s.mss.profile.bind (fun p => p.bistSigs[i]?)).any (fun g => decide (g = got)))
    let s := { s with hub := { s.hub with bist := { b with
      done := b.done + 2 ^ i, pass := b.pass + (if ok then 2 ^ i else 0), misr := b.misr.set i got } } }
    s.addLog .event .informational (if ok then .bistPass else .bistFail) [i, b.run.2.1, b.run.2.2, got.toNat] none

/-- BIST_RUN_COMPLETE (R439): every selected die's signature is compared with the profile's and logged. -/
def execBistRunComplete (misr : List (BitVec 64)) (s : State) : Host.Outcome State Fault Refusal :=
  .next (
    if s.hub.bist.running then
      let s := (List.range 7).foldl (fun (s : State) i => s.bistDie misr i) s
      { s with hub := { s.hub with bist := { s.hub.bist with running := false } } }
    else s)

end Sys2Proof.Machine
end

