-- ==== Sys2Proof/Machine/Referee.lean ====
section
/-! DEFINITION. The referee: its recomputation of a failed tile, the outcome of an arbitration, and timed-out tile operations (R23,
R236–R241, R271). -/

namespace Sys2Proof.Machine

/-! ## The recomputation (R236) -/

/-- A core's blocks as the referee reads them at their source: those named, with the bytes read there and the tags expected. -/
def State.sourced (s : State) (p : CoreId) (c : CtxId) (n : Nat) (refs : List BlockRef) (source : List (List Byte)) : State :=
  s.updCore p (fun k => k.putBlocks ((refs.zip source).map (fun e => (e.1.block, s.newBlock c n e.1 e.2))))

/-- What the referee leaves of the primary: its output stands in the primary's blocks, while the blocks it read at their source stay as
they were, and so do the primary's counts. -/
def CoreSt.keepOwn (k old : CoreSt) (ins outs : List BlockRef) : CoreSt :=
  let back := (ins.filter (fun r => !outs.any (fun o => o.block == r.block))).map (fun r => r.block)
  { k with
    ops := old.ops, laneCtr := old.laneCtr
    blocks := back.foldl (fun m b => match AL.find? b old.blocks with
      | some x => AL.set b x m
      | none => AL.del b m) k.blocks }

/-- The referee recomputes an operation of the primary's: with the blocks it has read in place, none of a failed operation's errors, and
what the primary holds of its inputs put back. -/
def State.recompute (s : State) (p : CoreId) (c : CtxId) (n : Nat) (ins outs : List BlockRef) (source : List (List Byte))
    (run : State → State) : State :=
  if source.length ≠ ins.length then s
  else
    let old := s.core p
    (run (s.sourced p c n ins source)).updCore p (fun k => k.keepOwn old ins outs)

/-- The blocks a pass writes. -/
def passWrites (o : PassOrder) : List BlockRef := o.partRefs ++ o.outRefs ++ o.outRefs2 ++ o.tRefs

/-- A pass that is outstanding on the primary is done: the referee's output stands for it (R237 row B). -/
def State.passDone (s : State) (p : CoreId) (e : Nat × PassOrder) : State :=
  (s.updCore p (fun k => { k.popPass e with begun := e :: k.begun })).updStep e.2.ctx e.1 (fun t => { t with ran := (p, e.2) :: t.ran })

/-- The blocks a vector operation reads and writes. -/
def vecBlocks : VecTile → List BlockRef × List BlockRef
  | .vx _ srcs dst _ => (srcs.map (fun v => v.ref), [dst.ref])
  | .rake _ _ src _ _ _ dest => ([src.ref], match dest with
    | .slot d | .entered d _ _ => [d.ref]
    | _ => [])
  | .scan op part dst _ => (scanReads op part.src part.earlier, dst)

/-- The tensor a vector operation writes, with its place. -/
def vecPlace : VecTile → Place
  | .vx op _ dst _ => { blockPlace dst.ref.ident with pattern := vecPattern (vxClass op) (((vxOutFmt op).map Fmt.code).getD 0) }
  | .rake _ fmt src _ _ entry dest =>
    { blockPlace src.ref.ident with pattern := vecPattern 9 fmt.code, op := some (rakeTensor entry dest) }
  | .scan _ _ _ tensor => { tensor := tensor, pattern := vecPattern 10 0 }

/-- A vector operation run without a fault. -/
def State.vecRun (s : State) (p : CoreId) (c : CtxId) (n : Nat) (v : VecTile) : State :=
  match v with
  | .vx op srcs dst key => s.vxRun p op srcs dst c n key none
  | .rake op fmt src lanes index entry dest => s.rakeRun p op fmt src lanes index c n entry.tensor entry.inst dest .none
  | .scan op part dst tensor => s.scanRun p op part dst c n tensor none

/-- The referee's output where the primary has none: of a pass it could not start or that ran too long, of a vector operation, or of what
formed a block of accumulators, which runs again (R102, R237 row B, R271). A pass onto partials runs again with its output block. -/
def State.runFix (s : State) (p : CoreId) (a : Arb) (source : List (List Byte)) : State :=
  match a.fix with
  | .todo o _ =>
    if (s.core p).todo.contains (a.step, o) then
      s.recompute p a.ctx a.step (passReads o) (passWrites o) source (fun s => (s.passDone p (a.step, o)).deliverPass p (s.readPass p a.step o) .none)
    else s
  | .run q =>
    if q.firstK && decide (q.out ≠ .partialAcc) && (s.core p).todo.contains (a.step, q.toPassOrder) then
      (s.updCore p (fun k => k.popPass (a.step, q.toPassOrder))).deliverPass p q .none
    else s
  | .vec v => s.recompute p a.ctx a.step (vecBlocks v).1 (vecBlocks v).2 source (fun s => s.vecRun p a.ctx a.step v)
  | .replay r => s.replayProducer p a.ctx a.step r
  | _ => s.applyFix p a

/-! ## The outcome (R237, R238) -/

/-- An arbitration has ended well: its check no longer keeps the step from its vote. -/
def State.arbClean (s : State) (a : Arb) : State := s.updStep a.ctx a.step (fun t => { t with outstanding := t.outstanding - 1 })

/-- Row F: the referee's own checks fail. Both are struck, with a signature each, and the primary's other arbitrations end under row U
(R237, R238, R260). -/
def State.outcomeF (s : State) (p : CoreId) (a : Arb) : State :=
  let s := s.addStrike p false
  let s := match a.referee with
    | some r => s.addStrike r false
    | none => s
  let s := (s.arbFail a (p :: a.referee.toList)).arbEmit p a 3 .recoverable false
  let s := match a.referee with
    | some r => s.arbEmit r a 3 .recoverable false
    | none => s
  s.rowU p (s.core p).arbs

/-- The outcome of an arbitration by the table of R237: row F, T, A or B. -/
def State.arbOutcome (s : State) (p : CoreId) (a : Arb) (f : RefereeFinding) : State :=
  let live := s.arbLive a
  let out : State :=
    if f.ownChecks = false then s.outcomeF p a
    else if a.atSource || (decide (classOf a.unit = 2) && f.sameTag) then
      let w := a.writer.getD p
      ((s.addStrike w false).arbFail a [w]).arbEmit w a 3 .recoverable false
    else if a.equal then ((if live then s.arbClean a else s).addStrike p true).arbEmit p a 1 .corrected true
    else
      let s := if live then
          ((s.arbClean a).runFix p a f.source).updStep a.ctx a.step (fun t => { t with nTile := t.nTile + 1 })
        else s
      (s.addStrike p false).arbEmit p a 2 .corrected false
  out.settleStrikes (some a.ctx) a.step

/-- Complete blocks of gradients that an arbitration held back go to the collective engine (R144, R237). -/
def State.handAll (s : State) (c : CtxId) (n : Nat) : State :=
  match (s.ctx c).prog with
  | some p => p.gradTensors.foldl (fun (s : State) g => s.handOver c n p g) s
  | none => s

/-- REFEREE_RECOMPUTE_COMPLETE (R236, R237, R239): the referee of the primary's oldest arbitration has recomputed the tile, one
tile operation of its own. -/
def execRefereeRecomputeComplete (primary : CoreId) (finding : RefereeFinding) (s : State) :
    Host.Outcome State Fault Refusal :=
  .next (
    match (s.core primary).arbs with
    | [] => s
    | a :: rest =>
      let s := match a.referee with
        | some r => s.countOp r
        | none => s
      ((s.updCore primary (fun x => { x with arbs := rest })).arbOutcome primary a finding).handAll a.ctx a.step)

/-! ## Timed-out tile operations (R271) -/

/-- CORE_TIMEOUT (R23, R271): beyond 4 × B cycles plus 100 µs, 70,000 cycles at 700 MHz whatever the throttle (log 112), the
core is reset and its tile is arbitrated with no output. -/
def execCoreTimeout (core : CoreId) (c : CtxId) (cycles bound : Nat) (tile : TimedTile) (s : State) :
    Host.Outcome State Fault Refusal :=
  .next (
    if cycles < 4 * bound + 70000 then s
    else
      match tile with
      | .pass =>
        match (s.core core).mx.running with
        | p :: _ =>
          (s.checkFailed core p.ctx p.step .timeoutMx .coreTimeout 0x11 (passPlace p.toPassOrder (s.core core).mx.broadcast 0 0) bound cycles
            { fix := .run p }).enterReset (.core core)
        | [] => s
      | .vec v =>
        (s.checkFailed core c (s.opStep core c (vecBlocks v).1) .timeoutVec .coreTimeout 0x11 (vecPlace v) bound cycles
          { fix := .vec v }).enterReset (.core core))

end Sys2Proof.Machine
end

