-- ==== Sys2Proof/Machine/RegsFam.lean ====
section
/-! DEFINITION. BAR0: what a read of each register returns and what a write of it does (R358, R399, R400, R420, R432, R434, R438,
R448–R452, R458, R460–R468). -/

namespace Sys2Proof.Machine

/-! ## Reads -/

/-- A flag at a bit of a register. -/
def flagAt (v : Bool) (n : Nat) : Nat := if v then 2 ^ n else 0

/-- BSTAT of a bank (R452). -/
def State.bstat (s : State) (b : Bank) : Nat :=
  let k := s.regs.bank b
  let dirty := (s.regs.known b).any (fun a => s.regs.stg a != s.regs.val a)
  k.state + flagAt dirty 2 + flagAt k.superseded 3 + 65536 * k.tag

/-- A bank's control registers as they read: COMMIT is write-only (R10, R452). -/
def State.readBank (s : State) (b : Bank) (o : Nat) : Nat :=
  if o = 4 then s.bstat b else if o = 8 then (s.regs.bank b).fault else 0

/-- CXL_PORT_STATUS_p (R463). -/
def State.portStatus (s : State) (p : HostPort) : Nat :=
  let x := s.cxlPort p
  let serving := (List.finRange 17).any (fun i => (List.range 7).any (fun k => s.ringOn i k && decide (s.ringPort i k = some p)))
  flagAt x.up 0 + flagAt (s.usable p) 1 + (if x.up then 4 * x.width else 0) + flagAt (x.rate == 64) 6 + flagAt x.ats 7 +
    flagAt x.pasid 8 + flagAt x.pri 9 + flagAt x.perst 10 + flagAt serving 11

/-- MEM_CHMAP_d_i (R464). -/
def State.readChmap (s : State) (d i : Nat) : Nat :=
  let e := s.chEntry d i
  e.ch + 256 * e.die + flagAt (decide (i < s.chanCount d)) 10 + flagAt e.moved 11

/-- The cores of a word of CORE_ACTIVE or CORE_FENCED that hold a property (R465): 0 until Ready. -/
def State.coreWord (s : State) (d w : Nat) (f : CoreId → Bool) : Nat :=
  if s.hub.firstReady && decide (s.hub.starting = .none) then
    (List.range (if w < 2 then 32 else 8)).foldl
      (fun n b => n + flagAt (f ⟨Fin.ofNat 4 d, Fin.ofNat 72 (32 * w + b)⟩) b) 0
  else 0

/-- The core block's status registers (R465). -/
def State.readCore (s : State) (o : Nat) : Nat :=
  if 0x300 ≤ o ∧ o < 0x380 then
    let d := (o - 0x300) / 0x20
    let r := (o - 0x300) % 0x20
    if r < 12 then s.coreWord d (r / 4) (fun k => decide ((s.core k).status = .active))
    else if 16 ≤ r ∧ r < 28 then s.coreWord d ((r - 16) / 4) (fun k => s.cores.pruned.contains k)
    else 0
  else 0

/-- LINK_PORT_STATUS_n (R467). -/
def State.readLinkPort (s : State) (p : PortId) : Nat :=
  let x := s.port p
  x.state + 8 * x.laser.getD (p.val % 20) + flagAt x.detour 8 + 512 * x.attempts + 2048 * x.peer

/-- HUB_BIST_STATUS (R438). -/
def State.bistStatus (s : State) : Nat :=
  let b := s.hub.bist
  b.done + 256 * b.pass + flagAt b.running 15 + 65536 * b.cause

/-- The HUB block's direct registers (R438, R462): identity, generations, time, errors, BIST. -/
def State.readHub (s : State) (o : Nat) : Nat :=
  let b := s.hub.bist
  if o = 0x100 then 0x411280
  else if o = 0x104 then Config.serial % 2 ^ 32
  else if o = 0x108 then Config.serial / 2 ^ 32 % 2 ^ 32
  else if o = 0x10C then s.moduleGen.toNat + 256 * (s.genOf .cp).toNat
  else if o = 0x110 then s.now % 2 ^ 32
  else if o = 0x114 then s.hub.timeHi.toNat
  else if o = 0x118 then s.regs.partials + 65536 * s.regs.mssDrops
  else if o = 0x300 then b.dies + 256 * b.clock + 65536 * b.vdd
  else if o = 0x304 then s.bistStatus
  else if 0x310 ≤ o ∧ o < 0x348 then
    let m := (b.misr.getD ((o - 0x310) / 8) 0).toNat
    if o % 8 = 0 then m % 2 ^ 32 else m / 2 ^ 32
  else 0

/-- MSS_PROFILE_CTL as the MSS reports it (R399): GO is write-only. -/
def State.profileCtl (s : State) : Nat :=
  s.mss.select.val + flagAt s.mss.selecting.isSome 3 + 16 * s.mss.activeSlot.val + flagAt s.mss.profile.isNone 6

/-- Some pass, transfer or copy is running: the module is Active (R431). -/
def State.running (s : State) : Bool :=
  s.ctxs.any (fun e => s.ctxState e.1 == 3) || s.cores.tbl.any (fun e => !e.2.mx.running.isEmpty) ||
    s.ctxs.any (fun e => e.2.copying) || !s.mem.mapouts.isEmpty

/-- Coding of PWR_STATE_CTL.STATE (R432). -/
def State.powerCode (s : State) : Nat :=
  match s.hub.power with
  | .active => 0
  | .ready => if s.running then 0 else 1
  | .asleep => 2
  | .dormant => 3
  | .entering => 4
  | .waking => 5

/-- PWR_STATE_CTL (R432). -/
def State.pwrStateCtl (s : State) : Nat := s.hub.target + 16 * s.powerCode + flagAt s.hub.refused 7

/-- SEC_DEBUG_STATUS (R420). -/
def State.debugStatus (s : State) : Nat :=
  (match s.mss.security with
    | .secure => 0
    | .debug => 1
    | .test => 2) + 4 * s.mss.dies + 1024 * s.mss.level

/-- SEC_IDE_STATUS (R468): every bit 0 in DEBUG and TEST. -/
def State.ideStatus (s : State) : Nat :=
  let on (p : HostPort) (st : IdeStream) (n : Nat) : Nat := flagAt (s.mss.ideOn.any (fun e => decide (e.1 = (p, st)))) n
  if s.mss.security = .secure then on .a .io 0 + on .a .cachemem 1 + on .b .io 2 + on .b .cachemem 3 else 0

/-- A register without staged fields, by its BAR0 address; every address no table assigns reads 0 (R448, R460, R461). -/
def State.readDirect (s : State) (a : Nat) : Nat :=
  let o := offsetOf a
  match blockOf a with
  | 0 => s.readHub o
  | 1 => if 0x100 ≤ o ∧ o < 0x200 ∧ o % 16 = 8 then s.ctxStatus (Fin.ofNat 16 ((o - 0x100) / 16)) else 0
  | 2 => if o = 0x110 then s.portStatus .a else if o = 0x114 then s.portStatus .b else 0
  | 4 => if 0x1000 ≤ o ∧ o < 0x2000 ∧ o % 4 = 0 ∧ (o - 0x1000) % 0x400 < 640 then
      s.readChmap ((o - 0x1000) / 0x400) ((o - 0x1000) % 0x400 / 4) else 0
  | 5 => s.readCore o
  | 6 => if 0x100 ≤ o ∧ o < 0x140 ∧ o % 4 = 0 then (s.ctx (Fin.ofNat 16 ((o - 0x100) / 4))).qntReplay.toNat else 0
  | 7 => if 0x300 ≤ o ∧ o < 0x3A0 ∧ o % 4 = 0 then s.readLinkPort (Fin.ofNat 40 ((o - 0x300) / 4)) else 0
  | 10 => if o = 0x100 then (match s.mss.reported with
      | some v => v.toNat
      | none => s.profileCtl) else 0
  | 11 => if o = 0x100 then s.debugStatus else if o = 0x104 then s.ideStatus else 0
  | 12 => if o = 0x104 then s.pwrStatus else if o = 0x108 then s.pwrStateCtl else 0
  | _ => 0

/-- A register of the active view (R451). -/
def State.readActive (s : State) (a : Nat) : Word :=
  match regInfo a with
  | some _ => s.regs.val a
  | none =>
    match bankAt a with
    | some b => BitVec.ofNat 32 (s.readBank b (a - bankBase b))
    | none => BitVec.ofNat 32 (s.readDirect a)

/-- BAR0 answers at an address (R434, R448): it does once the module has been Ready and is out of its warm reset, in Dormant
only in the PWR block. -/
def State.barServes (s : State) (a : Nat) : Bool :=
  s.hub.firstReady && !s.inReset .warm && (decide (s.hub.power ≠ .dormant) || blockOf a == 12)

/-- A 32-bit read of BAR0 at a word address (R434, R448, R451): offset 0x10_0000 + x is the staged view of x. -/
def State.readReg (s : State) (a : Nat) : Word :=
  if s.barServes a then
    if offsetOf a < 0x100000 then s.readActive a
    else
      match regInfo (a - 0x100000) with
      | some _ => s.regs.stg (a - 0x100000)
      | none => s.readActive (a - 0x100000)
  else 0

/-- HUB_TIME_LO_READ (R462): the read latches the upper half of the same moment. -/
def execHubTimeLoRead (s : State) : Host.Outcome State Fault Refusal :=
  .next (if s.barServes 0x110 then { s with hub := { s.hub with timeHi := BitVec.ofNat 32 (s.now / 2 ^ 32) } } else s)

/-! ## Writes -/

/-- A write of CP_CTX_CTL_c (R358): PAUSE or RESUME but not both, then the restarts, SKIP with them. -/
def State.ctxControl (s : State) (c : CtxId) (w : Nat) : State :=
  let s := if bitOf w 0 && !bitOf w 1 then s.setPause c (fun x => { x with pauseHost := true })
    else if bitOf w 1 && !bitOf w 0 then s.clearPause c (fun x => { x with pauseHost := false }) else s
  let s := if bitOf w 2 then s.restartRing c .step (bitOf w 4) else s
  if bitOf w 3 then s.restartRing c .service (bitOf w 4) else s

/-- A write of a direct register, outside the MSS block (R10, R451): read-only and unassigned ones discard it. -/
def State.writeDirect (s : State) (a : Nat) (v : Word) : State :=
  if a = 0x300 then s.bistGo v
  else if a = 0x1800108 then s.powerGo v
  else if 0x200104 ≤ a ∧ a < 0x200204 ∧ a % 16 = 4 then s.ctxControl (Fin.ofNat 16 ((a - 0x200104) / 16)) v.toNat
  else s

/-- A whole write of the active view (R451, R458). -/
def State.writeActive (s : State) (a : Nat) (v : Word) : State :=
  if blockOf a = 10 then (s.postMssWrite a v).deliverMbox
  else
    match regInfo a with
    | some _ => s.stageWrite a v
    | none =>
      match bankAt a with
      | some b => s.bankWrite b (a - bankBase b) v.toNat
      | none => s.writeDirect a v

/-- REGISTER_WRITE (R434, R448, R449, R451): staged fields go to the staging copy, others take effect at once; a write with
some byte enables clear is discarded and counted; the staged view and what the module does not serve discard it. -/
def execRegisterWrite (p : HostPort) (addr : Nat) (v : Word) (byteEnable : Nat) (s : State) :
    Host.Outcome State Fault Refusal :=
  .next (
    if (s.cxlPort p).up = false ∨ (s.cxlPort p).perst = true ∨ s.barServes addr = false then s
    else if byteEnable % 16 ≠ 15 then { s with regs := { s.regs with partials := min 65535 (s.regs.partials + 1) } }
    else if offsetOf addr < 0x100000 then s.writeActive addr v
    else s)

end Sys2Proof.Machine
end

