-- ==== Sys2Proof/Machine/Restore.lean ====
section
/-! DEFINITION. Restore from the seedbank, from grove stripes or from the host (R317–R319). -/

namespace Sys2Proof.Machine

/-- The data units of an image's rows, each reconstructed from what could be read of it; none where a row has more than two units
unreadable (R310, R311, R318 step 2). -/
def stripeRead (n : Nat) (rows : List (List (Nat × List Byte))) : Option (List UnitBytes) :=
  ((List.range n).mapM (fun r => recoverData ((rows.getD r []).map (fun u => (u.1, u.2.map BitVec.toNat))))).map List.flatten

/-- The rows of an image in grove stripes (R310). -/
def stripeRows (p : Program) (m : ShardImage) : Nat := cdiv (gUnits p m.writer m.step m.data).length 30

/-- What the rows give is the image (R318 step 2): its units in order, the last row padded with zero units. -/
def stripeIsImage (p : Program) (m : ShardImage) (rows : List (List (Nat × List Byte))) : Bool :=
  let units := (gUnits p m.writer m.step m.data).map (fun u => u.map BitVec.toNat)
  (stripeRead (stripeRows p m) rows).any (fun ds => ds.take units.length == units)

/-- The checks of a restore in their order (R319): the cause of the first that fails. -/
def State.restoreCause (s : State) (p : Program) (n source : Nat) (i : RestoreInput) : Option Status :=
  let r := i.receipt
  let m := i.image
  if !i.sigOk then some .restoreReceiptInvalid
  else if r.step ≠ n then some .restoreStepMismatch
  else if r.shapeHash ≠ shapeHash p then some .restoreShapeMismatch
  else if r.acr ≠ p.acr then some .restoreAcrMismatch
  else if r.shard ≠ shardOf p s.ident then some .restoreShapeMismatch
  else if source = 0 ∧ i.sourceOk = false then some .restoreSourceAbsent
  else if source = 1 ∧ stripeRead (stripeRows p m) i.rows = none then some .restoreStripeLost
  else if m.step ≠ r.step then some .restoreStepMismatch
  else if m.shard ≠ r.shard ∨ m.shapeHash ≠ r.shapeHash ∨ m.acr ≠ r.acr then some .restoreShapeMismatch
  else if shardDigest p m.writer m.step m.data ≠ r.digest ∨ m.leavesOk = false then some .restoreDigestMismatch
  else if source = 1 ∧ stripeIsImage p m i.rows = false then some .restoreDigestMismatch
  else none

/-- The slot index a restore reads into (R318 step 2): the lowest that is FREE with no reader in live and mirror. -/
def Ctx.restoreSlot (x : Ctx) : Option (Fin 3) :=
  (List.finRange 3).find? (fun i =>
    let a : Slot := AL.get {} i x.live
    let b : Slot := AL.get {} i x.mirror
    decide (a.state = .free) && a.readers == 0 && decide (b.state = .free) && b.readers == 0)

/-- A RESTORE may take effect (R317): a program is loaded, no step is provisional, and none has taken effect since the load
or since MEM_STATE_LOST. -/
def Ctx.mayRestore (x : Ctx) : Bool :=
  x.loaded && x.steps.isEmpty && x.replaying.isNone && x.restoring.isNone && !x.ackWait && (x.fresh || x.needRestore)

/-- Blocks of a seedbank image that other modules serve: what is received so far. -/
def State.seedBlocks (s : State) (c : CtxId) : List (Nat × List Byte) := AL.get [] c.val s.ckpt.blocks

/-- This module's vote of a restore (R318 step 4). -/
def State.restoreVote (s : State) (c : CtxId) : State :=
  match (s.ctx c).restoring with
  | some r =>
    (s.updCtx c (fun x => { x with restoring := some { r with voted := true } })).send
      (.contribute c .restoreVote (if r.cause.isSome then 1 else 0))
  | none => s

/-- The restored version read into a live slot, its copy sent to the buddy; the vote goes out at once where a check failed
or there is no buddy (R318 steps 2 to 4). -/
def State.restoreInto (s : State) (c : CtxId) (p : Program) (n : Nat) (i : Fin 3) (cause : Option Status) (d : SlotData) :
    State :=
  let s := s.updCtx c (fun x => { x with
    restoring := some ⟨n, i, cause, false, false⟩
    live := if cause.isNone then AL.set i { (AL.get {} i x.live : Slot) with data := d, version := n } x.live else x.live })
  let s := if cause.isNone && (buddyOf p s.ident).isSome then s.send (.mirrorCopy c n) else s
  if cause.isSome || (buddyOf p s.ident).isNone then s.restoreVote c else s

/-- The blocks of a seedbank image that another module serves are all here, and are those of the image. -/
def State.blocksMatch (s : State) (c : CtxId) (p : Program) (m : ShardImage) : Bool :=
  let all := imageBytes p m.writer m.step m.data
  let got := s.seedBlocks c
  (blocksOf all).zipIdx.all (fun b => (AL.find? b.2 got) == some b.1)

/-- What this module's own seedbank gives a restore: the image of a slot with a valid commit block for the step and the shard
(R309, R319). -/
def State.ownSeed (s : State) (p : Program) (n : Nat) (r : RestoreInput) : RestoreInput :=
  match List.find? (fun (e : Nat × SeedSlot) => e.2.valid && e.2.step == n && e.2.image.shard == shardOf p s.ident) s.ckpt.seed with
  | some e => { r with image := e.2.image }
  | none => { r with sourceOk := false }

/-- RESTORE (R317, R318): the receipt and the image are checked in the order of R319 and the version is read into a free
slot. An image another module serves is asked for block by block first. -/
def execRestore (c : CtxId) (input : Fetch RestoreInput) (s : State) : Host.Outcome State Fault Refusal :=
  .next (
    match s.headOf c .step .restore with
    | none => s
    | some q =>
      let x := s.ctx c
      match x.prog, x.restoreSlot with
      | some p, some i =>
        if !x.mayRestore then s
        else
          match input with
          | .noPage off got => s.fetchStops c .descData off got
          | .data r =>
            let r := if dSource q.bytes = 0 ∧ dSourceId q.bytes = s.ident then s.ownSeed p (dStep q.bytes) r else r
            let remote := dSource q.bytes == 0 && dSourceId q.bytes != s.ident && r.sourceOk
            let n := imageBlocks p r.image.data
            if remote && decide ((s.seedBlocks c).length < n) then
              if (s.seedBlocks c).isEmpty then
                (List.range n).foldl (fun (s : State) j => s.send (.seedBlockRequest c (dSourceId q.bytes) j)) s
              else s
            else
              let m := if remote && !s.blocksMatch c p r.image then { r.image with leavesOk := false } else r.image
              let cause := s.restoreCause p (dStep q.bytes) (dSource q.bytes) { r with image := m }
              let s := (s.abandonDrain c).takeEffect c .step q
              let s := { s with ckpt := { s.ckpt with blocks := AL.del c.val s.ckpt.blocks } }
              s.restoreInto c p (dStep q.bytes) i cause m.data
      | _, _ => s)

/-- SEEDBANK_RESTORE_BLOCK_RECEIVE (R317): a block of a seedbank image arrives from its source module. -/
def execSeedbankRestoreBlockReceive (c : CtxId) (src : ModNo) (index : Nat) (bytes : List Byte) (s : State) :
    Host.Outcome State Fault Refusal :=
  .next (
    match s.headOf c .step .restore with
    | some q =>
      if dSource q.bytes = 0 ∧ dSourceId q.bytes = src.val then
        { s with ckpt := { s.ckpt with blocks := AL.set c.val (AL.set index bytes (s.seedBlocks c)) s.ckpt.blocks } }
      else s
    | none => s)

/-- RESTORE_MIRROR_COPY_RECEIVE (R318 step 3): the buddy's restored slot goes into the mirror slot and is verified with the
buddy's leaf digests; its writes are charged to mirror, and the vote follows. -/
def execRestoreMirrorCopyReceive (c : CtxId) (data : SlotData) (leavesOk : Bool) (s : State) :
    Host.Outcome State Fault Refusal :=
  .next (
    match (s.ctx c).restoring with
    | none => s
    | some r =>
      if r.voted || r.mirrorIn then s
      else
        let s := s.chargePart c 2 (2097152 * (((s.ctx c).prog.map (·.mirrorUnits)).getD 0))
        let s := s.updCtx c (fun x => { x with
          restoring := some { r with mirrorIn := true, cause := if leavesOk then r.cause else some .restoreDigestMismatch }
          mirror := AL.set r.slot { (AL.get {} r.slot x.mirror : Slot) with data := data, version := r.step } x.mirror })
        s.restoreVote c)

/-- The restored version becomes the committed one (R318 step 5). -/
def Ctx.restored (x : Ctx) (r : Restoring) : Ctx :=
  let keepOnly (m : AL (Fin 3) Slot) : AL (Fin 3) Slot :=
    (List.finRange 3).map (fun i =>
      let t : Slot := AL.get {} i m
      if i = r.slot then (i, { t with state := .committed, version := r.step })
      else (i, { t with state := .free, data := {}, readers := if t.snapRef then 1 else 0 }))
  { x with
    live := keepOnly x.live, mirror := keepOnly x.mirror, slotOff := (r.slot.val + 3 - r.step % 3) % 3
    keepCopy := [], keep := [], logStacks := [], pushWait := [], epoch := x.epoch + 1, committed := r.step
    restoring := none, needRestore := false, fresh := true, accums := [] }

/-- The slots a failed restore wrote are as they were: FREE and empty (R318 step 6). -/
def Ctx.unrestored (x : Ctx) (r : Restoring) : Ctx :=
  let wipe (t : Slot) : Slot := { t with data := {} }
  { x with
    live := AL.upd {} r.slot wipe x.live, mirror := AL.upd {} r.slot wipe x.mirror, restoring := none }

/-- RESTORE_VOTE_REDUCED (R318 steps 5 and 6). -/
def execRestoreVoteReduced (c : CtxId) (mask : Word) (s : State) : Host.Outcome State Fault Refusal :=
  .next (
    match (s.ctx c).restoring, s.flowOf c .step .restore with
    | some r, some f =>
      if !r.voted then s
      else if mask = 0 then (s.updCtx c (fun x => x.restored r)).finishDone c .step f.index f.userTag r.step .success 0
      else (s.updCtx c (fun x => x.unrestored r)).stopAfterEffect c .step f r.step (r.cause.getD .restorePeerFailed)
    | _, _ => s)

end Sys2Proof.Machine
end

