-- ==== Sys2Proof/Machine/Rollout.lean ====
section
/-! DEFINITION. Rollout requests and the batches that execute (R104, R105, R371). -/

namespace Sys2Proof.Machine

/-- The batches of a context change; when none executed before, the first one's passes become outstanding (R105 rule 7). -/
def State.batchChange (s : State) (c : CtxId) (f : Ctx → Ctx) : State :=
  let s' := s.updCtx c f
  if (s.ctx c).batches.isEmpty then s'.placeBatch c else s'

/-- A request of some rows opens a batch: none is open, or it would take the open one beyond its target (R105). -/
def Ctx.opensBatch (x : Ctx) (rows : Nat) : Bool :=
  match x.batch with
  | none => true
  | some b => decide (b.target < b.rows + rows)

/-- GENERATE (R104, R105, R366): the request at the head of its ring is accepted and enters its batch; a batch it opens is the safe
point of a pending commit of the context's batching register. An input whose translation fails waits for its page. -/
def execGenerate (c : CtxId) (input : Fetch (List Byte)) (s : State) : Host.Outcome State Fault Refusal :=
  .next (
    match s.headOf c .step .generate with
    | none => s
    | some q =>
      match input with
      | .noPage off got => s.fetchStops c .descData off got
      | .data _ =>
        let s := s.takeEffect c .step q
        let s := if (s.ctx c).opensBatch (dRows q.bytes) && !s.behindProfile .coreRbatch then s.applyUnit .coreRbatch c.val else s
        let r := s.reg (aRbatch c.val)
        s.batchChange c (fun x =>
          x.enter (bitsOf r 12 0) (bitsOf r 31 16) s.now (dRows q.bytes) (q.index, dOutputAddr q.bytes, dRows q.bytes)))

/-- BATCHING_WINDOW_ELAPSE (R105 rules 2, 3, 8): the window of the open batch has elapsed; a pre-empted context notes it. -/
def execBatchingWindowElapse (c : CtxId) (s : State) : Host.Outcome State Fault Refusal :=
  .next (
    let x := s.ctx c
    match x.batch with
    | some b =>
      if b.opened + b.window ≤ s.now then
        s.batchChange c Ctx.dispatch
      else s
    | none => s)

/-- The outputs of one request written, or abandoned where their translation fails; DONE follows (R371, R383). -/
def State.generateOne (s : State) (c : CtxId) (r : BitVec 32 × Nat × Nat) (out : List Byte) (fault : Bool) : State :=
  let tag := (((s.ring (setOf c)).step.flow.find? (fun f => f.index == r.1)).map (·.userTag)).getD 0
  if fault then s.pageRequest c (.generateOut r.1 r.2.1 out.length) 0
  else
    (s.hostWrite c r.1.toNat r.2.1 out.length).finishDone c .step r.1 tag 0 .success 0

/-- Every pass of the batch that executes has run and every check of it has passed (R371). -/
def State.batchPassed (s : State) (c : CtxId) : Bool :=
  s.noneLeft c 0 (fun _ => true) && s.cores.tbl.all (fun e => e.2.arbs.all (fun a => !(decide (a.ctx = c) && a.step == 0)))

/-- GENERATE_OUTPUT_WRITE (R371): every check of the batch dispatched first has passed; its outputs are written once and
DONE follows them. -/
def execGenerateOutputWrite (c : CtxId) (outputs : List (List Byte)) (faults : List Bool) (s : State) :
    Host.Outcome State Fault Refusal :=
  .next (
    match (s.ctx c).batches with
    | [] => s
    | b :: _ =>
      if !s.batchPassed c then s
      else
        let s := s.updCtx c (fun x => { x with batches := x.batches.drop 1 })
        (b.reqs.zipIdx.foldl (fun s e => s.generateOne c e.1 (outputs.getD e.2 []) (faults.getD e.2 false)) s).placeBatch c)

end Sys2Proof.Machine
end

