-- ==== Sys2Proof/Machine/Takeover.lean ====
section
/-! DEFINITION. Takeovers and planned swaps: records held for the buddy, orders to a spare, the copy and its check, the
route update (R278–R282, R346). -/

namespace Sys2Proof.Machine

/-- TAKEOVER_RECORD_RECEIVE (R278): the buddy's record of a step, or its program image and tables, kept in its mirror partition
here. -/
def execTakeoverRecordReceive (c : CtxId) (src : ModNo) (step attempt : Nat) (desc : RecordBody) (upd : UpdateRec)
    (cons0 cons1 prod2 : Nat) (provPosted : Bool) (crcs : List Nat) (s : State) : Host.Outcome State Fault Refusal :=
  .next (
    if s.buddy c ≠ some src.val then s
    else
      match desc with
      | .image p => s.updCtx c (fun x => { x with buddyImage := some p })
      | .step desc =>
        let r : TakeoverRec := ⟨step, attempt, desc, upd, cons0, cons1, prod2, provPosted, crcs⟩
        s.updCtx c (fun x => { x with takeovers := x.takeovers.filter (fun e => e.step != step) ++ [r] }))

/-- This module may take an identity over (R281: never a sapling not yet admitted): a hot spare in Ready or Active, or one that answers for the identity already
(R279 step 2, R434). -/
def State.mayTakeOver (s : State) (lost : Nat) : Bool :=
  (s.hotSpareHere || (s.grove.ident.isSome && s.ident == lost)) &&
    (decide (s.hub.power = .ready) || decide (s.hub.power = .active))

/-- The copy of an identity begins at this spare (R279 step 3, R281, R282 step 2): from one module, or the live slot from one and the
mirror slot from another. -/
def State.beginCopy (s : State) (c : CtxId) (lost live mirror clearing : Nat) (swap : Option (Nat × Nat)) : State :=
  let s := (s.updCtx c (fun x => { x with
    takeoverOf := [(lost, some s.phys)], takeoverClr := clearing, swapAfter := swap })).send (.takeoverRequest c live)
  if mirror = live then s else s.send (.takeoverRequest c mirror)

/-- TAKEOVER_ORDER_RECEIVE (R279 steps 2 and 3): a hot spare takes the order of the steward and asks the buddy for the lost
module's state. -/
def execTakeoverOrderReceive (c : CtxId) (issuer lost : ModNo) (source : CopySource) (clearing : Nat) (s : State) :
    Host.Outcome State Fault Refusal :=
  .next (
    if !s.fromSteward c issuer.val (some lost.val) then s.badOrder
    else if !s.mayTakeOver lost.val || ((s.ctx c).loaded && !s.shadowing c) then s
    else (s.orderEvent c 6 issuer.val lost.val s.phys 0).beginCopy c lost.val source.live.val source.mirror.val clearing none)

/-- PLANNED_SWAP_START (R282 steps 1 and 2): from the commit of the named step no step of W's contexts is admitted; the
admitted module copies W's state from W. An order from any other than the steward is dropped and counted (R275). -/
def execPlannedSwapStart (c : CtxId) (w admitted : ModNo) (step : Nat) (order : SwapOrder) (s : State) :
    Host.Outcome State Fault Refusal :=
  .next (
    if !s.fromSteward c order.issuer.val (some w.val) then s.badOrder
    else
    let s := s.orderEvent c 6 order.issuer.val w.val admitted.val 0
    let s := if w.val = s.ident then s.holdForSpare c w.val else s
    if admitted.val = s.phys then
      if s.mayTakeOver w.val then s.beginCopy c w.val w.val w.val order.clearing (some (w.val, step)) else s
    else if (s.ctx c).loaded then s.updCtx c (fun x => { x with swapAfter := some (w.val, step) })
    else s)

/-- The ring index a descriptor was read at: its SEQ less 1 (R471). -/
def dIndex (b : List Byte) : BitVec 32 := BitVec.ofNat 32 (dSeq b + 2 ^ 32 - 1)

/-- A discarded step as a takeover record gives it: it waits for its batch, which must have the CRCs of the record (R279
step 7). -/
def stepOfRec (r : TakeoverRec) : Step :=
  let t := newStep r.step r.attempt ⟨dIndex r.desc, .step, r.desc, r.upd⟩ [] []
  { t with state := .discarded, batchWait := true, batchCrcs := r.crcs, provPosted := r.provPosted
           causes := [⟨r.attempt, .moduleLost, 0⟩] }

/-- A context as a takeover restores it (R279, R280): the committed version in live and mirror, the program, the epoch and
the discarded steps; keep, snapshot and stripes are not restored. A record of the committed step gives the update record a null
pointer of the next step selects (R157; log 122). -/
def Ctx.takenOver (x : Ctx) (p : Program) (regions : AL Nat (List (Nat × Nat × Nat))) (ver : Nat) (live mirror : SlotData)
    (epoch : BitVec 16) (recs : List TakeoverRec) (swap : Bool) : Ctx :=
  let y := x.load p regions
  let slot (d : SlotData) : Slot := { state := .committed, version := ver, data := d }
  let i := slotIx y ver
  let open_ := if swap then [] else recs.filter (fun r => decide (ver < r.step))
  { y with
    committed := ver, live := [(i, slot live)], mirror := [(i, slot mirror)], epoch := epoch, fresh := false
    steps := open_.map stepOfRec, attempts := open_.map (fun r => (r.step, r.attempt))
    lastUpd := recs.getLast?.map (fun r => r.upd), commUpd := (recs.find? (fun r => r.step == ver)).map (fun r => r.upd)
    ledger := open_.map (fun r => (⟨r.step, none⟩ : LedgerRec)), ackWait := !swap }

/-- A ring set as a spare starts it (R279 step 6): at the indices of the takeover records, its completion ring full until
its doorbell line is read (log 33). -/
def RingSet.takenOver (size : Nat) (cons0 cons1 prod2 : Nat) (recs : List TakeoverRec) : RingSet :=
  { step := { consumer := BitVec.ofNat 32 cons0, producer := BitVec.ofNat 32 cons0
              flow := recs.map (fun r => (⟨dIndex r.desc, .step, dTag r.desc, none⟩ : Flow)) }
    service := { consumer := BitVec.ofNat 32 cons1, producer := BitVec.ofNat 32 cons1 }
    cpl2 := { next := prod2, consumer := prod2 - min prod2 size } }

/-- The routing table of a clearing at a spare: the one it has, or the first free one, bound to the context (R342, R346). -/
def State.bindTable (s : State) (c : CtxId) (clearing : Nat) : State :=
  match s.tableOf c with
  | some _ => s
  | none =>
    match ctxTables.find? (fun t => !s.tableValid t) with
    | some t => s.rewriteRt (aRtTable t) (fun _ => clearing % 4096 + 4096 * c.val + 65536)
    | none => s

/-- The slices of a CRC list, of which their places alone count (R163). -/
def heldSlices (h : CrcsHeld) : AL Nat Slice :=
  h.slices.zipIdx.map (fun e => (e.2, (⟨e.1.1, e.1.2.1, List.replicate e.1.2.2 0, 0, false, 0⟩ : Slice)))

/-- A copied slot has the CRC list its source holds for it (R163, R279 step 4). -/
def heldAgrees (h : CrcsHeld) (p : Program) (d : SlotData) : Bool := decide (crcList p h.upd (heldSlices h) d = h.crcs)

/-- Both copies have the lists of their source, if it holds lists for the version: a lost module's live slot is a copy of its buddy's
mirror, a swapped module's of its own live slot (R279 step 4, R282 step 3; log 163). -/
def copiesAgree (p : Program) (swap : Bool) (lists : Option CopyLists) (live mirror : SlotData) : Bool :=
  match lists with
  | some l => if swap then heldAgrees l.live p live && heldAgrees l.mirror p mirror else heldAgrees l.mirror p live && heldAgrees l.live p mirror
  | none => true

/-- The ring indices a spare starts from: those of the newest takeover record; with none, and in a swap, those its source sends
(R279 step 6, R282 step 2). -/
def startIndices (swap : Bool) (recs : List TakeoverRec) (cons0 cons1 prod2 : Nat) : Nat × Nat × Nat :=
  match recs.getLast?, swap with
  | some r, false => (r.cons0, r.cons1, r.prod2)
  | _, _ => (cons0, cons1, prod2)

/-- A copy that has been verified takes effect (R279 steps 5 to 7, R282 step 4, R316); a checkpoint under way gets the
contribution of the identity: none of its shard's snapshots survives without a replica (R314). -/
def State.takeIdentity (s : State) (c : CtxId) (lost ver : Nat) (live mirror : SlotData) (p : Program)
    (cons0 cons1 prod2 : Nat) (start : TakeoverPoint) (recs : List TakeoverRec) : State :=
  let x := s.ctx c
  let swap := x.swapAfter.isSome
  let regions := (s.placeAll p).1
  let size := s.ringSize (setOf c) 2
  let s := s.updCtx c (fun x => x.takenOver p regions ver live mirror start.epoch recs swap)
  let s := s.updRing (setOf c) (fun _ => RingSet.takenOver size cons0 cons1 prod2 (if swap then [] else recs.filter (fun r => decide (ver < r.step))))
  let s := { s with
    grove := { s.grove with ident := some (Fin.ofNat 4096 lost), spare := false, sapling := none
                            seqNos := AL.set (groveOf lost) start.seqNo s.grove.seqNos
                            levels := AL.set c (s.commonLevel c) s.grove.levels }
    ckpt := { s.ckpt with stripes := if swap then s.ckpt.stripes else [] } }
  let s := (s.bindTable c x.takeoverClr).send (.takeoverReady c lost)
  let posts := (if swap then [] else recs).filter (fun r => r.provPosted && decide (ver < r.step))
  let s := posts.foldl (fun (s : State) (r : TakeoverRec) =>
    s.postNow c .step ⟨.rolledBack, r.attempt, .moduleLost, dIndex r.desc, 0, r.step, dTag r.desc⟩) s
  let s := if swap then s else s.send (.contribute c .rollbackAck 0)
  let s := match start.ckpt with
    | some n => s.send (.contribute c (.ckptDone n) (if (x.aliveReplica p lost).isNone then 0 else 3))
    | none => s
  s.beaconAll

/-- TAKEOVER_COPY_COMPLETE (R279–R282): the copies end, and the spare forms their CRC lists. Where they differ from the `lists` of the
source the slices are copied again, which gives `again`; a second difference turns to a replica of the lost shard and one of
the partner's, or the state is lost. A sapling that has shadowed W up to the step keeps its own live slot (R282 step 2). -/
def execTakeoverCopyComplete (c : CtxId) (ver : Nat) (live mirror : SlotData) (prog : Program)
    (lists : Option CopyLists) (again : SlotData × SlotData) (cons0 cons1 prod2 : Nat) (start : TakeoverPoint) (recs : List TakeoverRec) (s : State) :
    Host.Outcome State Fault Refusal :=
  .next (
    let x := s.ctx c
    match x.takeoverOf with
    | [(lost, some me)] =>
      if me ≠ s.phys ∨ (x.loaded && !s.shadowing c) = true then s
      else
        let swap := x.swapAfter.isSome
        let own (d : SlotData) : SlotData := if swap && s.shadowing c && x.committed == ver then (x.liveSlot ver).data else d
        let i := startIndices swap recs cons0 cons1 prod2
        let take (l m : SlotData) : State := s.takeIdentity c lost ver l m prog i.1 i.2.1 i.2.2 start recs
        if copiesAgree prog swap lists (own live) mirror then take (own live) mirror
        else if copiesAgree prog swap lists (own again.1) again.2 then take (own again.1) again.2
        else
        match x.aliveReplica prog lost, (buddyOf prog lost).bind (x.aliveReplica prog) with
        | some r, some q => (s.send (.takeoverRequest c r)).send (.takeoverRequest c q)
        | _, _ => (s.updCtx c (fun x => { x with takeoverOf := [] })).memStateLost c
    | _ => s)

/-! ## The route update (R346) -/

/-- The ACTIVE grove port whose far end answers for an identity (R333). -/
def State.portOfIdent (s : State) (m : Nat) : Option PortId :=
  allPorts.find? (fun p => s.isActive p && ((s.port p).beacon.any (fun b => b.ident == m)))

/-- A routing entry: PORT and ALT_PORT at a port, VALID (R343). -/
def entryTo (p : PortId) : Nat := p.val + 64 + 256 * p.val

/-- S builds its own table (R346): grove destinations by their direct ports; each destination of another grove by the grove
port towards the module `gateways` gives for it. -/
def State.buildTable (s : State) (t : Nat) (gateways : List (Nat × Nat)) : State :=
  let near := (List.range 32).map (fun q => 32 * groveOf s.ident + q)
  let put (s : State) (d via : Nat) : State :=
    match s.portOfIdent via with
    | some p => if d < 4096 then s.rewriteRt (aRtEntry t d) (fun _ => entryTo p) else s
    | none => s
  let member (m : Nat) : Bool := m != s.ident &&
    ((s.portOfIdent m).any (fun p => (s.port p).beacon.any (fun b => !b.spare && !b.sapling)))
  let s := (near.filter member).foldl (fun (s : State) m => put s m m) s
  gateways.foldl (fun (s : State) (e : Nat × Nat) => put s e.1 e.2) s

/-- Any other module rewrites the identity's entry to its port towards S, and entries that ran through the identity's
physical module change to their ALT_PORT (R346). -/
def State.rebindRoutes (s : State) (t ident spare : Nat) : State :=
  let old := bitsOf (s.reg (aRtEntry t ident)) 5 0
  let alt (d v : Nat) : Nat := withPort v (bitsOf (s.reg (aRtEntry t d)) 13 8)
  let s :=
    if groveOf ident = groveOf s.phys then
      ((List.range 4096).filter (fun d => groveOf d != groveOf ident && s.routeValid t d &&
        bitsOf (s.reg (aRtEntry t d)) 5 0 == old)).foldl (fun (s : State) d => s.rewriteRt (aRtEntry t d) (alt d)) s
    else s
  match s.portTo spare with
  | some p => s.rewriteRt (aRtEntry t ident) (fun v => withPort v p.val)
  | none =>
    if s.routeValid t spare then
      let port := bitsOf (s.reg (aRtEntry t spare)) 5 0
      s.rewriteRt (aRtEntry t ident) (fun v => withPort v port)
    else s

/-- ROUTE_UPDATE_RECEIVE (R279 step 5, R282 step 5, R346, R457): from the steward. The steward's own update goes on to the
clearing, with the declaration REPLACED (log 34) and, after a loss, the order to rebuild the identity's stripe units (R316). -/
def execRouteUpdateReceive (c : CtxId) (issuer ident spare : ModNo) (gateways : List (Nat × Nat)) (s : State) :
    Host.Outcome State Fault Refusal :=
  .next (
    let mine := s.isSteward c && issuer.val == s.ident
    if !mine && !s.fromSteward c issuer.val none then s.badOrder
    else
      match s.tableOf c with
      | none => s
      | some t =>
        let swap := (s.ctx c).swapAfter.any (fun e => e.1 == ident.val)
        let s := s.endSpareCopy c ident.val
        if spare.val = s.phys then s.buildTable t gateways
        else
          let s := s.rebindRoutes t ident.val spare.val
          if mine then
            let gen := (AL.find? spare.val s.link.gens).getD 0
            let level := ((s.portTo spare.val).bind (fun p => (s.port p).beacon.map (fun b => b.level))).getD
              ((s.bundle.map (·.level)).getD 0)
            let s := (s.send (.routeUpdate c ident.val spare.val)).declare c .replaced ident.val spare.val gen level
            if swap then s else s.send (.stripeRebuild c spare.val (seatOf ident.val))
          else s)

end Sys2Proof.Machine
end

