-- ==== Sys2Proof/Machine/SaplingRun.lean ====
section
/-! DEFINITION. Saplings: the copy, the feed from the module shadowed, the comparison of records, re-execution and admission
(R287–R291). -/

namespace Sys2Proof.Machine

/-- A sapling's run begins at the sapling: the program and the committed version it copied are loaded, with the admission
numbers its register holds (R287, R288, R291). -/
def State.saplingLoad (s : State) (c : CtxId) (w : ModNo) (version acr : Nat) (prog : Program) (slot : SlotData) : State :=
  let cfg := s.reg aSapCfg
  let regions := (s.placeAll prog).1
  let s := s.updCtx c (fun x =>
    let y := x.load prog regions
    { y with committed := version, fresh := false, mirror := []
             live := [(slotIx y version, { state := .committed, version := version, data := slot })] })
  { s with grove := { s.grove with
    sapling := some ⟨c, w, version, acr, bitsOf cfg 15 0, bitsOf cfg 19 16, 0, 0, false, none, [], []⟩ } }

/-- The steward's choice of the module a sapling shadows (R287): one of the clearing that no other sapling shadows; the module it will
replace, else the lowest-numbered. -/
def State.mayShadow (s : State) (c : CtxId) (sapling : Nat) (w : ShadowPlan) : Bool :=
  let open_ := (s.ident :: s.groveMembers c).filter (fun m =>
    (s.ctx c).healthy m && !s.grove.shadows.any (fun e => decide (e.1 = c) && e.2.w == m && e.2.sapling != sapling))
  open_.contains w.w.val && (w.replaces || open_.all (fun m => decide (w.w.val ≤ m)))

/-- SAPLING_START (R287, R288): the steward refuses a sapling that does not implement the job's ACR; the sapling, if it implements the job's ACR,
takes its copy of W's committed version, a pending commit of its register applying at the copy (R291); W sends
it the inputs of the steps in effect, and W and the steward note it. -/
def execSaplingStart (c : CtxId) (sapling : ModNo) (plan : ShadowPlan) (version acr : Nat) (prog : Program) (slot : SlotData) (s : State) :
    Host.Outcome State Fault Refusal :=
  .next (
    let w := plan.w
    if sapling.val = s.phys then
      if s.inClearing || ((s.ctx c).loaded && !s.shadowing c) then s
      else if !s.acrOk acr then s.event (setOf c) .acrUnsupported .none
      else (s.reachPoint .mssSap 0).saplingLoad c w version acr prog slot
    else if s.isSteward c && s.levelBelow sapling.val acr then s.event (setOf c) .acrUnsupported .none
    else if s.isSteward c && !s.mayShadow c sapling.val plan then s
    else if w.val = s.ident ∨ s.isSteward c then
      let cfg := s.reg aSapCfg
      let e : Shadow := ⟨sapling.val, w.val, 0, bitsOf cfg 15 0, 0, bitsOf cfg 19 16, plan.replaces⟩
      let others := s.grove.shadows.filter (fun (q : CtxId × Shadow) => !(decide (q.1 = c) && q.2.sapling == sapling.val))
      let s := { s with grove := { s.grove with shadows := others ++ [(c, e)] } }
      if w.val = s.ident then
        (s.ctx c).steps.foldl (fun (s : State) t =>
          let s := s.feed c (.stepInputs t.number t.desc.bytes t.batch t.upd)
          let s := t.slices.foldl (fun (s : State) (e : Nat × Slice) =>
            s.feed c (.slice t.number e.1 e.2.tensor e.2.first e.2.vals)) s
          if t.clip.isSome || t.nonfinite then s.feed c (.clip t.number t.clip) else s) s
      else s
    else s)

/-- The sapling's run starts again from a fresh copy (R288). -/
def State.saplingAgain (s : State) (c : CtxId) : State :=
  match s.grove.sapling with
  | some g =>
    let s := (s.send (.saplingCopy c g.w.val g.version)).updCtx c (fun _ => {})
    { s with grove := { s.grove with sapling := none } }
  | none => s

/-- A sapling discards its steps from `n` on and runs them again (R288, R290). -/
def State.saplingBack (s : State) (c : CtxId) (n : Nat) (again : Step → Step) : State :=
  let wipe (u : Slot) : Slot := if n ≤ u.version ∧ (u.state = .writing ∨ u.state = .provisional) then { u with state := .free, data := {} } else u
  let ts := (s.ctx c).steps
  let s := s.updCtx c (fun x => ({ x with
    live := x.live.map (fun (e : Fin 3 × Slot) => (e.1, wipe e.2))
    logStacks := x.logStacks.map (fun e => (e.1, e.2.filter (fun l => decide (l.tag.step < n))))
    steps := x.steps.map (fun t => if n ≤ t.number then again t else t) } : Ctx).startOldest)
  let s := ((s.dropWork c (n - 1)).dropTargets c (n - 1)).zeroLanes
  s.placeSteps c (ts.filter (fun t => decide (n ≤ t.number)))

/-- SAPLING_FEED_RECEIVE (R288): what W sends. Step inputs start the next step; one more than 16 steps ahead makes the run
start again; slices and the clip factor stand in for the reductions; a rollback discards as W discards. -/
def execSaplingFeedReceive (c : CtxId) (f : Feed) (s : State) : Host.Outcome State Fault Refusal :=
  .next (
    let x := s.ctx c
    match s.grove.sapling, x.prog with
    | some g, some p =>
      if g.ctx ≠ c ∨ g.admitted = true then s
      else
        match f with
        | .stepInputs n desc batch upd =>
          if x.committed + 16 < n then s.saplingAgain c
          else if n ≠ x.committed + x.steps.length + 1 then s
          else
            let t := newStep n 0 ⟨dIndex desc, .step, desc, upd⟩ batch (x.streamsFrom (x.steps.filter (fun t => decide (t.number < n))))
            let s := s.updCtx c (fun x => (({ x with steps := x.steps ++ [t], lastUpd := some upd } : Ctx).addReader (n - 1)).startOldest)
            s.zeroLanes.placeStep c n
        | .slice n slice tensor first vals =>
          let sl : Slice := ⟨tensor, first, vals, (sliceSumSq vals).getD 0, vals.contains fxrMarker, residueOf vals⟩
          s.updStep c n (fun t => { t with slices := AL.set slice sl t.slices })
        | .clip n k =>
          s.updStep c n (fun t => { t with clip := k, nonfinite := k.isNone, clean := plainGrads p })
        | .rollback n => s.saplingBack c n (fun t => t.again t.streamAt)
    | _, _ => s)

/-- A sapling's step becomes its committed version (R289). -/
def State.saplingCommit (s : State) (c : CtxId) (t : Step) : State :=
  ((s.updCtx c (fun x => (x.commitSlots s.retention t).startOldest)).releaseBlocks c (t.number - 1)).endTargets c t.number

/-- The sapling's state changed. -/
def State.updSapling (s : State) (f : Sapling → Sapling) : State :=
  { s with grove := { s.grove with sapling := s.grove.sapling.map f } }

/-- The shadowing of a sapling in a context. -/
def State.shadowOf (s : State) (c : CtxId) (m : Nat) : Option Shadow :=
  (s.grove.shadows.find? (fun e => decide (e.1 = c) && e.2.sapling == m)).map (fun e => e.2)

/-- The steward's count of a sapling changed. -/
def State.updShadow (s : State) (c : CtxId) (m : Nat) (f : Shadow → Shadow) : State :=
  { s with grove := { s.grove with
    shadows := s.grove.shadows.map (fun (e : CtxId × Shadow) => if e.1 = c ∧ e.2.sapling = m then (e.1, f e.2) else e) } }

/-- A record counted as equal at the sapling; at the number its copy took, it has earned admission (R289). -/
def State.saplingEqual (s : State) (c : CtxId) (g : Sapling) (t : Step) : State :=
  let s := (s.saplingCommit c t).updSapling (fun g => { g with equal := g.equal + 1, reexec := none })
  if g.needed ≤ g.equal + 1 then s.send (.saplingVerdict c true) else s

/-- The steward counts an equal record, and declares the sapling ADMITTED at the number (R289; its receipt of the comparison
is this command, log 35). -/
def State.stewardEqual (s : State) (c : CtxId) (m : Nat) : State :=
  match s.shadowOf c m with
  | some e =>
    let s := s.updShadow c m (fun e => { e with equal := e.equal + 1 })
    if e.needed ≤ e.equal + 1 then
      let near := (s.portTo e.sapling).bind (fun p => (s.port p).beacon)
      s.declare c .admitted e.sapling e.sapling ((near.map (fun b => b.gen)).getD 0)
        ((near.map (fun b => b.level)).getD ((s.bundle.map (·.level)).getD 0))
    else s
  | none => s

/-- The sapling re-executes a step, and those behind it, from its own copy of version N − 1 with what W has sent for them
(R290). -/
def State.saplingRerun (s : State) (c : CtxId) (n : Nat) : State :=
  let fed (t : Step) : Step :=
    { t.again t.streamAt with slices := t.slices, clip := t.clip, nonfinite := t.nonfinite, clean := t.clean }
  s.saplingBack c n fed

/-- SAPLING_STEP_COMPARE (R289, R290): W has committed a step; the sapling forms the compared portion of its own record: if it is W's the
step counts as equal, else the sapling re-executes it. The steward takes the outcome of a comparison. -/
def execSaplingStepCompare (c : CtxId) (step : Nat) (report : CompareReport) (s : State) : Host.Outcome State Fault Refusal :=
  .next (
    match s.grove.sapling, report with
    | some g, .ofW theirs =>
      if g.ctx ≠ c ∨ g.admitted = true ∨ g.reexec.isSome = true then s
      else
        match (s.ctx c).steps with
        | t :: _ =>
          if t.number ≠ step ∨ t.state ≠ .checking then s
          else
            let mine := kiythCompared (s.kiyth c t false)
            if mine = theirs then s.saplingEqual c g t
            else ((s.updSapling (fun g => { g with reexec := some step, first := mine, theirs := theirs })).send
              (.saplingReexecute c step)).saplingRerun c step
        | [] => s
    | _, .verdict m equal => if s.isSteward c && equal then s.stewardEqual c m.val else s
    | none, .ofW _ => s)

/-- The sapling's part of a re-execution's outcome (R290). -/
def State.saplingOutcome (s : State) (c : CtxId) (g : Sapling) (t : Step) (r : ReexecResult) : State :=
  let settle (f : Sapling → Sapling) : State :=
    (s.saplingCommit c t).updSapling (fun g => f { g with reexec := none, first := [], theirs := [] })
  match r with
  | .equalsW => settle (fun g => { g with equal := 0 })
  | .equalsFirst (some true) => s.saplingEqual c g t
  | .equalsFirst _ =>
    if g.limit ≤ g.mismatch + 1 then
      let s := (s.event (setOf c) .saplingRejected .none).send (.saplingVerdict c false)
      { s.updCtx c (fun _ => {}) with grove := { s.grove with sapling := none } }
    else settle (fun g => { g with equal := 0, mismatch := g.mismatch + 1 })

/-- What a re-execution's record says: W's record again is a transient mismatch; else the other hot spare of the grove decides, if it is
admitted and idle, and with none the mismatch counts against the sapling (R290; a record that is neither W's nor the sapling's first
is judged like the first, log 162). -/
def State.reexecResult (s : State) (c : CtxId) (g : Sapling) (t : Step) (third : Option Bool) : ReexecResult :=
  if kiythCompared (s.kiyth c t false) = g.theirs then .equalsW
  else .equalsFirst (if (s.hotSpare c).isSome then third else none)

/-- The steward's and W's part of an outcome (R290): where a third module agrees with the sapling, W takes a module strike and the
steward reports SHADOW_DIVERGED with the step and the first tensor that differs, and the count goes on; else the count starts again,
and a sapling at its limit of counted mismatches shadows no longer. -/
def State.shadowOutcome (s : State) (c : CtxId) (m step tensor : Nat) (r : ReexecResult) : State :=
  match s.shadowOf c m with
  | none => s
  | some e =>
    let s := if decide (r = .equalsFirst (some true)) && e.w == s.ident then s.moduleStrike c else s
    if !s.isSteward c then s
    else
      match r with
      | .equalsFirst (some true) => (s.eventFull (setOf c) .shadowDiverged (.count tensor) false step 0 .event none).stewardEqual c m
      | .equalsW => s.updShadow c m (fun e => { e with equal := 0 })
      | .equalsFirst _ =>
        if e.limit ≤ e.mismatch + 1 then
          { s with grove := { s.grove with
            shadows := s.grove.shadows.filter (fun (q : CtxId × Shadow) => !(decide (q.1 = c) && q.2.sapling == m)) } }
        else s.updShadow c m (fun e => { e with equal := 0, mismatch := e.mismatch + 1 })

/-- SAPLING_REEXECUTE_COMPLETE (R290): at the sapling its re-execution has ended, its record compared again; W and the steward take
the outcome. -/
def execSaplingReexecuteComplete (c : CtxId) (step : Nat) (r : ReexecReport) (tensor : Nat) (s : State) :
    Host.Outcome State Fault Refusal :=
  .next (
    match s.grove.sapling, r with
    | some g, .ended third =>
      match (s.ctx c).steps with
      | t :: _ =>
        if g.ctx = c ∧ g.reexec = some step ∧ t.number = step ∧ t.state = .checking then
          s.saplingOutcome c g t (s.reexecResult c g t third)
        else s
      | [] => s
    | _, .verdict m result => s.shadowOutcome c m.val step tensor result
    | none, .ended _ => s)

end Sys2Proof.Machine
end

