-- ==== Sys2Proof/Machine/Wear.lean ====
section
/-! DEFINITION. Ageing: the monitors' samples, the hourly fit, and what a predicted end of life starts (R283–R286). Values
are whole numbers of a millionth of the clock cycle (slack), the oscillator's and the laser's own units, reports in an
hour, a thousandth of the nominal interval (refresh margin) and 10^-12 (bit error ratio). -/

namespace Sys2Proof.Machine

/-- The indicators of a kind of unit (R283). -/
def indicatorsOf : WearUnit → List Indicator
  | .core _ => [.slack, .ringOsc]
  | .channel _ _ => [.eccRate, .refreshMargin]
  | .laser _ _ => [.laserBias]
  | .port _ => [.portBer]
  | .hub | .linkDie _ | .mssUnit => []

/-- WEAR_SAMPLE (R168, R283): a sample of an indicator its unit has. Of a pseudo-channel's reports `value` is what its stack's scrub has
counted, per hour; those collected here since the last sample, 10 minutes before, join it (log 155). -/
def execWearSample (u : WearUnit) (i : Indicator) (value : Nat) (s : State) : Host.Outcome State Fault Refusal :=
  .next (
    if !(indicatorsOf u).contains i || !s.mssRuns then s
    else
      match u, i with
      | .channel d ch, .eccRate =>
        let n := AL.get 0 (d.val, ch) s.mem.corrected
        { s with mem := { s.mem with corrected := AL.del (d.val, ch) s.mem.corrected } }.takeWear u i (value + 6 * n)
      | _, _ => s.takeWear u i value)

/-- The limit of an indicator as a fraction, given the value at first power-on (R283). -/
def limitOf (i : Indicator) (first : Nat) : Nat × Nat :=
  match i with
  | .slack => (30000, 1)
  | .ringOsc => (92 * first, 100)
  | .eccRate => (100, 1)
  | .refreshMargin => (1500, 1)
  | .laserBias => (13 * first, 10)
  | .portBer => (200000000, 1)

/-- The indicator ages upwards (R283). -/
def agesUp : Indicator → Bool
  | .eccRate | .laserBias | .portBer => true
  | .slack | .ringOsc | .refreshMargin => false

/-- What a fit predicts (R284): nothing, never, or a time in µs as a fraction. -/
inductive Prediction
  | none
  | never
  | inTime (num den : Nat)
  deriving DecidableEq, Repr

/-- Means of a fit over a common denominator: time and scaled mean of each point, and the denominator. -/
def scaledPoints (ps : List (Nat × Nat × Nat)) : List (Int × Int) × Int :=
  let d : Int := (ps.map (fun p => (p.2.2 : Int))).foldl (· * ·) 1
  (ps.map (fun p => ((p.1 : Int), (p.2.1 : Int) * (d / (p.2.2 : Int)))), d)

/-- The prediction of a least-squares line through points, at a time, against a limit (R284), in exact arithmetic. -/
def fitLine (up : Bool) (limit : Nat × Nat) (now : Nat) (ps : List (Nat × Nat × Nat)) : Prediction :=
  let (qs, d) := scaledPoints ps
  let n : Int := qs.length
  let st := (qs.map (fun q => q.1)).foldl (· + ·) 0
  let sy := (qs.map (fun q => q.2)).foldl (· + ·) 0
  let stt := (qs.map (fun q => q.1 * q.1)).foldl (· + ·) 0
  let sty := (qs.map (fun q => q.1 * q.2)).foldl (· + ·) 0
  let v := n * stt - st * st
  let b := n * sty - st * sy
  let y := v * sy + b * (n * now - st)
  let gap := (limit.1 : Int) * d * n * v - (limit.2 : Int) * y
  let rate := (limit.2 : Int) * n * b
  if v = 0 ∨ b = 0 ∨ decide (0 < b) ≠ up then .never
  else if (up = true ∧ gap ≤ 0) ∨ (up = false ∧ 0 ≤ gap) then .inTime 0 1
  else .inTime gap.natAbs rate.natAbs

/-- The prediction of one indicator: one already at its limit predicts 0, however few its means (R284; log 79). -/
def predict (i : Indicator) (now : Nat) (w : WearSt) : Prediction :=
  let limit := limitOf i (w.first.getD 0)
  let need := if i = .refreshMargin then 3 else 24
  if (if agesUp i then limit.1 ≤ w.last * limit.2 else w.last * limit.2 ≤ limit.1) then .inTime 0 1
  else if w.hourly.length < need then .none
  else fitLine (agesUp i) limit now w.hourly

/-- A prediction lies below a number of days. -/
def Prediction.below (p : Prediction) (days : Nat) : Bool :=
  match p with
  | .inTime n d => decide (n < days * 86400000000 * d)
  | .none | .never => false

/-- The hour ends for a monitor: the mean of its samples joins the hourly means, which are kept for FIT_DAYS (R284). The
mean stands in the fit at the end of its hour (R284 does not say; log 132). -/
def closeHour (now days : Nat) (e : (WearUnit × Indicator) × WearSt) : (WearUnit × Indicator) × WearSt :=
  let w := e.2
  let h := if e.1.2 ≠ .refreshMargin ∧ 0 < w.count then (now, w.sum, w.count) :: w.hourly else w.hourly
  (e.1, { w with hourly := h.filter (fun p => decide (now < p.1 + days * 86400000000)), sum := 0, count := 0 })

/-- Units with a monitor, in the monitors' order. -/
def State.wornUnits (s : State) : List WearUnit := (s.mss.wear.map (fun (e : (WearUnit × Indicator) × WearSt) => e.1.1)).eraseDups

/-- A unit's prediction lies below the threshold: its smallest one does (R284, R286). -/
def State.unitWorn (s : State) (u : WearUnit) (days : Nat) : Bool :=
  s.mss.wear.any (fun (e : (WearUnit × Indicator) × WearSt) => decide (e.1.1 = u) && (predict e.1.2 s.now e.2).below days)

/-- A unit's monitors changed. -/
def State.updWear (s : State) (u : WearUnit) (f : WearSt → WearSt) : State :=
  { s with mss := { s.mss with wear := s.mss.wear.map (fun (e : (WearUnit × Indicator) × WearSt) => if e.1.1 = u then (e.1, f e.2) else e) } }

/-- Some monitor of a unit. -/
def State.anyWear (s : State) (u : WearUnit) (f : WearSt → Bool) : Bool :=
  s.mss.wear.any (fun (e : (WearUnit × Indicator) × WearSt) => decide (e.1.1 = u) && f e.2)

/-- A worn unit is reported with EOL_PREDICTED, once; while AUTO is 1 the command processor is told through the mailbox to act, once
(R20, R286). -/
def State.eolUnit (s : State) (days : Nat) (auto : Bool) (u : WearUnit) : State :=
  if !s.unitWorn u days then s
  else
    let s := if s.anyWear u (·.told) then s else (s.updWear u (fun w => { w with told := true })).modEvent .eolPredicted
    if auto && !s.anyWear u (·.acted) then
      ((s.updWear u (fun w => { w with acted := true })).postMbox false (.worn u)).deliverMbox
    else s

/-- EOL_EVALUATION (R284–R286): once an hour, while the MSS runs, a pending commit of the policy applies, every
monitor's hour ends and its unit is judged. -/
def execEolEvaluation (s : State) : Host.Outcome State Fault Refusal :=
  .next (
    if !s.mssRuns || decide (s.now < s.mss.eolAt + 3600000000) then s
    else
      let s := s.reachPoint .mssEol 0
      let r := s.reg aEolPol
      let s := { s with mss := { s.mss with eolAt := s.now, wear := s.mss.wear.map (closeHour s.now (bitsOf r 15 8)) } }
      let s := if s.noSteps then s.eolBoundary else s
      s.wornUnits.foldl (fun (s : State) u => s.eolUnit (bitsOf r 7 0) (bitOf r 16) u) s)

end Sys2Proof.Machine
end

