-- ==== Sys2Proof/Machine/Woodpile.lean ====
section
/-! DEFINITION. The woodpile: pushes, pops and the release of logs (R130–R138). -/

namespace Sys2Proof.Machine

/-- Words 0 to 5 of a log tag (R133). -/
def logTagBytes (t : LogTag) : List Byte :=
  leBytes 4 (t.tensor % 65536 + t.inst % 256 * 2 ^ 16 + t.ctx % 16 * 2 ^ 24 + t.turned.toNat * 2 ^ 28 + t.last.toNat * 2 ^ 29) ++
  leBytes 4 (t.layer % 65536) ++ leBytes 4 t.part ++ leBytes 4 (t.step % 2 ^ 32) ++
  leBytes 4 (t.step / 2 ^ 32 % 65536 + t.epoch % 256 * 2 ^ 16 + t.fmt % 16 * 2 ^ 24) ++ leBytes 4 t.bytes

/-- A tag equals the one a pop names, LAST and BYTES apart (R134). -/
def tagExpected (want found : LogTag) : Bool := decide ({ found with last := want.last, bytes := want.bytes } = want)

/-- A step runs its backward pass, or its update has begun and late work is re-run (R128, R152). -/
def Ctx.runsBack (x : Ctx) (n : Nat) : Bool :=
  match x.stepNo n with
  | some t => decide (t.state = .backward) || decide (t.state = .update)
  | none => false

/-! ## Pushes (R130, R133, R135, R138) -/

/-- An instance as its logs store it (R135): in the turned layout every whole block of 64 rows by 64 bytes is transposed in its
place (log 120). -/
def logLayout (d : PushDecl) (bytes : List Byte) : List Byte :=
  if !d.turned || d.rowBytes == 0 then bytes
  else
    let rows := bytes.length / d.rowBytes
    bytes.zipIdx.map (fun e =>
      let r := e.2 / d.rowBytes
      let q := e.2 % d.rowBytes
      if 64 * (r / 64) + 64 ≤ rows ∧ 64 * (q / 64) + 64 ≤ d.rowBytes then
        bytes.getD ((64 * (r / 64) + q % 64) * d.rowBytes + 64 * (q / 64) + r % 64) 0
      else e.1)

/-- The tag of log `part` of an instance (R133). -/
def State.pushTag (s : State) (c : CtxId) (n mb : Nat) (d : PushDecl) (bytes part : Nat) : LogTag :=
  { tensor := d.tensor, inst := mb, ctx := c.val, turned := d.turned, last := decide (bytes ≤ 2097152 * (part + 1))
    layer := d.layer, part := part, step := n, epoch := ((s.recNow c n d.tensor mb).map (·.epoch)).getD 0, fmt := d.fmt
    bytes := min 2097152 (bytes - 2097152 * part) }

/-- The read of a block a push makes: VX reads it for the turned layout, with its tag (R125, R135); for the row layout the core DMA
does, which waits for a whole block (R122). -/
def State.pushRead (s : State) (c : CtxId) (n : Nat) (d : PushDecl) (e : CoreId × BlockRef) : ReadOut :=
  let b := (s.core e.1).block e.2.block
  if d.turned then s.readRef e.1 c n true e.2
  else if b.whole = false then .wait
  else if b.tagOk && b.dataOk then .ok else .parity

/-- An instance pushed: its logs, bottom first (R130). -/
def State.pushInstance (s : State) (c : CtxId) (n mb : Nat) (d : PushDecl) (payload : List Byte) (core : CoreId) : State :=
  (List.range (cdiv payload.length 2097152)).foldl (fun (s : State) part =>
    s.pushLog c mb (s.pushTag c n mb d payload.length part) ((payload.drop (2097152 * part)).take 2097152) core)
    (s.chargePart c 3 payload.length)

/-- WOODPILE_PUSH (R130, R133, R135, R138): an instance of a tensor the program pushes, read from scratchpad blocks, becomes logs
with their tags on top of its micro-batch's stack; a log waits, or stops the step. The tags are the tag directory. -/
def execWoodpilePush (c : CtxId) (mb tensor : Nat) (src : PushSrc) (s : State) :
    Host.Outcome State Fault Refusal :=
  .next (
    match ((s.ctx c).prog.bind (fun p => p.pushDecls.find? (fun d => d.tensor == tensor))), src.blocks with
    | some d, e :: _ =>
      let n := s.opStep e.1 c (src.blocks.map (fun e => e.2))
      let size := if d.elastic then src.bytes else d.bytes
      if ((s.ctx c).stepNo n).isNone || src.blocks.length != cdiv size 2048 then s
      else
        match src.blocks.find? (fun e => decide (s.pushRead c n d e ≠ .ok)) with
        | some b => s.badRead b.1 c n { op := tensor } b.2 (s.pushRead c n d b)
        | none =>
          let data := (src.blocks.flatMap (fun e =>
            let bs := ((s.core e.1).block e.2.block).bytes
            bs ++ List.replicate (2048 - bs.length) 0)).take size
          s.pushInstance c n mb d (logLayout d data) e.1
    | _, _ => s)

/-! ## Pops and releases (R134, R136) -/

/-- The top of a stack: the first log not yet popped. -/
def stackTop (l : List WLog) : Option WLog := l.find? (fun w => !w.popped)

/-- The top of a stack popped; the log stays until its release (R136). -/
def popTop : List WLog → List WLog
  | [] => []
  | w :: ws => if w.popped then w :: popTop ws else { w with popped := true } :: ws

/-- WOODPILE_POP (R130, R134): the log at the top is read if its tag is the one expected, into scratchpad blocks with their tags;
else the check fails, nothing is read, and it is arbitrated as a tag mismatch. A pop of a stack that holds no log has no effect:
the spec does not say what it does (DESIGN CHOICE, log 121). -/
def execWoodpilePop (core : CoreId) (c : CtxId) (mb : Nat) (pop : LogPop) (s : State) : Host.Outcome State Fault Refusal :=
  .next (
    let x := s.ctx c
    let expect := pop.expect
    if !x.runsBack expect.step || x.paused || (s.core core).status ≠ .active || s.inReset (.core core) then s
    else
      match s.badUpset (fun _ l => match l with
        | .woodpile d m _ => decide (d = c) && m == mb
        | _ => false) with
      | some s' => s'
      | none =>
      match stackTop (AL.get [] mb x.logStacks) with
      | none => s
      | some w =>
        if !tagExpected expect w.tag then
          s.checkFailed core c expect.step .logTag .woodpileTagMismatch 0x0A
            { tensor := expect.tensor, inst := expect.inst, tile := expect.part }
            (crc64 (logTagBytes expect)) (crc64 (logTagBytes w.tag)) { writer := some w.core, atSource := true }
        else if pop.dst.length ≠ cdiv w.payload.length 2048 then s
        else
          ((s.chargePart c 3 w.payload.length).updCtx c (fun x => { x with logStacks := AL.upd [] mb popTop x.logStacks })).updCore core (fun k =>
            k.putBlocks (s.runBlocks c expect.step pop.dst w.payload)))

/-- The outputs of the products that read a log (R136). -/
def Ctx.logFeeds (x : Ctx) (tensor : Nat) : List Nat :=
  ((x.prog.bind (fun p => p.pushDecls.find? (fun d => d.tensor == tensor))).map (·.feeds)).getD []

/-- FXR64 gradient tensors of a program (R145). -/
def Ctx.fxrGrads (x : Ctx) : List Nat :=
  (((x.prog.map (·.gradTensors)).getD []).filter (fun g => !g.2.1)).map (fun g => g.1)

/-- A log may be released (R136): it is popped; every product that reads it has run and passed its checks, with no arbitration of its
step about its tensor or an output it feeds; the FXR64 gradients it feeds have been reduced clean. -/
def State.mayRelease (s : State) (c : CtxId) (w : WLog) : Bool :=
  let x := s.ctx c
  let feeds := x.logFeeds w.tag.tensor
  let busy := s.cores.tbl.any (fun e => e.2.arbs.any (fun a => decide (a.ctx = c) && a.step == w.tag.step &&
    (a.place.tensor == w.tag.tensor || feeds.contains a.place.tensor)))
  let run := s.noneLeft c w.tag.step (fun o => feeds.contains o.outTensor && o.outInst == w.tag.inst)
  let clean := match x.stepNo w.tag.step with
    | some t => (feeds.filter (fun g => x.fxrGrads.contains g)).all (fun g => t.clean.contains g)
    | none => true
  w.popped && run && !busy && clean

/-- LOG_RELEASE (R136): a popped log whose readers, reductions and referees are done becomes free; a waiting push may then
go on (R138). Of the logs of this part of the tensor on the stack it is the one of the earliest step. -/
def execLogRelease (c : CtxId) (mb tensor part : Nat) (s : State) : Host.Outcome State Fault Refusal :=
  .next (
    match ((AL.get [] mb (s.ctx c).logStacks).filter (fun w => w.tag.tensor == tensor && w.tag.part == part)).getLast? with
    | none => s
    | some w =>
      if s.mayRelease c w then
        (s.updCtx c (fun x => { x with
          logStacks := AL.upd [] mb (fun l => l.filter (fun v => decide (v.tag ≠ w.tag))) x.logStacks })).retryPushes c
      else s)

end Sys2Proof.Machine
end

