-- ==== Sys2Proof/Machine/Dispatch.lean ====
section
/-! DEFINITION. The dispatcher: one arm per command, each a call of its meaning. -/

namespace Sys2Proof.Machine

def exec (i : Instr) (s : State) : Host.Outcome State Fault Refusal :=
  match i with
  | .doorbellSnoop set line => Sys2Proof.Machine.execDoorbellSnoop set line s
  | .doorbellPeriodicRead lines => Sys2Proof.Machine.execDoorbellPeriodicRead lines s
  | .descriptorHeadCheck c ring desc update => Sys2Proof.Machine.execDescriptorHeadCheck c ring desc update s
  | .loadProgram c image => Sys2Proof.Machine.execLoadProgram c image s
  | .unloadProgram c => Sys2Proof.Machine.execUnloadProgram c s
  | .step c batch => Sys2Proof.Machine.execStep c batch s
  | .generate c input => Sys2Proof.Machine.execGenerate c input s
  | .replay c => Sys2Proof.Machine.execReplay c s
  | .restore c input => Sys2Proof.Machine.execRestore c input s
  | .acrSwitch c image => Sys2Proof.Machine.execAcrSwitch c image s
  | .upload c blocks => Sys2Proof.Machine.execUpload c blocks s
  | .checkpoint c => Sys2Proof.Machine.execCheckpoint c s
  | .exportSnapshot c accepted => Sys2Proof.Machine.execExportSnapshot c accepted s
  | .exportRelease c => Sys2Proof.Machine.execExportRelease c s
  | .importSnapshot c => Sys2Proof.Machine.execImportSnapshot c s
  | .fieldTest c => Sys2Proof.Machine.execFieldTest c s
  | .windowMap c => Sys2Proof.Machine.execWindowMap c s
  | .windowUnmap c => Sys2Proof.Machine.execWindowUnmap c s
  | .progressRecordWrite set => Sys2Proof.Machine.execProgressRecordWrite set s
  | .pause c w => Sys2Proof.Machine.execPause c w s
  | .resume c w => Sys2Proof.Machine.execResume c w s
  | .restart0 c w => Sys2Proof.Machine.execRestart0 c w s
  | .restart1 c w => Sys2Proof.Machine.execRestart1 c w s
  | .pauseResumeMessage c src pause => Sys2Proof.Machine.execPauseResumeMessage c src pause s
  | .coreStateSave c => Sys2Proof.Machine.execCoreStateSave c s
  | .pageResponse id resp => Sys2Proof.Machine.execPageResponse id resp s
  | .pagePauseTimeout id => Sys2Proof.Machine.execPagePauseTimeout id s
  | .pageRequestTimeout id => Sys2Proof.Machine.execPageRequestTimeout id s
  | .atsInvalidation p page => Sys2Proof.Machine.execAtsInvalidation p page s
  | .cxlPortFailover p inPlace => Sys2Proof.Machine.execCxlPortFailover p inPlace s
  | .bothPortsUnusableTimeout => Sys2Proof.Machine.execBothPortsUnusableTimeout s
  | .perstAssert p => Sys2Proof.Machine.execPerstAssert p s
  | .perstDeassert p => Sys2Proof.Machine.execPerstDeassert p s
  | .cxlLinkTrained p width rate ats pasid pri => Sys2Proof.Machine.execCxlLinkTrained p width rate ats pasid pri s
  | .windowHostRead p line cached parity => Sys2Proof.Machine.execWindowHostRead p line cached parity s
  | .windowHostWrite p addr bytes => Sys2Proof.Machine.execWindowHostWrite p addr bytes s
  | .backInvalidateResponse line => Sys2Proof.Machine.execBackInvalidateResponse line s
  | .batchingWindowElapse c => Sys2Proof.Machine.execBatchingWindowElapse c s
  | .generateOutputWrite c outputs faults => Sys2Proof.Machine.execGenerateOutputWrite c outputs faults s
  | .stepForwardComplete c => Sys2Proof.Machine.execStepForwardComplete c s
  | .stepReductionsClean c => Sys2Proof.Machine.execStepReductionsClean c s
  | .updateWritten c => Sys2Proof.Machine.execUpdateWritten c s
  | .nextStepForwardStart c layer => Sys2Proof.Machine.execNextStepForwardStart c layer s
  | .localResultKnown c step => Sys2Proof.Machine.execLocalResultKnown c step s
  | .voteReduced c step mask duration noPage => Sys2Proof.Machine.execVoteReduced c step mask duration noPage s
  | .rollbackAckComplete c => Sys2Proof.Machine.execRollbackAckComplete c s
  | .keepCopyComplete c => Sys2Proof.Machine.execKeepCopyComplete c s
  | .swapFrontDepart core pass fault => Sys2Proof.Machine.execSwapFrontDepart core pass fault s
  | .broadcastSwap core pass fault => Sys2Proof.Machine.execBroadcastSwap core pass fault s
  | .mxPassComplete core fault => Sys2Proof.Machine.execMxPassComplete core fault s
  | .vxInstruction core op srcs dst ctx key parityBad fault => Sys2Proof.Machine.execVxInstruction core op srcs dst ctx key parityBad fault s
  | .rakeReduction core op fmt src lanes index ctx entry dest fault => Sys2Proof.Machine.execRakeReduction core op fmt src lanes index ctx entry dest fault s
  | .scanOperation core op part dst ctx tensor fault => Sys2Proof.Machine.execScanOperation core op part dst ctx tensor fault s
  | .coreDmaFill core ctx dva dst parity hardFault => Sys2Proof.Machine.execCoreDmaFill core ctx dva dst parity hardFault s
  | .woodpilePush c mb tensor src => Sys2Proof.Machine.execWoodpilePush c mb tensor src s
  | .woodpilePop core c mb pop => Sys2Proof.Machine.execWoodpilePop core c mb pop s
  | .logRelease c mb tensor part => Sys2Proof.Machine.execLogRelease c mb tensor part s
  | .gradientContributionEntry core c place src acc => Sys2Proof.Machine.execGradientContributionEntry core c place src acc s
  | .gather c tensor => Sys2Proof.Machine.execGather c tensor s
  | .sliceLand c slice tensor first vals residue => Sys2Proof.Machine.execSliceLand c slice tensor first vals residue s
  | .normAllReduceComplete c qn => Sys2Proof.Machine.execNormAllReduceComplete c qn s
  | .buddySliceReceive c step slice tensor first vals update => Sys2Proof.Machine.execBuddySliceReceive c step slice tensor first vals update s
  | .scaleReplayDecision c tensor inst q => Sys2Proof.Machine.execScaleReplayDecision c tensor inst q s
  | .scaleVersionTimeout core c tensor inst tile => Sys2Proof.Machine.execScaleVersionTimeout core c tensor inst tile s
  | .scaleHistoryMerge c tensor => Sys2Proof.Machine.execScaleHistoryMerge c tensor s
  | .collectiveContributionArrive c stream seq block tensor epoch vals residue markers amax overflow hopFault => Sys2Proof.Machine.execCollectiveContributionArrive c stream seq block tensor epoch vals residue markers amax overflow hopFault s
  | .reductionComplete c tensor amax overflow => Sys2Proof.Machine.execReductionComplete c tensor amax overflow s
  | .cacheReduction op core c dva src tensor inst parityBad => Sys2Proof.Machine.execCacheReduction op core c dva src tensor inst parityBad s
  | .cacheAtomic op dpa parityBad => Sys2Proof.Machine.execCacheAtomic op dpa parityBad s
  | .refereeRecomputeComplete primary finding => Sys2Proof.Machine.execRefereeRecomputeComplete primary finding s
  | .strikeExpiry core => Sys2Proof.Machine.execStrikeExpiry core s
  | .acceptanceTestComplete core pass => Sys2Proof.Machine.execAcceptanceTestComplete core pass s
  | .graft d => Sys2Proof.Machine.execGraft d s
  | .coreTimeout core c cycles bound mx => Sys2Proof.Machine.execCoreTimeout core c cycles bound mx s
  | .digestExchangeReceive c step digest crcs mirrorDigest mirrorCrcs => Sys2Proof.Machine.execDigestExchangeReceive c step digest crcs mirrorDigest mirrorCrcs s
  | .digestRecomputeComplete c step entry ownShard own peer ownWritten peerWritten => Sys2Proof.Machine.execDigestRecomputeComplete c step entry ownShard own peer ownWritten peerWritten s
  | .refereeShipmentReceive c step entry modA modB versA versB gradA gradB result replicaCrc aRight => Sys2Proof.Machine.execRefereeShipmentReceive c step entry modA modB versA versB gradA gradB result replicaCrc aRight s
  | .refereeModuleResult c step entry ownShard finding => Sys2Proof.Machine.execRefereeModuleResult c step entry ownShard finding s
  | .moduleStrikeReportReceive c m => Sys2Proof.Machine.execModuleStrikeReportReceive c m s
  | .fieldTestCaseComplete core caseNo ref tested ownChecksOk refChecksOk temp shape => Sys2Proof.Machine.execFieldTestCaseComplete core caseNo ref tested ownChecksOk refChecksOk temp shape s
  | .rollingTestCoreSwitch => Sys2Proof.Machine.execRollingTestCoreSwitch s
  | .conditionalUseBoundary core temp => Sys2Proof.Machine.execConditionalUseBoundary core temp s
  | .refetchRequestReceive c src fromMirror version granule parityBad => Sys2Proof.Machine.execRefetchRequestReceive c src fromMirror version granule parityBad s
  | .refetchReplyReceive c loc granted parityOk secondOk => Sys2Proof.Machine.execRefetchReplyReceive c loc granted parityOk secondOk s
  | .patrolScrubRead d ch bad => Sys2Proof.Machine.execPatrolScrubRead d ch bad s
  | .mapoutCopyComplete d logical => Sys2Proof.Machine.execMapoutCopyComplete d logical s
  | .mapoutSwitch d logical => Sys2Proof.Machine.execMapoutSwitch d logical s
  | .domainResetComplete d => Sys2Proof.Machine.execDomainResetComplete d s
  | .resetSpacingRelease d => Sys2Proof.Machine.execResetSpacingRelease d s
  | .queueLifeExpiry lane p => Sys2Proof.Machine.execQueueLifeExpiry lane p s
  | .mssWatchdogExpire => Sys2Proof.Machine.execMssWatchdogExpire s
  | .mssLockstepMismatch => Sys2Proof.Machine.execMssLockstepMismatch s
  | .mssResumeTimeout => Sys2Proof.Machine.execMssResumeTimeout s
  | .cpWatchdogExpire => Sys2Proof.Machine.execCpWatchdogExpire s
  | .mssMailboxMessage toMss msg => Sys2Proof.Machine.execMssMailboxMessage toMss msg s
  | .peerTimeout c peer bytes elapsed refetch => Sys2Proof.Machine.execPeerTimeout c peer bytes elapsed refetch s
  | .suspectReceive c src peer => Sys2Proof.Machine.execSuspectReceive c src peer s
  | .probeReceive src path => Sys2Proof.Machine.execProbeReceive src path s
  | .probeReplyReceive c peer paths progress => Sys2Proof.Machine.execProbeReplyReceive c peer paths progress s
  | .probeTimeout c peer => Sys2Proof.Machine.execProbeTimeout c peer s
  | .moduleSelfFenceReceive c peer => Sys2Proof.Machine.execModuleSelfFenceReceive c peer s
  | .declarationReceive c kind issuer seqNo subject physical gen level => Sys2Proof.Machine.execDeclarationReceive c kind issuer seqNo subject physical gen level s
  | .rollbackOrderReceive c issuer epoch => Sys2Proof.Machine.execRollbackOrderReceive c issuer epoch s
  | .takeoverOrderReceive c issuer lost buddy clearing => Sys2Proof.Machine.execTakeoverOrderReceive c issuer lost buddy clearing s
  | .takeoverCopyComplete c ver live mirror prog firstDiff secondDiff cons0 cons1 prod2 epoch recs => Sys2Proof.Machine.execTakeoverCopyComplete c ver live mirror prog firstDiff secondDiff cons0 cons1 prod2 epoch recs s
  | .routeUpdateReceive c issuer ident spare gateways => Sys2Proof.Machine.execRouteUpdateReceive c issuer ident spare gateways s
  | .takeoverRecordReceive c src step attempt desc upd cons0 cons1 prod2 provPosted crcs => Sys2Proof.Machine.execTakeoverRecordReceive c src step attempt desc upd cons0 cons1 prod2 provPosted crcs s
  | .plannedSwapStart c w admitted step clearing => Sys2Proof.Machine.execPlannedSwapStart c w admitted step clearing s
  | .wearSample u k value => Sys2Proof.Machine.execWearSample u k value s
  | .eolEvaluation => Sys2Proof.Machine.execEolEvaluation s
  | .saplingStart c sapling w version acr prog slot => Sys2Proof.Machine.execSaplingStart c sapling w version acr prog slot s
  | .saplingFeedReceive c f => Sys2Proof.Machine.execSaplingFeedReceive c f s
  | .saplingStepCompare c step equal => Sys2Proof.Machine.execSaplingStepCompare c step equal s
  | .saplingReexecuteComplete c step r tensor => Sys2Proof.Machine.execSaplingReexecuteComplete c step r tensor s
  | .checkpointBusyReduced c busy => Sys2Proof.Machine.execCheckpointBusyReduced c busy s
  | .quickCopyComplete c => Sys2Proof.Machine.execQuickCopyComplete c s
  | .seedbankCommandComplete c ok => Sys2Proof.Machine.execSeedbankCommandComplete c ok s
  | .stripeReservationReceive writer wctx set rows => Sys2Proof.Machine.execStripeReservationReceive writer wctx set rows s
  | .stripeUnitReceive src wctx set seat row unit bytes parityOk => Sys2Proof.Machine.execStripeUnitReceive src wctx set seat row unit bytes parityOk s
  | .stripeAckReceive c pos row unit crcOk => Sys2Proof.Machine.execStripeAckReceive c pos row unit crcOk s
  | .checkpointCompletionReduced c step sx g => Sys2Proof.Machine.execCheckpointCompletionReduced c step sx g s
  | .stripeRebuildOrder issuer lost => Sys2Proof.Machine.execStripeRebuildOrder issuer lost s
  | .seedbankRestoreBlockReceive c src index bytes => Sys2Proof.Machine.execSeedbankRestoreBlockReceive c src index bytes s
  | .restoreMirrorCopyReceive c data leavesOk => Sys2Proof.Machine.execRestoreMirrorCopyReceive c data leavesOk s
  | .restoreVoteReduced c mask => Sys2Proof.Machine.execRestoreVoteReduced c mask s
  | .replayAllocationReduced c mask inputs => Sys2Proof.Machine.execReplayAllocationReduced c mask inputs s
  | .exportImageReceive c src srcClearing receipt sigOk image => Sys2Proof.Machine.execExportImageReceive c src srcClearing receipt sigOk image s
  | .flitReceive p f fecBad => Sys2Proof.Machine.execFlitReceive p f fecBad s
  | .idleFlitTimer p => Sys2Proof.Machine.execIdleFlitTimer p s
  | .linkPortDown p cause => Sys2Proof.Machine.execLinkPortDown p cause s
  | .laserLossOfLight ld ch => Sys2Proof.Machine.execLaserLossOfLight ld ch s
  | .portHoldOffExpire p => Sys2Proof.Machine.execPortHoldOffExpire p s
  | .portTrainingStageComplete p stage => Sys2Proof.Machine.execPortTrainingStageComplete p stage s
  | .bringUpStageTimeout p => Sys2Proof.Machine.execBringUpStageTimeout p s
  | .beaconTimer p => Sys2Proof.Machine.execBeaconTimer p s
  | .beaconReceive p b => Sys2Proof.Machine.execBeaconReceive p b s
  | .markerReceive p lane => Sys2Proof.Machine.execMarkerReceive p lane s
  | .packetReceive p lane h => Sys2Proof.Machine.execPacketReceive p lane h s
  | .dropNoticeReceive c src reason => Sys2Proof.Machine.execDropNoticeReceive c src reason s
  | .generationNoticeReceive src gen => Sys2Proof.Machine.execGenerationNoticeReceive src gen s
  | .controlTreeContribution c k sender fromSteward mask => Sys2Proof.Machine.execControlTreeContribution c k sender fromSteward mask s
  | .transitCapWindow p => Sys2Proof.Machine.execTransitCapWindow p s
  | .berReport p ber => Sys2Proof.Machine.execBerReport p ber s
  | .sensorSample sx value => Sys2Proof.Machine.execSensorSample sx value s
  | .powerLoopEvaluation averageW => Sys2Proof.Machine.execPowerLoopEvaluation averageW s
  | .junctionThrottle d temp => Sys2Proof.Machine.execJunctionThrottle d temp s
  | .stackThrottle d temps => Sys2Proof.Machine.execStackThrottle d temps s
  | .brakeValueCompute predicted => Sys2Proof.Machine.execBrakeValueCompute predicted s
  | .pwrBrakeAssert => Sys2Proof.Machine.execPwrBrakeAssert s
  | .pwrBrakeRelease => Sys2Proof.Machine.execPwrBrakeRelease s
  | .thermalTrip sensor temp => Sys2Proof.Machine.execThermalTrip sensor temp s
  | .thermalTripRelease junctions stackTemps => Sys2Proof.Machine.execThermalTripRelease junctions stackTemps s
  | .profileSelectApply => Sys2Proof.Machine.execProfileSelectApply s
  | .selectProfile slot => Sys2Proof.Machine.execSelectProfile slot s
  | .readLog first count => Sys2Proof.Machine.execReadLog first count s
  | .clearLog token => Sys2Proof.Machine.execClearLog token s
  | .commitSecurityVersion sigOk => Sys2Proof.Machine.execCommitSecurityVersion sigOk s
  | .mapOutChannel d ch => Sys2Proof.Machine.execMapOutChannel d ch s
  | .releasePrunedCore core => Sys2Proof.Machine.execReleasePrunedCore core s
  | .startMargining d ch => Sys2Proof.Machine.execStartMargining d ch s
  | .debugUnlock token => Sys2Proof.Machine.execDebugUnlock token s
  | .debugNonceRead tapDie => Sys2Proof.Machine.execDebugNonceRead tapDie s
  | .debugTokenPresent token => Sys2Proof.Machine.execDebugTokenPresent token s
  | .setTid tid => Sys2Proof.Machine.execSetTid tid s
  | .getTid => Sys2Proof.Machine.execGetTid s
  | .getPldmVersion type => Sys2Proof.Machine.execGetPldmVersion type s
  | .getPldmTypes => Sys2Proof.Machine.execGetPldmTypes s
  | .getPldmCommands type => Sys2Proof.Machine.execGetPldmCommands type s
  | .getPdrRepositoryInfo => Sys2Proof.Machine.execGetPdrRepositoryInfo s
  | .getPdr handle => Sys2Proof.Machine.execGetPdr handle s
  | .getSensorReading id => Sys2Proof.Machine.execGetSensorReading id s
  | .getStateSensorReadings id => Sys2Proof.Machine.execGetStateSensorReadings id s
  | .setEventReceiver eid => Sys2Proof.Machine.execSetEventReceiver eid s
  | .eventMessageBufferSize size => Sys2Proof.Machine.execEventMessageBufferSize size s
  | .pollForPlatformEventMessage ack => Sys2Proof.Machine.execPollForPlatformEventMessage ack s
  | .queryDeviceIdentifiers => Sys2Proof.Machine.execQueryDeviceIdentifiers s
  | .getFirmwareParameters => Sys2Proof.Machine.execGetFirmwareParameters s
  | .requestUpdate => Sys2Proof.Machine.execRequestUpdate s
  | .passComponentTable ids => Sys2Proof.Machine.execPassComponentTable ids s
  | .updateComponent comp size => Sys2Proof.Machine.execUpdateComponent comp size s
  | .firmwareDataResponse bytes => Sys2Proof.Machine.execFirmwareDataResponse bytes s
  | .transferComplete => Sys2Proof.Machine.execTransferComplete s
  | .verifyComplete staged => Sys2Proof.Machine.execVerifyComplete staged s
  | .applyComplete => Sys2Proof.Machine.execApplyComplete s
  | .activateFirmware => Sys2Proof.Machine.execActivateFirmware s
  | .getStatus => Sys2Proof.Machine.execGetStatus s
  | .cancelUpdateComponent => Sys2Proof.Machine.execCancelUpdateComponent s
  | .cancelUpdate => Sys2Proof.Machine.execCancelUpdate s
  | .getVersion path => Sys2Proof.Machine.execGetVersion path s
  | .getCapabilities path => Sys2Proof.Machine.execGetCapabilities path s
  | .negotiateAlgorithms path supported => Sys2Proof.Machine.execNegotiateAlgorithms path supported s
  | .getDigests path => Sys2Proof.Machine.execGetDigests path s
  | .getCertificate path slot off len => Sys2Proof.Machine.execGetCertificate path slot off len s
  | .challenge path slot nonce => Sys2Proof.Machine.execChallenge path slot nonce s
  | .getMeasurements path index => Sys2Proof.Machine.execGetMeasurements path index s
  | .keyExchange path => Sys2Proof.Machine.execKeyExchange path s
  | .finish session macOk => Sys2Proof.Machine.execFinish session macOk s
  | .heartbeat session => Sys2Proof.Machine.execHeartbeat session s
  | .keyUpdate session => Sys2Proof.Machine.execKeyUpdate session s
  | .endSession session => Sys2Proof.Machine.execEndSession session s
  | .query session p => Sys2Proof.Machine.execQuery session p s
  | .keyProg session p st keySet key => Sys2Proof.Machine.execKeyProg session p st keySet key s
  | .kSetGo session p st keySet => Sys2Proof.Machine.execKSetGo session p st keySet s
  | .kSetStop session p st keySet => Sys2Proof.Machine.execKSetStop session p st keySet s
  | .guestRequest addr write bytes len => Sys2Proof.Machine.execGuestRequest addr write bytes len s
  | .guestTimeout => Sys2Proof.Machine.execGuestTimeout s
  | .modResetNAssert nanoseconds => Sys2Proof.Machine.execModResetNAssert nanoseconds s
  | .modResetNRelease profileSel => Sys2Proof.Machine.execModResetNRelease profileSel s
  | .mainPowerLoss => Sys2Proof.Machine.execMainPowerLoss s
  | .mainPowerReturn => Sys2Proof.Machine.execMainPowerReturn s
  | .refclkLost => Sys2Proof.Machine.execRefclkLost s
  | .refclkReturn => Sys2Proof.Machine.execRefclkReturn s
  | .pllUnlock p => Sys2Proof.Machine.execPllUnlock p s
  | .startupComplete f => Sys2Proof.Machine.execStartupComplete f s
  | .trellisLaneErrors l group failures halfWorks => Sys2Proof.Machine.execTrellisLaneErrors l group failures halfWorks s
  | .trellisLinkLoss l => Sys2Proof.Machine.execTrellisLinkLoss l s
  | .hbmControllerFault sx training channels => Sys2Proof.Machine.execHbmControllerFault sx training channels s
  | .pwrStateGo w => Sys2Proof.Machine.execPwrStateGo w s
  | .powerStateTransitionComplete => Sys2Proof.Machine.execPowerStateTransitionComplete s
  | .pwrStateRefusedClear => Sys2Proof.Machine.execPwrStateRefusedClear s
  | .bistGo w => Sys2Proof.Machine.execBistGo w s
  | .bistRunComplete misr => Sys2Proof.Machine.execBistRunComplete misr s
  | .bankCommitGo b tag => Sys2Proof.Machine.execBankCommitGo b tag s
  | .bankCommitDiscard b => Sys2Proof.Machine.execBankCommitDiscard b s
  | .bankSafePointApply b unit => Sys2Proof.Machine.execBankSafePointApply b unit s
  | .bstatSupersededClear b => Sys2Proof.Machine.execBstatSupersededClear b s
  | .profileGo w => Sys2Proof.Machine.execProfileGo w s
  | .mssRegisterWrite addr v => Sys2Proof.Machine.execMssRegisterWrite addr v s
  | .hubTimeLoRead => Sys2Proof.Machine.execHubTimeLoRead s
  | .registerWrite p addr v byteEnable => Sys2Proof.Machine.execRegisterWrite p addr v byteEnable s
  | .regulatorWindow demand => Sys2Proof.Machine.execRegulatorWindow demand s
  | .marginingComplete d ch margins => Sys2Proof.Machine.execMarginingComplete d ch margins s
  | .acrSwitchVoteReduced c mask => Sys2Proof.Machine.execAcrSwitchVoteReduced c mask s
  | .stripeReservationReplyReceive c answers => Sys2Proof.Machine.execStripeReservationReplyReceive c answers s
  | .stripeRegionReleaseReceive writer wctx => Sys2Proof.Machine.execStripeRegionReleaseReceive writer wctx s
  | .eolNoSpareReceive c m => Sys2Proof.Machine.execEolNoSpareReceive c m s
  | .mssFailedReceive c m => Sys2Proof.Machine.execMssFailedReceive c m s

end Sys2Proof.Machine
end

