-- ==== Sys2Proof/Safety.lean ====
section
/-! DEFINITION. What a sound state of the module is: conditions of the manual's own that every command keeps; and the words
the statements are made of: the completion of a command, and what it leaves unchanged. -/

namespace Sys2Proof.Machine

/-- A clock ceiling of the governor: 7 to 28 steps of 25 MHz (R400, R401). -/
def ceilingOk (c : Nat) : Bool := decide (7 ≤ c) && decide (c ≤ 28)

/-- The governor's ceilings: one of each kind for each of the four compute dies, each in its range (R400–R402). -/
def Gov.ok (g : Gov) : Bool :=
  g.power.length == 4 && g.junction.length == 4 && g.stack.length == 4 && g.brakeVal.length == 4 &&
    g.power.all ceilingOk && g.junction.all ceilingOk && g.stack.all ceilingOk && g.brakeVal.all ceilingOk

/-- The invariant of every state a command leaves: the memory is in its canonical form, the ceilings are in range. -/
def State.Sound (s : State) : Prop := s.mem.wf = true ∧ s.gov.ok = true

/-- A write of a bank's control register is taken at once: BAR0 takes it, and for a bank of the MSS, whose register lies behind the
mailbox, the MSS runs and no message waits (R434, R458). -/
def State.bankReached (s : State) (b : Bank) : Bool :=
  s.barTakes (bankBase b) && (decide (blockOf (bankBase b) ≠ 10) ||
    (s.mssRuns && s.hub.toMss.isEmpty && s.hub.fromMss.isEmpty && s.hub.postWait.isEmpty && s.regs.mssHeld.isEmpty))

/-- A command completes in a next state of which a property holds. -/
def Completes (o : Host.Outcome State Fault Refusal) (p : State → Prop) : Prop := ∃ t, o = .next t ∧ p t

/-- The parts of the state, by the fields of State. -/
inductive Part
  | regs | hub | rings | ctxs | cxl | mem | cores | link | grove | ckpt | mss | gov | guest | out | pending
  deriving DecidableEq, Repr

/-- A part is the same in two states. -/
def Part.same : Part → State → State → Prop
  | .regs, s, t => t.regs = s.regs
  | .hub, s, t => t.hub = s.hub
  | .rings, s, t => t.rings = s.rings
  | .ctxs, s, t => t.ctxs = s.ctxs
  | .cxl, s, t => t.cxl = s.cxl
  | .mem, s, t => t.mem = s.mem
  | .cores, s, t => t.cores = s.cores
  | .link, s, t => t.link = s.link
  | .grove, s, t => t.grove = s.grove
  | .ckpt, s, t => t.ckpt = s.ckpt
  | .mss, s, t => t.mss = s.mss
  | .gov, s, t => t.gov = s.gov
  | .guest, s, t => t.guest = s.guest
  | .out, s, t => t.out = s.out
  | .pending, s, t => t.pending = s.pending

/-- Every part but those listed is unchanged. -/
def OnlyChanges (ps : List Part) (s t : State) : Prop := ∀ p : Part, p ∉ ps → p.same s t

/-- Every context but one is unchanged. -/
def OtherCtxs (c : CtxId) (s t : State) : Prop := ∀ d, d ≠ c → t.ctx d = s.ctx d

/-- Every ring set but one is unchanged. -/
def OtherRings (i : SetId) (s t : State) : Prop := ∀ j, j ≠ i → t.ring j = s.ring j

/-- Every core but one is unchanged. -/
def OtherCores (k : CoreId) (s t : State) : Prop := ∀ l, l ≠ k → t.core l = s.core l

/-- Every fabric port but one is unchanged. -/
def OtherPorts (p : PortId) (s t : State) : Prop := ∀ q, q ≠ p → t.port q = s.port q

end Sys2Proof.Machine
end

