-- ==== Sys2Proof/Certificates/Slice0/Obligations.lean ====
section
/-! DEFINITION. The statements about the module, one proposition each. A statement that names a command says what its own effect
leaves and which parts of the state stay as they were. -/

open Sys2Proof Sys2Proof.Machine

/-- A step is the command at the front of the queue, and every command completes. For every command c and state s, a step of s
with c at the front of its queue is exec of c on s with the rest of the queue; on an empty queue a step passes 1 µs (the
model's own choice, log entry 1). Every command completes: for every command and every state there is a next state that exec
answers. -/
def Obligations.StepTakesFront : Prop :=
  (∀ (c : Instr) (rest : List Instr) (s : State),
    Sys2Proof.Machine.step { s with pending := c :: rest } = exec c { s with pending := rest }) ∧
  (∀ s : State, Sys2Proof.Machine.step { s with pending := [] } = .next ({ s with pending := [] } : State).tick) ∧
  (∀ (c : Instr) (s : State), ∃ t, Sys2Proof.Machine.exec c s = .next t)

/-- A doorbell line is acted on by its values, never by the number of its snoops. While rings are served, the line of a
context read again gives each enabled submission ring of the context the PRODUCER word as it stands and moves no consumer
index of a submission ring; the periodic reading is the reading of every line in turn; nothing but ring sets, contexts, host
ports, the log, the messages and the count of free values changes. The periodic reading completes, and its last line of a
context leaves that context’s PRODUCER words. Each clause that says so has as its conclusion that exec answers a next state;
it does for: doorbellSnoop, doorbellPeriodicRead. -/
def Obligations.DoorbellReadings : Prop :=
  (∀ (c : CtxId) (line : DoorbellLine) (s : State), s.served = true → s.ringOn (setOf c) 0 = true →
    Completes (exec (.doorbellSnoop (setOf c) line) s) (fun t =>
      (t.ring (setOf c)).step.producer = line.getD 0 0 ∧
      (s.ringOn (setOf c) 1 = true → (t.ring (setOf c)).service.producer = line.getD 1 0) ∧
      (t.ring (setOf c)).step.consumer = (s.ring (setOf c)).step.consumer ∧
      (t.ring (setOf c)).service.consumer = (s.ring (setOf c)).service.consumer ∧
      OnlyChanges [.rings, .ctxs, .cxl, .mss, .hub, .out] s t)) ∧
  (∀ (l : SetId × DoorbellLine) (ls : List (SetId × DoorbellLine)) (s u : State),
    exec (.doorbellSnoop l.1 l.2) s = .next u →
      exec (.doorbellPeriodicRead (l :: ls)) s = exec (.doorbellPeriodicRead ls) u) ∧
  (∀ (c : CtxId) (line : DoorbellLine) (rest : List (SetId × DoorbellLine)) (s : State), s.served = true →
    s.ringOn (setOf c) 0 = true → setOf c ∉ rest.map (fun e => e.1) →
    Completes (exec (.doorbellPeriodicRead (rest ++ [(setOf c, line)])) s) (fun t =>
      (t.ring (setOf c)).step.producer = line.getD 0 0 ∧
      (t.ring (setOf c)).step.consumer = (s.ring (setOf c)).step.consumer ∧
      OnlyChanges [.rings, .ctxs, .cxl, .mss, .hub, .out] s t)) ∧
  (∀ s : State, exec (.doorbellPeriodicRead []) s = .next s)

/-- A descriptor that passes every check waits at the head or completes as a no-op; a wrong SEQ or an unknown kind stops the
ring. With the ring readable and SEQ right, a descriptor that fails no check of R368 and is no no-op stands at the head with
nothing else changed but that what an earlier fetch had delivered is forgotten; a NOP advances the ring past it. With the ring
readable, a descriptor whose SEQ is not its index plus 1 stops the ring with DESC_SEQ_MISMATCH, and one of a kind no table
gives with DESC_KIND_INVALID; the consumer index stays at the descriptor and the other submission ring runs on. Each clause
that says so has as its conclusion that exec answers a next state; it does for: descriptorHeadCheck. -/
def Obligations.HeadChecks : Prop :=
  (∀ (c : CtxId) (ring : SubRing) (desc update : List Byte) (kd : DescKind) (s : State),
    s.canRead c ring = true → desc.length = 64 → dSeq desc = (((s.ring (setOf c)).sub ring).consumer + 1).toNat →
    DescKind.ofCode (dKind desc) = some kd → (kd = .step → update.length = 64) → headKindBad s c ring kd = none →
    s.featureOff c (dKind desc) = false → zeroBad (s.ctx c) kd desc (stepUpd (s.ctx c) desc update) = [] →
    paramBad (s.ctx c) kd desc (stepUpd (s.ctx c) desc update) = [] → zeroNoop kd desc = false → kd ≠ .nop →
    (kd = .unloadProgram → (s.ctx c).prog.isSome = true) →
    exec (.descriptorHeadCheck c ring desc update) s = .next ((if ring = .step then s.updCtx c (fun x => x.endTransfer .descData) else s).updRing (setOf c) (fun r => r.updSub ring (fun v =>
      { v with head := some ⟨((s.ring (setOf c)).sub ring).consumer, kd, desc, stepUpd (s.ctx c) desc update⟩ })))) ∧
  (∀ (c : CtxId) (ring : SubRing) (desc update : List Byte) (s : State),
    s.canRead c ring = true → desc.length = 64 → dSeq desc = (((s.ring (setOf c)).sub ring).consumer + 1).toNat →
    dKind desc = 0 → s.featureOff c 0 = false →
    Completes (exec (.descriptorHeadCheck c ring desc update) s) (fun t =>
      ((t.ring (setOf c)).sub ring).consumer = ((s.ring (setOf c)).sub ring).consumer + 1 ∧
      ((t.ring (setOf c)).sub ring).head = none ∧ OtherRings (setOf c) s t)) ∧
  (∀ (c : CtxId) (desc update : List Byte) (s : State), s.canRead c .step = true → desc.length = 64 →
    dSeq desc ≠ ((s.ring (setOf c)).step.consumer + 1).toNat →
    Completes (exec (.descriptorHeadCheck c .step desc update) s) (fun t =>
      (t.ring (setOf c)).step.stop = some .descSeqMismatch ∧
      (t.ring (setOf c)).step.consumer = (s.ring (setOf c)).step.consumer ∧
      (t.ring (setOf c)).service = (s.ring (setOf c)).service ∧ OtherRings (setOf c) s t ∧
      OnlyChanges [.rings, .cxl] s t)) ∧
  (∀ (c : CtxId) (desc update : List Byte) (s : State), s.canRead c .step = true → desc.length = 64 →
    dSeq desc = ((s.ring (setOf c)).step.consumer + 1).toNat → DescKind.ofCode (dKind desc) = none →
    Completes (exec (.descriptorHeadCheck c .step desc update) s) (fun t =>
      (t.ring (setOf c)).step.stop = some .descKindInvalid ∧
      (t.ring (setOf c)).step.consumer = (s.ring (setOf c)).step.consumer ∧
      (t.ring (setOf c)).service = (s.ring (setOf c)).service ∧ OtherRings (setOf c) s t ∧
      OnlyChanges [.rings, .cxl] s t))

/-- A progress record is written for an open context and for ring set 16, its COUNT risen by 1. While rings are served, the
write leaves the record of the set as the state gives it and changes no other ring set and no other part. Each clause that
says so has as its conclusion that exec answers a next state; it does for: progressRecordWrite. -/
def Obligations.ProgressRecord : Prop :=
  ∀ (set : SetId) (s : State), s.served = true → s.progressOn set = true →
    Completes (exec (.progressRecordWrite set) s) (fun t =>
      (t.ring set).progress = some (s.progressOf set) ∧ (t.ring set).progCount = (s.ring set).progCount + 1 ∧
      (s.progressOf set).count = (s.ring set).progCount + 1 ∧ (s.progressOf set).time = s.hub.timeUs ∧
      OtherRings set s t ∧ OnlyChanges [.rings] s t)

/-- PAUSE and RESUME set and clear the pause sources; a restart reads the stopping descriptor again, or the next where SKIP is
1. A write with PAUSE and not RESUME sets the source; it goes to the steward when no source of this module was set. RESUME
alone clears it, with a message when no source remains; a write of both does nothing, and none is taken in Dormant. A PAUSE of
another module is noted, its RESUME forgotten. Only the context, the cores’ state that is restored to it and the messages
change. A paused context that holds a program, of which no pass runs, has the state of its cores saved. A stopped step ring
with RESTART0, a stopped service ring with RESTART1: the stop clears and the consumer index stays with SKIP at 0 and advances
by 1 with SKIP at 1. A ring that has not stopped is left as it is. Each clause that says so has as its conclusion that exec
answers a next state; it does for: pause, resume, pauseResumeMessage, coreStateSave, restart0, restart1. -/
def Obligations.PausesAndRestarts : Prop :=
  (∀ (c : CtxId) (w : Word) (s : State), s.barTakes (aCtxCfg c.val + 4) = true → bitOf w.toNat 0 = true → bitOf w.toNat 1 = false →
    Completes (exec (.pause c w) s) (fun t => (t.ctx c).pauseHost = true ∧
      (t.out.msgs = if (s.ctx c).pauseHost || (s.ctx c).pausePage then s.out.msgs else .pause c s.ident true :: s.out.msgs) ∧
      OtherCtxs c s t ∧ OnlyChanges [.ctxs, .out] s t)) ∧
  (∀ (c : CtxId) (w : Word) (s : State), s.barTakes (aCtxCfg c.val + 4) = true → bitOf w.toNat 1 = true → bitOf w.toNat 0 = false →
    Completes (exec (.resume c w) s) (fun t => (t.ctx c).pauseHost = false ∧
      (t.out.msgs = if (s.ctx c).pauseHost && !(s.ctx c).pausePage then .pause c s.ident false :: s.out.msgs else s.out.msgs) ∧
      OtherCtxs c s t ∧ OnlyChanges [.ctxs, .cores, .out] s t)) ∧
  (∀ (c : CtxId) (w : Word) (s : State), bitOf w.toNat 0 = true → bitOf w.toNat 1 = true →
    exec (.pause c w) s = .next s ∧ exec (.resume c w) s = .next s) ∧
  (∀ (c : CtxId) (w : Word) (s : State), s.hub.power = .dormant →
    exec (.pause c w) s = .next s ∧ exec (.resume c w) s = .next s ∧ exec (.restart0 c w) s = .next s ∧ exec (.restart1 c w) s = .next s) ∧
  (∀ (c : CtxId) (src : ModNo) (s : State), Completes (exec (.pauseResumeMessage c src true) s) (fun t =>
      src.val ∈ (t.ctx c).pausePeers ∧ (t.ctx c).paused = true ∧ OtherCtxs c s t ∧ OnlyChanges [.ctxs, .out] s t)) ∧
  (∀ (c : CtxId) (src : ModNo) (s : State), Completes (exec (.pauseResumeMessage c src false) s) (fun t =>
      src.val ∉ (t.ctx c).pausePeers ∧ OtherCtxs c s t ∧ OnlyChanges [.ctxs, .cores, .out] s t)) ∧
  (∀ (c : CtxId) (s : State), (s.ctx c).paused = true → (s.ctx c).loaded = true → (s.ctx c).saved = false →
    (∀ e ∈ s.cores.tbl, ∀ p ∈ e.2.mx.running, p.ctx ≠ c) →
    Completes (exec (.coreStateSave c) s) (fun t => (t.ctx c).saved = true ∧
      AL.find? c t.cores.saved = some (s.cores.tbl.map (fun e => (e.1, e.2.part c))) ∧
      (∀ e ∈ t.cores.tbl, e.2.rake = {}) ∧ OtherCtxs c s t ∧ OnlyChanges [.ctxs, .cores] s t)) ∧
  (∀ (c : CtxId) (w : Word) (st : Status) (s : State), s.barTakes (aCtxCfg c.val + 4) = true → bitOf w.toNat 2 = true → (s.ring (setOf c)).step.stop = some st →
    Completes (exec (.restart0 c w) s) (fun t =>
      (t.ring (setOf c)).step.stop = none ∧
      (t.ring (setOf c)).step.consumer = (s.ring (setOf c)).step.consumer + (if bitOf w.toNat 4 then 1 else 0) ∧
      (t.ring (setOf c)).service = (s.ring (setOf c)).service ∧ OtherRings (setOf c) s t ∧ OnlyChanges [.rings] s t)) ∧
  (∀ (c : CtxId) (w : Word) (st : Status) (s : State), s.barTakes (aCtxCfg c.val + 4) = true →
    bitOf w.toNat 3 = true → (s.ring (setOf c)).service.stop = some st →
    Completes (exec (.restart1 c w) s) (fun t =>
      (t.ring (setOf c)).service.stop = none ∧
      (t.ring (setOf c)).service.consumer = (s.ring (setOf c)).service.consumer + (if bitOf w.toNat 4 then 1 else 0) ∧
      (t.ring (setOf c)).step = (s.ring (setOf c)).step ∧ OtherRings (setOf c) s t ∧ OnlyChanges [.rings] s t)) ∧
  (∀ (c : CtxId) (w : Word) (s : State), (s.ring (setOf c)).step.stop = none → exec (.restart0 c w) s = .next s) ∧
  (∀ (c : CtxId) (w : Word) (s : State), (s.ring (setOf c)).service.stop = none → exec (.restart1 c w) s = .next s)

/-- A page request ends with its response, pauses its context after PAUSE_US, or fails after TIMEOUT_MS. A response removes
the request, which lets the context run on; a failure of data a descriptor names stops the step ring with HOST_PAGE_FAULT, a
time-out with HOST_PAGE_TIMEOUT; a translation fault of a ring entry stops both rings with CTX_FAILED; PAUSE_US passing sets
the page source. Each clause that says so has as its conclusion that exec answers a next state; it does for: pageResponse,
pageRequestTimeout, pagePauseTimeout. -/
def Obligations.PageRequests : Prop :=
  (∀ (id : Nat) (r : PageReq) (s : State), AL.find? id s.cxl.pris = some r →
    Completes (exec (.pageResponse id .success) s) (fun t => AL.find? id t.cxl.pris = none ∧
      OnlyChanges [.cxl, .ctxs, .cores, .rings, .out] s t)) ∧
  (∀ (id : Nat) (r : PageReq) (q : QDesc) (resp : PageResp) (s : State), AL.find? id s.cxl.pris = some r → r.what = .descData →
    resp ≠ .success → (s.ring (setOf r.ctx)).step.head = some q →
    Completes (exec (.pageResponse id resp) s) (fun t => AL.find? id t.cxl.pris = none ∧
      (t.ring (setOf r.ctx)).step.stop = some .hostPageFault ∧ OnlyChanges [.cxl, .ctxs, .cores, .rings, .out] s t)) ∧
  (∀ (id : Nat) (r : PageReq) (q : QDesc) (s : State), AL.find? id s.cxl.pris = some r → r.what = .descData →
    (s.ring (setOf r.ctx)).step.head = some q → r.issued + 1000 * r.timeoutMs ≤ s.hub.timeUs →
    Completes (exec (.pageRequestTimeout id) s) (fun t => AL.find? id t.cxl.pris = none ∧
      (t.ring (setOf r.ctx)).step.stop = some .hostPageTimeout)) ∧
  (∀ (id : Nat) (r : PageReq) (s : State), AL.find? id s.cxl.pris = some r → r.what = .ringLine →
    Completes (exec (.pageResponse id .failure) s) (fun t =>
      (t.ring (setOf r.ctx)).step.stop = some .ctxFailed ∧ (t.ring (setOf r.ctx)).service.stop = some .ctxFailed)) ∧
  (∀ (id : Nat) (r : PageReq) (s : State), AL.find? id s.cxl.pris = some r → r.what.pauses = true → r.paused = false →
    r.issued + r.pauseUs ≤ s.hub.timeUs →
    Completes (exec (.pagePauseTimeout id) s) (fun t => (t.ctx r.ctx).pausePage = true ∧
      AL.find? id t.cxl.pris = some { r with paused := true } ∧ OtherCtxs r.ctx s t ∧ OnlyChanges [.ctxs, .cxl, .out] s t))

/-- The host ports: training, PERST, translation invalidation, failover, and the loss of both. A trained port takes what
training gave it and is usable if it has x4 or x8 at 32 or 64 GT/s, ATS, PASID and the module has been Ready; PERST makes it
unusable, its release only ends the pin; an invalidated page leaves the translation cache; at a failover every used ring set
moves to the other port and its page requests are sent again; both ports unusable for 20 ms make the module report
MODULE_SELF_FENCE and reset warm. Each clause that says so has as its conclusion that exec answers a next state; it does for:
cxlLinkTrained, perstAssert, perstDeassert, atsInvalidation, cxlPortFailover, bothPortsUnusableTimeout. -/
def Obligations.HostPorts : Prop :=
  (∀ (p : HostPort) (width rate : Nat) (ats pasid pri : Bool) (s : State), (s.cxlPort p).perst = false →
    (width = 4 ∨ width = 8) → (rate = 32 ∨ rate = 64) → Completes (exec (.cxlLinkTrained p width rate ats pasid pri) s) (fun t =>
      (t.cxlPort p).up = true ∧ (t.cxlPort p).width = width ∧ (t.cxlPort p).rate = rate ∧ (t.cxlPort p).pri = pri ∧
      t.usable p = (ats && pasid && s.hub.firstReady) ∧ OnlyChanges [.cxl] s t)) ∧
  (∀ (p : HostPort) (s : State), Completes (exec (.perstAssert p) s) (fun t =>
      t.usable p = false ∧ (t.cxlPort p).perst = true ∧ (t.cxlPort p).up = false ∧ OnlyChanges [.cxl] s t)) ∧
  (∀ (p : HostPort) (s : State), exec (.perstDeassert p) s = .next (s.updCxl p (fun x => { x with perst := false }))) ∧
  (∀ (p : HostPort) (page : Nat) (s : State), Completes (exec (.atsInvalidation p page) s) (fun t =>
      (∀ e ∈ (t.cxlPort p).atc, e.2 ≠ page) ∧ (t.cxlPort p).inflight = [] ∧ t.cxlPort (otherPort p) = s.cxlPort (otherPort p) ∧
      OnlyChanges [.cxl] s t)) ∧
  (∀ (p : HostPort) (inPlace : List Nat) (s : State), s.usable p = false → s.usable (otherPort p) = true →
    (s.cxlPort p).lost = true → Completes (exec (.cxlPortFailover p inPlace) s) (fun t =>
      (∀ i ∈ s.usedSets, ∀ k, k < 7 → AL.find? k (t.ring i).movedTo = some (otherPort p)) ∧ (t.cxlPort p).atc = [] ∧ (t.cxlPort p).lost = false ∧
      (∀ e ∈ s.cxl.pris, e.2.port = p → (e.1, e.2.pasid, e.2.page) ∈ t.out.pris) ∧
      OnlyChanges [.cxl, .rings, .mss, .hub, .out] s t)) ∧
  (∀ (since : Nat) (s : State), s.cxl.bothDown = some since → since + 20000 ≤ s.hub.timeUs →
    Completes (exec .bothPortsUnusableTimeout s) (fun t =>
      (s.inClearing = true → t.out.msgs = .selfFence none :: s.out.msgs) ∧ t.inReset .warm = true ∧
      ((s.dom .warm).lastAt = none → t.moduleGen = s.moduleGen + 1) ∧ t.rings = [] ∧ t.ctxs = [] ∧ t.mem.hbm = s.mem.hbm ∧
      t.cores.pruned = s.cores.pruned ∧ t.gov = s.gov))

/-- A program that passes the loader is loaded, one that fails stops the ring, an unload gives all back; an upload writes its
blocks alone. LOAD_PROGRAM with no program loaded, in SECURE: a program no check refuses is the context's program, its regions
those the loader placed, its pages its own table; one check that refuses it stops the step ring with its code and loads
nothing; outside SECURE the code is SEC_DEBUG_STATE. UNLOAD_PROGRAM with nothing running and no region held leaves no program
and no region. With no step provisional and the page writable, one block that stays in one page stands in HBM behind the page;
every other byte of memory reads as before. Each clause that says so has as its conclusion that exec answers a next state; it
does for: loadProgram, unloadProgram, upload. -/
def Obligations.LoadUnloadUpload : Prop :=
  (∀ (c : CtxId) (q : QDesc) (p : Program) (s : State), s.headOf c .step .loadProgram = some q → (s.ctx c).loaded = false →
    s.mss.security = .secure → s.loadBad c p = [] → p.imageLen = dImageLen q.bytes →
    Completes (exec (.loadProgram c (.data p)) s) (fun t => (t.ctx c).prog = some p ∧ (t.ctx c).pages = p.pageTable ∧
      (t.ctx c).regions = (s.placeAll p).1 ∧ (t.ctx c).jobAcr = some ((s.ctx c).jobAcr.getD p.acr) ∧ (t.ctx c).committed = 0 ∧
      (t.ring (setOf c)).step.consumer = (s.ring (setOf c)).step.consumer + 1 ∧ t.grove.spare = false ∧ OtherCtxs c s t ∧
      OtherRings (setOf c) s t ∧ OnlyChanges [.ctxs, .rings, .grove, .cxl, .hub, .out] s t)) ∧
  (∀ (c : CtxId) (q : QDesc) (p : Program) (st : Status) (d : Nat) (s : State), s.headOf c .step .loadProgram = some q →
    (s.ctx c).loaded = false → s.mss.security = .secure → s.loadBad c p = [(st, d)] → p.imageLen = dImageLen q.bytes →
    Completes (exec (.loadProgram c (.data p)) s) (fun t => (t.ring (setOf c)).step.stop = some st ∧ t.ctxs = s.ctxs ∧
      OnlyChanges [.rings, .cxl] s t)) ∧
  (∀ (c : CtxId) (q : QDesc) (image : Fetch Program) (s : State), s.headOf c .step .loadProgram = some q →
    (s.ctx c).loaded = false → s.mss.security ≠ .secure →
    Completes (exec (.loadProgram c image) s) (fun t => (t.ring (setOf c)).step.stop = some .secDebugState ∧
      t.ctxs = s.ctxs ∧ OnlyChanges [.rings, .cxl] s t)) ∧
  (∀ (c : CtxId) (q : QDesc) (s : State), s.headOf c .step .unloadProgram = some q → (s.ctx c).steps = [] →
    (s.ctx c).replaying = none → (s.ctx c).batches = [] → (s.ctx c).batch = none → s.cxl.window = [] →
    s.regionsHeld c = false →
    Completes (exec (.unloadProgram c) s) (fun t => (t.ctx c).prog = none ∧ (t.ctx c).regions = [] ∧ (t.ctx c).live = [] ∧
      (t.ctx c).pages = [] ∧ (t.ring (setOf c)).step.consumer = (s.ring (setOf c)).step.consumer + 1 ∧ OtherCtxs c s t ∧
      OtherRings (setOf c) s t ∧ OnlyChanges [.ctxs, .rings, .grove, .cxl, .cores, .hub, .out] s t)) ∧
  (∀ (c : CtxId) (q : QDesc) (b : List Byte) (s : State), s.headOf c .step .upload = some q → (s.ctx c).steps = [] →
    (s.ctx c).delivered .descData = [] →
    0 < b.length → dDstDva q.bytes % 2097152 + b.length ≤ 2097152 → dBlockCount q.bytes = 1 → b.length = dBlockLen q.bytes →
    pageWritable (s.ctx c) (dDstDva q.bytes / 2097152) = true →
    Completes (exec (.upload c (.data [b])) s) (fun t =>
      let at_ := (s.ctx c).pageDpa (dDstDva q.bytes / 2097152) + dDstDva q.bytes % 2097152
      t.mem.hbm = hbmWriteAll at_ b s.mem.hbm ∧
      (∀ a, a < at_ ∨ at_ + b.length ≤ a → hbmRead t.mem.hbm a = hbmRead s.mem.hbm a) ∧
      (t.ring (setOf c)).step.consumer = (s.ring (setOf c)).step.consumer + 1 ∧ OtherRings (setOf c) s t ∧
      OnlyChanges [.rings, .mem, .cxl, .hub] s t))

/-- ACR_SWITCH and REPLAY take effect with a vote, and go on or stop as the reduced vote says. An ACR_SWITCH at its step votes
0 exactly if the program is of the named ACR and loads; a reduced 0 switches program and ACR and sends the buddy its image,
any other vote switches nothing and stops the ring with ACR_UNSUPPORTED. A REPLAY takes its base, joins its slots to the
working region and votes whether they fit; a reduced 0 starts its first step, any other vote drops the replay, gives its slots
back and stops the ring with REPLAY_NO_SPACE. Each clause that says so has as its conclusion that exec answers a next state;
it does for: acrSwitch, acrSwitchVoteReduced, replay, replayAllocationReduced. -/
def Obligations.AcrSwitchAndReplay : Prop :=
  (∀ (c : CtxId) (q : QDesc) (p : Program) (s : State), s.headOf c .step .acrSwitch = some q → (s.ctx c).steps = [] →
    (s.ctx c).replaying = none → (s.ctx c).switching = none → (s.ctx c).committed + 1 = dNs q.bytes →
    Completes (exec (.acrSwitch c (.data p)) s) (fun t =>
      let ok := p.acr == dAcr q.bytes && ((s.updCtx c (fun x => { x with regions := [] })).loadBad c p).isEmpty
      (t.ctx c).switching = some (p, ok) ∧ t.out.msgs = .contribute c .acrVote (if ok then 0 else 1) :: s.out.msgs ∧
      (t.ctx c).prog = (s.ctx c).prog ∧ (t.ring (setOf c)).step.consumer = (s.ring (setOf c)).step.consumer + 1 ∧
      OtherCtxs c s t ∧ OtherRings (setOf c) s t ∧ OnlyChanges [.ctxs, .rings, .hub, .out] s t)) ∧
  (∀ (c : CtxId) (f : Flow) (p : Program) (ok : Bool) (s : State), (s.ctx c).switching = some (p, ok) →
    s.flowOf c .step .acrSwitch = some f → s.shadowBelow c p.acr = false →
    Completes (exec (.acrSwitchVoteReduced c 0) s) (fun t => (t.ctx c).prog = some p ∧ (t.ctx c).jobAcr = some p.acr ∧
      (t.ctx c).switching = none ∧ (t.ctx c).committed = (s.ctx c).committed ∧
      ((buddyOf p s.ident).isSome = true → t.out.msgs = .programImage c p :: s.out.msgs) ∧ OtherCtxs c s t ∧
      OnlyChanges [.ctxs, .rings, .cxl, .out] s t)) ∧
  (∀ (c : CtxId) (f : Flow) (p : Program) (ok : Bool) (s : State), (s.ctx c).switching = some (p, ok) →
    s.flowOf c .step .acrSwitch = some f → s.shadowBelow c p.acr = true →
    Completes (exec (.acrSwitchVoteReduced c 0) s) (fun t => (t.ctx c).prog = some p ∧ (t.ctx c).jobAcr = some p.acr ∧
      (t.ctx c).switching = none ∧ t.grove.shadows = s.grove.shadows.filter (fun (e : CtxId × Shadow) =>
        !(decide (e.1 = c) && s.levelBelow e.2.sapling p.acr)) ∧ OtherCtxs c s t ∧
      OnlyChanges [.ctxs, .rings, .cxl, .grove, .mss, .hub, .out] s t)) ∧
  (∀ (c : CtxId) (f : Flow) (p : Program) (ok : Bool) (mask : Word) (s : State), (s.ctx c).switching = some (p, ok) →
    s.flowOf c .step .acrSwitch = some f → mask ≠ 0 →
    Completes (exec (.acrSwitchVoteReduced c mask) s) (fun t => (t.ctx c).prog = (s.ctx c).prog ∧
      (t.ctx c).jobAcr = (s.ctx c).jobAcr ∧ (t.ring (setOf c)).step.stop = some .acrUnsupported ∧
      (t.ring (setOf c)).step.consumer = f.index ∧ OtherCtxs c s t ∧ OnlyChanges [.ctxs, .rings, .cxl] s t)) ∧
  (∀ (c : CtxId) (q : QDesc) (d : SlotData) (p : Program) (s : State), s.headOf c .step .replay = some q →
    (s.ctx c).steps = [] → (s.ctx c).replaying = none → (s.ctx c).switching = none → (s.ctx c).prog = some p →
    (s.ctx c).replayBase (dStep q.bytes) = some d →
    Completes (exec (.replay c) s) (fun t =>
      (t.ctx c).replaying = some ⟨dStep q.bytes, dCount q.bytes, q, [], [(dStep q.bytes % 3, d)], AL.get [] 6 (s.ctx c).regions⟩ ∧
      AL.get [] 6 (t.ctx c).regions = AL.get [] 6 (s.ctx c).regions ++ (s.place 6 (3 * p.slotUnits) p.dieOrder).getD [] ∧
      (t.out.msgs = .contribute c .replayVote (if (s.place 6 (3 * p.slotUnits) p.dieOrder).isSome then 0 else 1) :: s.out.msgs) ∧ (t.ctx c).live = (s.ctx c).live ∧
      (t.ring (setOf c)).step.consumer = (s.ring (setOf c)).step.consumer + 1 ∧ OtherCtxs c s t ∧
      OtherRings (setOf c) s t ∧ OnlyChanges [.ctxs, .rings, .hub, .out] s t)) ∧
  (∀ (c : CtxId) (q : QDesc) (s : State), s.headOf c .step .replay = some q → (s.ctx c).steps = [] →
    (s.ctx c).replaying = none → (s.ctx c).switching = none → (s.ctx c).replayBase (dStep q.bytes) = none →
    Completes (exec (.replay c) s) (fun t => (t.ring (setOf c)).step.stop = some .replayBaseAbsent ∧
      OnlyChanges [.rings, .cxl] s t)) ∧
  (∀ (c : CtxId) (f : Flow) (r : Replaying) (i : ReplayInput) (rest : List ReplayInput) (s : State),
    (s.ctx c).replaying = some r → s.flowOf c .step .replay = some f → (s.ctx c).steps = [] →
    Completes (exec (.replayAllocationReduced c 0 (i :: rest)) s) (fun t =>
      (t.ctx c).replaying = some { r with inputs := rest } ∧
      ((t.ctx c).steps.map (fun x => (x.number, x.replay, x.upd, x.rngKey))) = [(r.base + 1, true, i.upd, i.rngKey)] ∧
      OtherCtxs c s t ∧ OnlyChanges [.ctxs, .cores] s t)) ∧
  (∀ (c : CtxId) (f : Flow) (r : Replaying) (mask : Word) (inputs : List ReplayInput) (s : State),
    (s.ctx c).replaying = some r → s.flowOf c .step .replay = some f → (s.ctx c).steps = [] → mask ≠ 0 →
    Completes (exec (.replayAllocationReduced c mask inputs) s) (fun t => (t.ctx c).replaying = none ∧ AL.get [] 6 (t.ctx c).regions = r.region ∧
      (t.ring (setOf c)).step.stop = some .replayNoSpace ∧ (t.ctx c).steps = [] ∧ OtherCtxs c s t ∧
      OnlyChanges [.ctxs, .rings, .cxl] s t))

/-- CHECKPOINT names a later step, EXPORT_SNAPSHOT takes the snapshot out, IMPORT_SNAPSHOT declares an image that is taken
only if its receipt verifies. A CHECKPOINT of a step beyond the committed one adds it to the steps named. An EXPORT_SNAPSHOT
of the frozen step with no quick copy running maps the pages of its range as exported. An IMPORT_SNAPSHOT stands as the image
the context awaits. Each moves its ring on. An image from the declared sender and clearing, of the declared step and shard,
with a free snapshot region: a receipt of destination E that verifies and agrees in step, shard, shape, ACR and digest gives
the snapshot its data; one whose signature fails leaves the snapshot. Either ends the wait. An image nobody awaits changes
nothing. Each clause that says so has as its conclusion that exec answers a next state; it does for: checkpoint,
exportSnapshot, importSnapshot, exportImageReceive. -/
def Obligations.CheckpointDescriptors : Prop :=
  (∀ (c : CtxId) (q : QDesc) (s : State), s.headOf c .service .checkpoint = some q → (s.ctx c).committed < dStep q.bytes →
    Completes (exec (.checkpoint c) s) (fun t => (t.ctx c).ckptNamed = (s.ctx c).ckptNamed ++ [(dStep q.bytes, q.index)] ∧
      (t.ring (setOf c)).service.consumer = (s.ring (setOf c)).service.consumer + 1 ∧
      (t.ring (setOf c)).step = (s.ring (setOf c)).step ∧ OtherCtxs c s t ∧ OnlyChanges [.ctxs, .rings, .hub] s t)) ∧
  (∀ (c : CtxId) (q : QDesc) (f : Frozen) (p : Program) (accepted : Bool) (s : State),
    s.headOf c .service .exportSnapshot = some q → (s.ctx c).quick = none → (s.ctx c).snapshot = some f →
    (s.ctx c).prog = some p → f.step = dStep q.bytes → dTarget q.bytes = 0 →
    (∀ i, i < dLen q.bytes → s.winPage (dWindowPage q.bytes + i) = .unmapped) →
    Completes (exec (.exportSnapshot c accepted) s) (fun t =>
      (t.ctx c).exports = (s.ctx c).exports ++ [(dWindowPage q.bytes, dLen q.bytes, q.index)] ∧
      (∀ i, i < dLen q.bytes → t.winPage (dWindowPage q.bytes + i) = .exported c (dFirst q.bytes + i)) ∧
      (t.ring (setOf c)).service.consumer = (s.ring (setOf c)).service.consumer + 1)) ∧
  (∀ (c : CtxId) (q : QDesc) (s : State), s.headOf c .service .importSnapshot = some q →
    Completes (exec (.importSnapshot c) s) (fun t => (t.ctx c).imported =
        some (dSrcModule q.bytes, dSrcClearing q.bytes, dStep q.bytes, dShard q.bytes, q.index) ∧
      (t.ring (setOf c)).service.consumer = (s.ring (setOf c)).service.consumer + 1 ∧ OtherCtxs c s t ∧
      OnlyChanges [.ctxs, .rings, .hub] s t)) ∧
  (∀ (c : CtxId) (src : ModNo) (k : Nat) (r : Receipt) (img : ShardImage) (ix : BitVec 32) (s : State),
    (s.ctx c).imported = some (src.val, k, img.step, img.shard, ix) → s.snapshotBusy c = false → r.dest = .e →
    r.step = img.step → r.shard = img.shard → r.shapeHash = img.shapeHash → r.acr = img.acr → r.digest = img.digest →
    img.leavesOk = true →
    Completes (exec (.exportImageReceive c src k r true img) s) (fun t =>
      (t.ctx c).snapshot = some ⟨img.step, img.data, img.digest, true⟩ ∧ (t.ctx c).imported = none ∧ OtherCtxs c s t ∧
      OnlyChanges [.ctxs, .rings, .cxl] s t)) ∧
  (∀ (c : CtxId) (src : ModNo) (k : Nat) (r : Receipt) (img : ShardImage) (ix : BitVec 32) (s : State),
    (s.ctx c).imported = some (src.val, k, img.step, img.shard, ix) → s.snapshotBusy c = false →
    Completes (exec (.exportImageReceive c src k r false img) s) (fun t =>
      (t.ctx c).snapshot = (s.ctx c).snapshot ∧ (t.ctx c).imported = none ∧ OtherCtxs c s t ∧
      OnlyChanges [.ctxs, .rings, .cxl] s t)) ∧
  (∀ (c : CtxId) (src : ModNo) (k : Nat) (r : Receipt) (sigOk : Bool) (img : ShardImage) (s : State),
    (s.ctx c).imported = none → exec (.exportImageReceive c src k r sigOk img) s = .next s)

/-- WINDOW_MAP maps pages in the staging state; WINDOW_UNMAP and EXPORT_RELEASE return them unmapped. A WINDOW_MAP of Unmapped
window pages onto writable working pages leaves each page of its range staging onto its DVA page; one of a mapped page with
lines in the snoop filter waits at the head while that page leaves its state. A WINDOW_UNMAP of one staging page, and an
EXPORT_RELEASE of one exported page, no line of which is in the snoop filter, leave that page unmapped at once; with lines in
the filter the page keeps its state until the last response of the host. Each clause that says so has as its conclusion that
exec answers a next state; it does for: windowMap, windowUnmap, exportRelease, backInvalidateResponse. -/
def Obligations.WindowDescriptors : Prop :=
  (∀ (c : CtxId) (q : QDesc) (s : State), s.headOf c .service .windowMap = some q →
    (∀ i, i < dLen q.bytes → pageWritable (s.ctx c) (dDvaPage q.bytes + i) = true) →
    (∀ i, i < dLen q.bytes → s.winPage (dWindowPage q.bytes + i) = .unmapped) →
    Completes (exec (.windowMap c) s) (fun t =>
      (∀ i, i < dLen q.bytes → t.winPage (dWindowPage q.bytes + i) = .staging c (dDvaPage q.bytes + i)) ∧
      (t.ring (setOf c)).service.consumer = (s.ring (setOf c)).service.consumer + 1)) ∧
  (∀ (c : CtxId) (q : QDesc) (s : State), s.headOf c .service .windowMap = some q → dLen q.bytes = 1 →
    pageWritable (s.ctx c) (dDvaPage q.bytes) = true → s.winPage (dWindowPage q.bytes) ≠ .unmapped →
    s.pageLines (dWindowPage q.bytes) ≠ [] →
    Completes (exec (.windowMap c) s) (fun t => t.winPage (dWindowPage q.bytes) = s.winPage (dWindowPage q.bytes) ∧
      dWindowPage q.bytes ∈ t.cxl.leaving ∧ t.rings = s.rings ∧ OnlyChanges [.cxl, .out] s t)) ∧
  (∀ (c : CtxId) (q : QDesc) (d : Nat) (s : State), s.headOf c .service .windowUnmap = some q → dLen q.bytes = 1 →
    s.winPage (dWindowPage q.bytes) = .staging c d → s.pageLines (dWindowPage q.bytes) = [] →
    Completes (exec (.windowUnmap c) s) (fun t => t.winPage (dWindowPage q.bytes) = .unmapped ∧
      (t.ring (setOf c)).service.consumer = (s.ring (setOf c)).service.consumer + 1)) ∧
  (∀ (c : CtxId) (q : QDesc) (d : Nat) (s : State), s.headOf c .service .exportRelease = some q → dLen q.bytes = 1 →
    s.winPage (dWindowPage q.bytes) = .exported c d → s.pageLines (dWindowPage q.bytes) = [] →
    Completes (exec (.exportRelease c) s) (fun t => t.winPage (dWindowPage q.bytes) = .unmapped ∧
      (t.ring (setOf c)).service.consumer = (s.ring (setOf c)).service.consumer + 1)) ∧
  (∀ (line : Nat) (s : State), line ∈ s.cxl.snooping → line / linesPerPage ∈ s.cxl.leaving →
    (∀ e ∈ s.cxl.filter, e.1 / linesPerPage = line / linesPerPage → e.1 = line) →
    Completes (exec (.backInvalidateResponse line) s) (fun t => t.winPage (line / linesPerPage) = .unmapped ∧
      line ∉ t.cxl.snooping ∧ ∀ e ∈ t.cxl.filter, e.1 ≠ line))

/-- The host reads and writes the window as the state of the page allows. A read of a staging page returns the 64 bytes behind
it, and a line the host caches is tracked; a word that fails parity is read right where it can be repaired and as poison where
it cannot; a read of an unmapped page is poison; a write of a staging page stands in memory and every other byte reads as
before; a write elsewhere is dropped and counted. Each clause that says so has as its conclusion that exec answers a next
state; it does for: windowHostRead, windowHostWrite. -/
def Obligations.WindowAccess : Prop :=
  (∀ (p : HostPort) (line : Nat) (cached : Bool) (c : CtxId) (d : Nat) (s : State), line / linesPerPage < 32768 →
    s.winPage (line / linesPerPage) = .staging c d →
    Completes (exec (.windowHostRead p line cached none) s) (fun t =>
      t.cxl.lastRead = some (line, some (s.hbmGet ((s.ctx c).pageDpa d + 64 * (line % linesPerPage)) 64)) ∧
      (cached = true → (line, p) ∈ t.cxl.filter) ∧ (cached = false → t.cxl.filter = s.cxl.filter) ∧
      t.mem.hbm = s.mem.hbm ∧ OnlyChanges [.cxl, .mem, .out] s t)) ∧
  (∀ (p : HostPort) (line : Nat) (cached : Bool) (f : WordFault) (s : State), line / linesPerPage < 32768 →
    s.winPage (line / linesPerPage) ≠ .unmapped → wordFails f (faultWord ((s.windowLine line).getD []) f) = true →
    Completes (exec (.windowHostRead p line cached (some f)) s) (fun t =>
      t.cxl.lastRead = some (line, if repairable s f.loc then s.windowLine line else none))) ∧
  (∀ (p : HostPort) (line : Nat) (parity : Option WordFault) (cached : Bool) (s : State), s.winPage (line / linesPerPage) = .unmapped →
    Completes (exec (.windowHostRead p line cached parity) s) (fun t => t.cxl.lastRead = some (line, none) ∧
      t.cxl.denied = s.cxl.denied + 1 ∧ OnlyChanges [.cxl, .rings, .mss, .hub] s t)) ∧
  (∀ (p : HostPort) (addr : Nat) (bytes : List Byte) (c : CtxId) (d : Nat) (s : State), addr % 64 + bytes.length ≤ 64 →
    s.winPage (addr / 2097152) = .staging c d →
    Completes (exec (.windowHostWrite p addr bytes) s) (fun t =>
      let at_ := (s.ctx c).pageDpa d + addr % 2097152
      t.mem.hbm = hbmWriteAll at_ bytes s.mem.hbm ∧
      (∀ a, a < at_ ∨ at_ + bytes.length ≤ a → hbmRead t.mem.hbm a = hbmRead s.mem.hbm a) ∧ OnlyChanges [.mem] s t)) ∧
  (∀ (p : HostPort) (addr : Nat) (bytes : List Byte) (s : State), s.winPage (addr / 2097152) = .unmapped →
    Completes (exec (.windowHostWrite p addr bytes) s) (fun t => t.mem = s.mem ∧ t.cxl.denied = s.cxl.denied + 1 ∧
      OnlyChanges [.cxl, .rings, .mss, .hub] s t))

/-- A STEP that may take effect joins the provisional steps with its copies held; one out of sequence stops the ring. A STEP
at the head that R195 admits and whose number is the committed version plus the provisional steps plus 1 is the last
provisional step, in FORWARD, numbered by attempt, with its descriptor, update record and batch; a reference stands on the
version before it, a ledger record is allocated, the buddy is sent the takeover record and the ring moves on. A batch that
waits for a page leaves the step waiting with a page request out and what the fetch delivered kept. Another number stops the
ring with STEP_SEQUENCE and starts nothing. A STEP that R195 does not allow stays at the head. A pending commit of the
context’s step register applies before a STEP that takes effect with no step provisional. Each clause that says so has as its
conclusion that exec answers a next state; it does for: step. -/
def Obligations.StepTakesEffect : Prop :=
  (∀ (c : CtxId) (q : QDesc) (b : List (List Byte)) (s : State), s.headOf c .step .step = some q → s.admits c = true →
    dStep q.bytes = (s.ctx c).committed + (s.ctx c).steps.length + 1 → (s.regs.bank .cpStep).pending = none → (s.regs.bank .ckpt).pending = none →
    Completes (exec (.step c (.data b)) s) (fun t =>
      (∃ u, (t.ctx c).steps.getLast? = some u ∧ u.number = dStep q.bytes ∧ u.state = .forward ∧ u.desc = q ∧ u.upd = q.upd ∧
        u.batch = b ∧ u.attempt = (match AL.find? (dStep q.bytes) (s.ctx c).attempts with
          | some a => (a + 1) % 256
          | none => 0) ∧ t.out.msgs.head? = some (.takeoverRecord c (takeoverRec (t.ring (setOf c)) u))) ∧
      (t.ctx c).steps.length = (s.ctx c).steps.length + 1 ∧ (t.ctx c).committed = (s.ctx c).committed ∧
      (t.ctx c).lastUpd = some q.upd ∧ (t.ctx c).ledger = (s.ctx c).ledger ++ [⟨dStep q.bytes, none⟩] ∧
      ((t.ctx c).liveSlot (dStep q.bytes - 1)).readers = ((s.ctx c).liveSlot (dStep q.bytes - 1)).readers + 1 ∧
      (t.ring (setOf c)).step.consumer = (s.ring (setOf c)).step.consumer + 1 ∧
      (t.ring (setOf c)).service = (s.ring (setOf c)).service ∧
      OtherCtxs c s t ∧ OtherRings (setOf c) s t ∧ OnlyChanges [.ctxs, .rings, .cxl, .cores, .hub, .out] s t)) ∧
  (∀ (c : CtxId) (q : QDesc) (off : Nat) (got : List Byte) (s : State), s.headOf c .step .step = some q → s.admits c = true →
    dStep q.bytes = (s.ctx c).committed + (s.ctx c).steps.length + 1 → (s.regs.bank .cpStep).pending = none → (s.regs.bank .ckpt).pending = none →
    Completes (exec (.step c (.noPage off got)) s) (fun t =>
      (∃ u, (t.ctx c).steps.getLast? = some u ∧ u.number = dStep q.bytes ∧ u.batchWait = true) ∧
      (t.ctx c).delivered (.stepBatch (dStep q.bytes)) = (s.ctx c).delivered (.stepBatch (dStep q.bytes)) ++ got ∧
      t.cxl.nextPri = s.cxl.nextPri + 1 ∧ (t.out.pris.head?.map (fun e => (e.1, e.2.1))) = some (s.cxl.nextPri, s.pasidOf c) ∧
      (t.ring (setOf c)).step.consumer = (s.ring (setOf c)).step.consumer + 1 ∧ OtherCtxs c s t ∧
      OtherRings (setOf c) s t ∧ OnlyChanges [.ctxs, .rings, .cores, .cxl, .hub, .out] s t)) ∧
  (∀ (c : CtxId) (q : QDesc) (b : Fetch (List (List Byte))) (s : State), s.headOf c .step .step = some q →
    s.admits c = true → dStep q.bytes ≠ (s.ctx c).committed + (s.ctx c).steps.length + 1 →
    Completes (exec (.step c b) s) (fun t => (t.ring (setOf c)).step.stop = some .stepSequence ∧
      (t.ring (setOf c)).step.consumer = (s.ring (setOf c)).step.consumer ∧ OtherRings (setOf c) s t ∧
      OnlyChanges [.rings, .cxl] s t)) ∧
  (∀ (c : CtxId) (q : QDesc) (b : Fetch (List (List Byte))) (s : State), s.headOf c .step .step = some q →
    s.admits c = false → exec (.step c b) s = .next s) ∧
  (∀ (c : CtxId) (q : QDesc) (b : List (List Byte)) (w : Word) (s : State), s.headOf c .step .step = some q →
    s.admits c = true → (s.ctx c).steps = [] → dStep q.bytes = (s.ctx c).committed + 1 →
    (s.regs.bank .cpStep).pending = some ([(aStepPol c.val, w)], [c.val]) → (s.regs.bank .ckpt).pending = none →
    s.inReset .cp = false → s.hub.power = .ready → s.behindProfile .cpStep = false →
    Completes (exec (.step c (.data b)) s) (fun t => t.regs.val (aStepPol c.val) = w ∧ (t.regs.bank .cpStep).state = 2 ∧
      (t.regs.bank .cpStep).pending = none ∧ (t.ctx c).steps.map (fun x => x.number) = [dStep q.bytes]))

/-- Forward work ends in BACKWARD only behind the step before, and starts for a layer only after its update. The one
provisional step, in FORWARD with its batch, no forward pass of it outstanding and its outputs sealed, goes to BACKWARD; a
step behind one that is in BACKWARD stays in FORWARD. The forward of the second step begins for a layer the first has updated,
the lower ones having begun, and does not begin for another layer. Each clause that says so has as its conclusion that exec
answers a next state; it does for: stepForwardComplete, nextStepForwardStart. -/
def Obligations.ForwardOrder : Prop :=
  (∀ (c : CtxId) (u : Step) (s : State), (s.ctx c).steps = [u] → u.state = .forward → u.batchWait = false →
    s.noneLeft c u.number (fun o => !o.backward && !o.regrow) = true → u.sealedAll = true →
    Completes (exec (.stepForwardComplete c) s) (fun t => (t.ctx c).steps = [{ u with state := .backward }] ∧
      (t.ctx c).committed = (s.ctx c).committed ∧ t.out.msgs = s.out.msgs ∧ OtherCtxs c s t ∧
      OnlyChanges [.ctxs, .cxl, .out] s t)) ∧
  (∀ (c : CtxId) (u v : Step) (s : State), (s.ctx c).steps = [u, v] → u.state = .backward → v.state = .forward →
    u.number < v.number → exec (.stepForwardComplete c) s = .next s) ∧
  (∀ (c : CtxId) (layer : Nat) (u v : Step) (s : State), (s.ctx c).steps = [u, v] → u.number < v.number →
    layer ∈ u.layersReady → v.state = .forward → (∀ l ∈ u.layersReady, l < layer → l ∈ v.forwardLayers) →
    Completes (exec (.nextStepForwardStart c layer) s) (fun t =>
      (∃ w, (t.ctx c).steps = [u, w] ∧ w.number = v.number ∧ w.state = .forward ∧ w.started = true ∧
        layer ∈ w.forwardLayers ∧ (∀ l ∈ v.forwardLayers, l ∈ w.forwardLayers)) ∧
      (t.ctx c).committed = (s.ctx c).committed ∧ OtherCtxs c s t ∧ OnlyChanges [.ctxs] s t)) ∧
  (∀ (c : CtxId) (layer : Nat) (u v : Step) (s : State), (s.ctx c).steps = [u, v] → layer ∉ u.layersReady →
    exec (.nextStepForwardStart c layer) s = .next s)

/-- A step whose checks are all clean votes 0, and only after the step before it has voted. The one provisional step, CHECKING
with nothing outstanding and both digests compared, goes to VOTING and contributes a mask of 0. With an earlier step still
CHECKING the second step is VOTING too, and its vote stays here. While a refetch of data of the context’s gradient slices is
outstanding no step goes to VOTING. Each clause that says so has as its conclusion that exec answers a next state; it does
for: localResultKnown. -/
def Obligations.VotesGoInStepOrder : Prop :=
  (∀ (c : CtxId) (u : Step) (s : State), (s.ctx c).steps = [u] → u.allClean = true → u.voted = none →
    s.repairsOwed c = false → s.shadowing c = false →
    Completes (exec (.localResultKnown c u.number) s) (fun t =>
      (t.ctx c).steps = [{ u with state := .voting, voted := some 0 }] ∧
      t.out.msgs = .contribute c (.vote u.number u.attempt) 0 :: s.out.msgs ∧ OtherCtxs c s t ∧
      OnlyChanges [.ctxs, .out] s t)) ∧
  (∀ (c : CtxId) (u v : Step) (s : State), (s.ctx c).steps = [u, v] → u.state = .checking → u.voted = none →
    u.number < v.number → v.allClean = true → v.voted = none → s.repairsOwed c = false → s.shadowing c = false →
    Completes (exec (.localResultKnown c v.number) s) (fun t =>
      (t.ctx c).steps = [u, { v with state := .voting }] ∧ OtherCtxs c s t ∧ OnlyChanges [.ctxs] s t)) ∧
  (∀ (c : CtxId) (n : Nat) (u : Step) (s : State), (s.ctx c).steps = [u] → u.number = n → u.allClean = false →
    exec (.localResultKnown c n) s = .next s) ∧
  (∀ (c : CtxId) (n : Nat) (s : State), s.repairsOwed c = true → exec (.localResultKnown c n) s = .next s)

/-- A reduced mask of 0 commits the step; any other mask rolls the clearing back without touching the committed version. For a
step that has voted: a reduced 0 makes its number the committed version, its live and mirror slots COMMITTED, the slot before
it FREE or RETAINED by the retention depth, and ends the step. A mask counts in its own epoch alone: one of another epoch is
dropped and counted. A mask other than 0 leaves the committed version and every COMMITTED slot, raises the epoch by 1,
discards every provisional step and contributes the acknowledgement. Each clause that says so has as its conclusion that exec
answers a next state; it does for: voteReduced. -/
def Obligations.CommitByVote : Prop :=
  (∀ (c : CtxId) (u : Step) (duration : Nat) (noPage : List Bool) (s : State), (s.ctx c).steps = [u] →
    u.voted.isSome = true → u.reduced = none → u.state = .voting → u.replay = false → 0 < u.number →
    s.inReset .cp = false →
    Completes (exec (.voteReduced c ⟨u.number, (s.ctx c).epoch⟩ 0 duration noPage) s) (fun t => (t.ctx c).committed = u.number ∧
      (t.ctx c).steps = [] ∧ ((t.ctx c).liveSlot u.number).state = .committed ∧
      ((t.ctx c).liveSlot u.number).version = u.number ∧ ((t.ctx c).mirSlot u.number).state = .committed ∧
      ((t.ctx c).liveSlot (u.number - 1)).state = (if s.retention = 0 then .free else .retained) ∧
      (t.ctx c).epoch = (s.ctx c).epoch ∧ OtherCtxs c s t ∧ t.mem.hbm = s.mem.hbm ∧
      (s.hub.eolDue = [] → s.buildsBeyond c = [] → OnlyChanges [.ctxs, .rings, .cxl, .mem, .cores, .grove, .out] s t))) ∧
  (∀ (c : CtxId) (u : Step) (mask : Word) (duration : Nat) (noPage : List Bool) (s : State), (s.ctx c).steps = [u] →
    u.voted.isSome = true → u.reduced = none → u.state = .voting → mask ≠ 0 → s.inReset .cp = false →
    Completes (exec (.voteReduced c ⟨u.number, (s.ctx c).epoch⟩ mask duration noPage) s) (fun t =>
      (t.ctx c).committed = (s.ctx c).committed ∧ (t.ctx c).epoch = (s.ctx c).epoch + 1 ∧ (t.ctx c).ackWait = true ∧
      (t.ctx c).steps.map (fun x => (x.number, x.state)) = [(u.number, .discarded)] ∧
      (∀ v, ((s.ctx c).liveSlot v).state = .committed → ((t.ctx c).liveSlot v).state = .committed ∧
        ((t.ctx c).liveSlot v).data = ((s.ctx c).liveSlot v).data) ∧
      (t.ctx c).keep = (s.ctx c).keep ∧ t.out.msgs.head? = some (.contribute c .rollbackAck 0) ∧ OtherCtxs c s t ∧
      OnlyChanges [.ctxs, .rings, .cxl, .mem, .cores, .hub, .out] s t)) ∧
  (∀ (c : CtxId) (n : Nat) (mask : Word) (duration : Nat) (noPage : List Bool) (s : State), (s.ctx c).stepNo n = none →
    exec (.voteReduced c ⟨n, (s.ctx c).epoch⟩ mask duration noPage) s = .next s) ∧
  (∀ (c : CtxId) (tag : StepTag) (mask : Word) (duration : Nat) (noPage : List Bool) (s : State), tag.epoch ≠ (s.ctx c).epoch →
    Completes (exec (.voteReduced c tag mask duration noPage) s) (fun t =>
      t.ctx c = { s.ctx c with epochDrops := (s.ctx c).epochDrops + 1 } ∧ OtherCtxs c s t ∧ OnlyChanges [.ctxs] s t))

/-- After the acknowledgement the discarded step runs again with the next attempt number; a kept version replaces the oldest.
With nothing else awaited, the acknowledgement starts the discarded step again in FORWARD, its descriptor and batch as they
were, its attempt one higher, and its takeover record sent again; where the rollback named a stop, the step ends and the ring
stops at its descriptor with the cause. A keep copy that ends joins the versions kept, over the oldest when the retention
depth is reached, and its slot becomes FREE. Each clause that says so has as its conclusion that exec answers a next state; it
does for: rollbackAckComplete, keepCopyComplete. -/
def Obligations.ReexecutionAndRetention : Prop :=
  (∀ (c : CtxId) (u : Step) (s : State), (s.ctx c).steps = [u] → (s.ctx c).ackWait = true → (s.ctx c).waitSpare = false →
    (s.ctx c).takeoverOf = [] → s.mem.mapouts = [] → (s.ctx c).stopAt = none →
    Completes (exec (.rollbackAckComplete c) s) (fun t => (t.ctx c).ackWait = false ∧
      ((t.ctx c).steps.map (fun x => (x.number, x.attempt, x.state, x.desc, x.batch))) =
        [(u.number, (u.attempt + 1) % 256, .forward, u.desc, u.batch)] ∧
      (u.replay = false → ∀ v ∈ (t.ctx c).steps, t.out.msgs = .takeoverRecord c (takeoverRec (t.ring (setOf c)) v) :: s.out.msgs) ∧
      (t.ctx c).committed = (s.ctx c).committed ∧ OtherCtxs c s t ∧ OnlyChanges [.ctxs, .cores, .out] s t)) ∧
  (∀ (c : CtxId) (u : Step) (st : Status) (s : State), (s.ctx c).steps = [u] → (s.ctx c).ackWait = true →
    (s.ctx c).waitSpare = false → (s.ctx c).takeoverOf = [] → s.mem.mapouts = [] →
    (s.ctx c).stopAt = some (u.number, st) →
    Completes (exec (.rollbackAckComplete c) s) (fun t => (t.ctx c).ackWait = false ∧ (t.ctx c).steps = [] ∧
      (t.ring (setOf c)).step.stop = some st ∧ (t.ring (setOf c)).step.consumer = u.desc.index ∧ OtherCtxs c s t ∧
      OtherRings (setOf c) s t ∧ OnlyChanges [.ctxs, .rings, .cxl] s t)) ∧
  (∀ (c : CtxId) (s : State), (s.ctx c).ackWait = true → (s.ctx c).waitSpare = true →
    exec (.rollbackAckComplete c) s = .next s) ∧
  (∀ (c : CtxId) (i : Fin 3) (rest : List (Fin 3)) (s : State), (s.ctx c).keepCopy = i :: rest → (s.ctx c).keep.length < s.retention →
    s.mem.upsets = [] → s.mem.repairs = [] →
    Completes (exec (.keepCopyComplete c) s) (fun t =>
      (t.ctx c).keep = (s.ctx c).keep ++ [((AL.get {} i (s.ctx c).live).version, (AL.get {} i (s.ctx c).live).data)] ∧
      (t.ctx c).keepCopy = rest ∧ (AL.get {} i (t.ctx c).live).state = .free ∧
      (∀ j, j ≠ i → AL.get {} j (t.ctx c).live = AL.get {} j (s.ctx c).live) ∧ OtherCtxs c s t ∧
      t.mem.hbm = s.mem.hbm ∧ OnlyChanges [.ctxs, .mem] s t)) ∧
  (∀ (c : CtxId) (i : Fin 3) (rest : List (Fin 3)) (s : State), (s.ctx c).keepCopy = i :: rest → (s.ctx c).keep.length = s.retention →
    s.mem.upsets = [] → s.mem.repairs = [] →
    Completes (exec (.keepCopyComplete c) s) (fun t =>
      (t.ctx c).keep = (s.ctx c).keep.drop 1 ++ [((AL.get {} i (s.ctx c).live).version, (AL.get {} i (s.ctx c).live).data)] ∧
      OtherCtxs c s t ∧ t.mem.hbm = s.mem.hbm ∧ OnlyChanges [.ctxs, .mem] s t))

/-- Requests batch to TARGET rows or until the window elapses; a batch writes its outputs and completes. A request opens an
empty batch with the registers as they stand; joins an open batch it does not take beyond TARGET, which dispatches when it
reaches TARGET exactly; and dispatches one it would take beyond TARGET, opening the next. A window that has elapsed dispatches
its batch, which while the context is pre-empted waits to be the first at its resume. A pending commit of the register applies
when a request opens a batch. The outputs of the batch dispatched first, every check of it passed, are written and its request
completes. Each clause that says so has as its conclusion that exec answers a next state; it does for: generate,
batchingWindowElapse, generateOutputWrite. -/
def Obligations.RolloutBatches : Prop :=
  (∀ (c : CtxId) (q : QDesc) (inp : List Byte) (s : State), s.headOf c .step .generate = some q → (s.ctx c).batch = none →
    (s.regs.bank .coreRbatch).pending = none → dRows q.bytes < bitsOf (s.reg (aRbatch c.val)) 12 0 → 0 < bitsOf (s.reg (aRbatch c.val)) 31 16 →
    Completes (exec (.generate c (.data inp)) s) (fun t => (t.ctx c).batch = some ⟨dRows q.bytes,
        [(q.index, dOutputAddr q.bytes, dRows q.bytes)], bitsOf (s.reg (aRbatch c.val)) 12 0,
        bitsOf (s.reg (aRbatch c.val)) 31 16, s.now⟩ ∧ (t.ctx c).batches = (s.ctx c).batches ∧
      (t.ring (setOf c)).step.consumer = (s.ring (setOf c)).step.consumer + 1 ∧ OtherCtxs c s t ∧
      OtherRings (setOf c) s t ∧ OnlyChanges [.ctxs, .rings, .cores, .hub] s t)) ∧
  (∀ (c : CtxId) (q : QDesc) (inp : List Byte) (b : RBatch) (s : State), s.headOf c .step .generate = some q →
    (s.ctx c).batch = some b → b.rows + dRows q.bytes < b.target →
    Completes (exec (.generate c (.data inp)) s) (fun t =>
      (t.ctx c).batch = some { b with rows := b.rows + dRows q.bytes, reqs := b.reqs ++ [(q.index, dOutputAddr q.bytes, dRows q.bytes)] } ∧
      (t.ctx c).batches = (s.ctx c).batches ∧ OtherCtxs c s t ∧ OnlyChanges [.ctxs, .rings, .cores, .hub] s t)) ∧
  (∀ (c : CtxId) (q : QDesc) (inp : List Byte) (b : RBatch) (s : State), s.headOf c .step .generate = some q →
    (s.ctx c).batch = some b → b.rows + dRows q.bytes = b.target → (s.ctx c).paused = false →
    Completes (exec (.generate c (.data inp)) s) (fun t => (t.ctx c).batch = none ∧
      (t.ctx c).batches = (s.ctx c).batches ++ 
        [{ b with rows := b.target, reqs := b.reqs ++ [(q.index, dOutputAddr q.bytes, dRows q.bytes)] }] ∧
      OtherCtxs c s t ∧ OnlyChanges [.ctxs, .rings, .cores, .hub] s t)) ∧
  (∀ (c : CtxId) (q : QDesc) (inp : List Byte) (b : RBatch) (s : State), s.headOf c .step .generate = some q →
    (s.ctx c).batch = some b → b.target < b.rows + dRows q.bytes → (s.ctx c).paused = false →
    (s.regs.bank .coreRbatch).pending = none → 
    dRows q.bytes < bitsOf (s.reg (aRbatch c.val)) 12 0 → 0 < bitsOf (s.reg (aRbatch c.val)) 31 16 →
    Completes (exec (.generate c (.data inp)) s) (fun t => (t.ctx c).batches = (s.ctx c).batches ++ [b] ∧
      ((t.ctx c).batch.map (fun x => (x.rows, x.opened))) = some (dRows q.bytes, s.now) ∧
      OtherCtxs c s t ∧ OnlyChanges [.ctxs, .rings, .cores, .hub] s t)) ∧
  (∀ (c : CtxId) (b : RBatch) (s : State), (s.ctx c).batch = some b → b.opened + b.window ≤ s.now →
    (s.ctx c).paused = false →
    Completes (exec (.batchingWindowElapse c) s) (fun t => (t.ctx c).batch = none ∧
      (t.ctx c).batches = (s.ctx c).batches ++ [b] ∧ OtherCtxs c s t ∧ OnlyChanges [.ctxs, .cores] s t)) ∧
  (∀ (c : CtxId) (b : RBatch) (s : State), (s.ctx c).batch = some b → b.opened + b.window ≤ s.now →
    (s.ctx c).paused = true →
    Completes (exec (.batchingWindowElapse c) s) (fun t => (t.ctx c).batch = none ∧
      (t.ctx c).lateBatches = (s.ctx c).lateBatches ++ [b] ∧ (t.ctx c).batches = (s.ctx c).batches ∧ OtherCtxs c s t ∧
      OnlyChanges [.ctxs, .cores] s t)) ∧
  (∀ (c : CtxId) (q : QDesc) (inp : List Byte) (w : Word) (s : State), s.headOf c .step .generate = some q →
    (s.ctx c).batch = none → (s.regs.bank .coreRbatch).pending = some ([(aRbatch c.val, w)], [c.val]) →
    s.behindProfile .coreRbatch = false → dRows q.bytes < bitsOf w.toNat 12 0 → 0 < bitsOf w.toNat 31 16 →
    Completes (exec (.generate c (.data inp)) s) (fun t => t.regs.val (aRbatch c.val) = w ∧
      ((t.ctx c).batch.map (fun x => (x.target, x.window))) = some (bitsOf w.toNat 12 0, bitsOf w.toNat 31 16))) ∧
  (∀ (c : CtxId) (b : RBatch) (s : State), (s.ctx c).batch = some b → s.now < b.opened + b.window →
    exec (.batchingWindowElapse c) s = .next s) ∧
  (∀ (c : CtxId) (b : RBatch) (bs : List RBatch) (r : BitVec 32 × Nat × Nat) (f : Flow) (out : List Byte) (s : State),
    (s.ctx c).batches = b :: bs → b.reqs = [r] → s.batchPassed c = true → (s.ring (setOf c)).step.flow = [f] → f.index = r.1 →
    Completes (exec (.generateOutputWrite c [out] [false]) s) (fun t => (t.ctx c).batches = bs ∧
      t.out.hostData = (c, r.1.toNat, r.2.1, out.length) :: s.out.hostData ∧ (t.ring (setOf c)).step.flow = [] ∧
      (t.ring (setOf c)).cpl2.next + (t.ring (setOf c)).cpl2.held.length =
        (s.ring (setOf c)).cpl2.next + (s.ring (setOf c)).cpl2.held.length + 1 ∧
      OtherCtxs c s t ∧ OtherRings (setOf c) s t ∧ OnlyChanges [.ctxs, .rings, .cxl, .cores, .out] s t))

/-- The next pass of a core that may run begins on the operands its blocks hold; a read not good holds it; one of no rows
passes. In front mode and in broadcast mode the next outstanding pass of a context that the core may run, of at least one row,
with good block reads, joins the passes that run with its operands read from the scratchpad, leaves those outstanding and
counts among those begun of its block. With a block of another version, or of a record not sealed, the core stalls on it and
the pass stays outstanding. A pass that is empty is passed over. While the array has another context’s pass stalled, that
context not being paused, the pass stays outstanding. Each clause that says so has as its conclusion that exec answers a next
state; it does for: swapFrontDepart, broadcastSwap. -/
def Obligations.PassStarts : Prop :=
  (∀ (k : CoreId) (n : Nat) (o : PassOrder) (s : State), (s.core k).nextPass o.ctx = some (n, o) → s.mayRun k n o false = true →
    o.empty = false → ((s.core k).mx.broadcast = false ∨ (s.core k).mx.running = []) →
    s.arrayFree k o.ctx = true → s.readsBad k o.ctx n ⟨o.outTensor, .todo o false⟩ true (passReads o) = none →
    Completes (exec (.swapFrontDepart k o .none) s) (fun t =>
      (t.core k).mx.running = (s.core k).mx.running ++ [s.readPass k n o] ∧ (t.core k).mx.broadcast = false ∧
      (t.core k).mx.stalled = none ∧ (t.core k).todo = (s.core k).todo.erase (n, o) ∧
      (t.core k).begun = (n, o) :: (s.core k).begun ∧ (t.core k).blocks = (s.core k).blocks ∧
      (t.core k).mx.out = (s.core k).mx.out ∧ (t.core k).strikes = (s.core k).strikes ∧ OtherCores k s t ∧
      OtherCtxs o.ctx s t ∧ OnlyChanges [.cores, .ctxs] s t)) ∧
  (∀ (k : CoreId) (n : Nat) (o : PassOrder) (s : State), (s.core k).nextPass o.ctx = some (n, o) → s.mayRun k n o true = true →
    o.empty = false → ((s.core k).mx.broadcast = true ∨ (s.core k).mx.running = []) →
    s.arrayFree k o.ctx = true → s.readsBad k o.ctx n ⟨o.outTensor, .todo o true⟩ true (passReads o) = none →
    Completes (exec (.broadcastSwap k o .none) s) (fun t =>
      (t.core k).mx.running = (s.core k).mx.running ++ [s.readPass k n o] ∧ (t.core k).mx.broadcast = true ∧
      (t.core k).mx.stalled = none ∧ (t.core k).todo = (s.core k).todo.erase (n, o) ∧
      (t.core k).blocks = (s.core k).blocks ∧ OtherCores k s t ∧ OtherCtxs o.ctx s t ∧ OnlyChanges [.cores, .ctxs] s t)) ∧
  (∀ (k : CoreId) (n : Nat) (o : PassOrder) (r : BlockRef) (s : State), (s.core k).nextPass o.ctx = some (n, o) →
    s.mayRun k n o false = true → o.empty = false → (s.core k).mx.broadcast = false →
    s.arrayFree k o.ctx = true → s.readRefs k o.ctx n true (passReads o) = some (r, .stall) →
    Completes (exec (.swapFrontDepart k o .none) s) (fun t =>
      (t.core k).mx = { (s.core k).mx with stalled := some (⟨o.ctx, n, r.ident.tensor, r.ident.inst, ((s.core k).block r.block).version⟩ : Stall) } ∧
       (t.core k).blocks = (s.core k).blocks ∧ (t.core k).todo = (s.core k).todo ∧ OtherCores k s t ∧ OnlyChanges [.cores] s t)) ∧
  (∀ (k : CoreId) (n : Nat) (o : PassOrder) (f : PassFault) (s : State), (s.core k).nextPass o.ctx = some (n, o) →
    s.mayRun k n o false = true → o.empty = true →
    Completes (exec (.swapFrontDepart k o f) s) (fun t => (t.core k).todo = (s.core k).todo.erase (n, o) ∧
      (t.core k).mx = (s.core k).mx ∧ (t.core k).ops = (s.core k).ops ∧ (t.core k).blocks = (s.core k).blocks ∧
      OtherCores k s t ∧ OnlyChanges [.cores] s t)) ∧
  (∀ (k : CoreId) (n : Nat) (o : PassOrder) (w : Stall) (f : PassFault) (s : State), (s.core k).nextPass o.ctx = some (n, o) →
    o.empty = false → (s.core k).mx.stalled = some w → w.ctx ≠ o.ctx → (s.ctx w.ctx).paused = false →
    exec (.swapFrontDepart k o f) s = .next s)

/-- The ABFT checks of an exact pairing agree with every fault-free pass. For every pass of an exact pairing, whatever its
codes, the row sums and the column sums formed from the cells equal those formed by the checksum path wherever they are
finite: no check fails without a fault. -/
def Obligations.ExactPassesPassTheirChecks : Prop :=
  ∀ p : Pass, passExact p = true → passCheck p .none (passOwn p) = none

/-- One accumulator of an exact pairing that is off by anything fails the check of its row. For an exact pass, an error other
than 0 in one accumulator of a row whose sum is finite makes the check fail with KIND 1, the row check. -/
def Obligations.OneFaultIsCaught : Prop :=
  ∀ (p : Pass) (r c : Nat) (delta total : Int), passExact p = true → r < p.rows.length → c < passCols p → delta ≠ 0 →
    accTotal ((passOwn p).getD r []) = some total →
    ((passCheck p (.acc r c delta) (faultAcc (.acc r c delta) (passOwn p))).map (fun e => e.1)) = some 1

/-- The oldest pass of a core ends: partials stay in its slots, outputs of the last K-tile are drained to blocks and to the
step. A fault-free exact pass that is the first and not the last K-tile of its output block writes its accumulators, row sums
and column sums to the slots of that block; a later one, its slots reading well, writes the exact sums onto what they held;
one that is first and last drains its codes, which are the core's output, the blocks of the output tensor and the step's
output tile. Each counts one tile operation and ends the pass. Each clause that says so has as its conclusion that exec
answers a next state; it does for: mxPassComplete. -/
def Obligations.PassEnds : Prop :=
  (∀ (k : CoreId) (p : Pass) (ps : List Pass) (s : State), (s.core k).mx.running = p :: ps → (s.core k).status = .active →
    s.inReset (.core k) = false → p.out = .partialAcc → p.firstK = true → passExact p = true →
    (p.turn = false ∨ p.src = p.tile) →
    Completes (exec (.mxPassComplete k .none) s) (fun t => (t.core k).mx.running = ps ∧ (t.core k).ops = (s.core k).ops + 1 ∧
      (t.core k).blocks = ((s.core k).putBlocks (s.runBlocks p.ctx p.step p.partRefs
        (partialBytes p.toPassOrder ⟨passOwn p, passRowSums p, passColSums p⟩))).blocks ∧
      (t.core k).strikes = (s.core k).strikes ∧ (t.core k).arbs = (s.core k).arbs ∧ OtherCores k s t ∧ OtherCtxs p.ctx s t ∧
      OnlyChanges [.cores, .ctxs] s t)) ∧
  (∀ (k : CoreId) (p : Pass) (ps : List Pass) (s : State), (s.core k).mx.running = p :: ps → (s.core k).status = .active →
    s.inReset (.core k) = false → p.out = .partialAcc → p.firstK = false → passExact p = true →
    (p.turn = false ∨ p.src = p.tile) → (s.core k).blockInDoubt p = false →
    s.readsBad k p.ctx p.step { op := p.outTensor } false p.partRefs = none →
    Completes (exec (.mxPassComplete k .none) s) (fun t =>
      let old := (s.core k).readPartial p.toPassOrder
      (t.core k).mx.running = ps ∧ (t.core k).ops = (s.core k).ops + 1 ∧
      (t.core k).blocks = ((s.core k).putBlocks (s.runBlocks p.ctx p.step p.partRefs
        (partialBytes p.toPassOrder ⟨passAccum p old (passOwn p), addSums false old.rowSum (passRowSums p),
          addSums false old.colSum (passColSums p)⟩))).blocks ∧
      (t.core k).arbs = (s.core k).arbs ∧ OtherCores k s t ∧ OtherCtxs p.ctx s t ∧ OnlyChanges [.cores, .ctxs] s t)) ∧
  (∀ (k : CoreId) (p : Pass) (ps : List Pass) (u : Step) (s : State), (s.core k).mx.running = p :: ps →
    (s.core k).status = .active → s.inReset (.core k) = false → p.out ≠ .partialAcc → p.firstK = true → passExact p = true →
    (p.turn = false ∨ p.src = p.tile) → (s.ctx p.ctx).steps = [u] → u.number = p.step → p.regrow = false → p.tSplit = none →
    p.out2 ≠ p.outTensor → p.tRefs.all (fun r => r.ident.tensor != p.outTensor) = true →
    (((s.ctx p.ctx).prog.map (·.gradTensors)).getD []).all (fun g => g.1 != p.outTensor) = true →
    Completes (exec (.mxPassComplete k .none) s) (fun t =>
      let d := drainAll p (s.outRec p.ctx p.step p.outTensor p.outInst) (s.outRec p.ctx p.step p.out2 p.outInst) (passOwn p)
        (passRowSums p, passColSums p)
      (t.core k).mx.running = ps ∧ (t.core k).ops = (s.core k).ops + 1 ∧ (t.core k).mx.out = elCodes d.one ∧
      (t.core k).blocks = ((s.core k).putBlocks (s.drainBlocks p (s.outRec p.ctx p.step p.outTensor p.outInst)
        (s.outRec p.ctx p.step p.out2 p.outInst) (elCodes d.one) d)).blocks ∧
      ((t.ctx p.ctx).steps.map (fun x => AL.find? (p.outTensor, p.outInst, p.outRow, p.outCol) x.outTiles)) =
        [some (elCodes d.one)] ∧
      (t.core k).strikes = (s.core k).strikes ∧ OtherCores k s t ∧ OtherCtxs p.ctx s t ∧
      OnlyChanges [.cores, .ctxs] s t)) ∧
  (∀ (k : CoreId) (f : PassFault) (s : State), (s.core k).mx.running = [] → exec (.mxPassComplete k f) s = .next s)

/-- A VX instruction writes its 256 lanes to one half of its destination block and nothing else on the core. With the core
free to run it, good reads and no fault, the destination half holds the lanes of the operation on the sources and the block
carries the tile tag of its identity and version; a whole block is partly written then, and one whose other half was written
under the same tag is whole; the checker-lane counter moves on by 1 modulo 16; other blocks, other cores and memory stay, and
the step of the context alone takes the result. Each clause that says so has as its conclusion that exec answers a next state;
it does for: vxInstruction. -/
def Obligations.VectorInstruction : Prop :=
  (∀ (k : CoreId) (op : VxOp) (srcs : List VecRef) (dst : VecRef) (c : CtxId) (key : Nat) (s : State),
    s.mayVector k c (s.vxStep k c op srcs) dst.ref.ident.tensor (vxPattern op) (.vx op srcs dst key) = true → s.drawOk c op = true →
    s.readsBad k c (s.vxStep k c op srcs) ⟨dst.ref.ident.tensor, .vec (.vx op srcs dst key)⟩ true (srcs.map (fun v => v.ref)) = none →
    Completes (exec (.vxInstruction k op srcs dst c key none none) s) (fun t =>
      let n := s.vxStep k c op srcs
      let env := s.vxEnv c n key (((srcs[0]?).map (fun v => v.ref.ident)).getD dst.ref.ident) dst.ref.ident
      (t.core k).block dst.ref.block = (s.vecBlock k c n dst ((vxLanes op env ((s.core k).vecWords srcs[0]?)
        ((s.core k).vecWords srcs[1]?) ((s.core k).vecWords srcs[2]?) ((s.core k).vecWords (some dst))).map (fun e => e.1))).2 ∧
      ((t.core k).block dst.ref.block).tag = tileTag dst.ref.ident (s.versionOf c n dst.ref.ident) ∧
      (((s.core k).block dst.ref.block).whole = true → ((t.core k).block dst.ref.block).whole = false) ∧
      (((s.core k).block dst.ref.block).whole = false → ((s.core k).block dst.ref.block).halves = [1 - dst.half] →
        ((s.core k).block dst.ref.block).tag = tileTag dst.ref.ident (s.versionOf c n dst.ref.ident) →
        ((s.core k).block dst.ref.block).ident = dst.ref.ident → ((t.core k).block dst.ref.block).whole = true) ∧
      (∀ b, b ≠ dst.ref.block → (t.core k).block b = (s.core k).block b) ∧
      (t.core k).laneCtr = ((s.core k).laneCtr + 1) % 16 ∧ (t.core k).ops = (s.core k).ops + 1 ∧
      (t.core k).mx = (s.core k).mx ∧ (t.core k).rake = (s.core k).rake ∧ (t.core k).scanOut = (s.core k).scanOut ∧
      (t.core k).strikes = (s.core k).strikes ∧ OtherCores k s t ∧ OtherCtxs c s t ∧ OnlyChanges [.cores, .ctxs] s t)) ∧
  (∀ (v : VxEnv) (a b c old : List Nat) (l : Nat), l < 256 →
    (vxLanes .iadd v a b c old)[l]? = some ((a.getD l 0 + b.getD l 0) % 2 ^ 32, {}) ∧
    (vxLanes .iand v a b c old)[l]? = some (((a.getD l 0) % 2 ^ 32) &&& ((b.getD l 0) % 2 ^ 32), {})) ∧
  (∀ (v : VxEnv) (a b c old : List Nat) (l : Nat), l < 256 → b.getD l 0 < 32 →
    (vxLanes .ishl v a b c old)[l]? = some ((a.getD l 0 * 2 ^ b.getD l 0) % 2 ^ 32, {}))

/-- The rake accumulates vectors and writes its result with the last; the scan unit scans a part of a sequence on a scan-
capable core. A fault-free rake operation adds one vector to the accumulators of its context and step, which start empty for
another, and, with the last vector, writes the result to its slot and clears them. A fault-free scan of a part that is not
empty gives the operation's output, from what the earlier parts left, on a core that is scan-capable, and does nothing on
another; an inclusive prefix sum's last element is its start and the sum of the keys; a sequence scanned in two parts gives
what it gives whole; an empty part does nothing. Each clause that says so has as its conclusion that exec answers a next
state; it does for: rakeReduction, scanOperation. -/
def Obligations.RakeAndScan : Prop :=
  (∀ (k : CoreId) (op : RakeOp) (f : Fmt) (src : VecRef) (lanes index : Nat) (c : CtxId) (e : TensorRef) (s : State),
    s.mayVector k c (s.opStep k c [src.ref]) e.tensor (vecPattern 9 f.code) (.rake op f src lanes index e .more) = true →
    (s.core k).rakeInDoubt = false →
    s.readsBad k c (s.opStep k c [src.ref]) ⟨e.tensor, .vec (.rake op f src lanes index e .more)⟩ true [src.ref] = none →
    Completes (exec (.rakeReduction k op f src lanes index c e .more .none) s) (fun t =>
      let n := s.opStep k c [src.ref]
      let r := if f = .fxr64 then s.outRec c n src.ref.ident.tensor src.ref.ident.inst else s.outRec c n e.tensor e.inst
      let start := if (s.core k).rakeOf = some (c, n) then (s.core k).rake else {}
      (t.core k).rake = start.step op f r (halfWords ((s.core k).block src.ref.block) src.half) (min lanes 256) index .none ∧
      (t.core k).rakeOf = some (c, n) ∧
      (t.core k).rakeOut = (s.core k).rakeOut ∧ (t.core k).blocks = (s.core k).blocks ∧ (t.core k).mx = (s.core k).mx ∧
      OtherCores k s t ∧ OtherCtxs c s t ∧ OnlyChanges [.cores, .ctxs] s t)) ∧
  (∀ (k : CoreId) (op : RakeOp) (f : Fmt) (src : VecRef) (lanes index : Nat) (c : CtxId) (e : TensorRef) (d : SlotRef) (s : State),
    s.mayVector k c (s.opStep k c [src.ref]) d.ref.ident.tensor (vecPattern 9 f.code) (.rake op f src lanes index e (.slot d)) = true →
    (s.core k).rakeInDoubt = false → (s.core k).rake.exact = (s.core k).rake.right →
    s.readsBad k c (s.opStep k c [src.ref]) ⟨d.ref.ident.tensor, .vec (.rake op f src lanes index e (.slot d))⟩ true [src.ref] = none →
    Completes (exec (.rakeReduction k op f src lanes index c e (.slot d) .none) s) (fun t =>
      let n := s.opStep k c [src.ref]
      let r := if f = .fxr64 then s.outRec c n src.ref.ident.tensor src.ref.ident.inst else s.outRec c n e.tensor e.inst
      let start := if (s.core k).rakeOf = some (c, n) then (s.core k).rake else {}
      let a := start.step op f r (halfWords ((s.core k).block src.ref.block) src.half) (min lanes 256) index .none
      (t.core k).rakeOut = some (rakeResult a op) ∧ (t.core k).rake = {} ∧ (t.core k).rakeOf = none ∧
      (t.core k).block d.ref.block = s.slotBlock k c n d (rakeBytes op f (rakeResult a op)) ∧
      (∀ b, b ≠ d.ref.block → (t.core k).block b = (s.core k).block b) ∧ OtherCores k s t ∧ OtherCtxs c s t ∧
      OnlyChanges [.cores, .ctxs] s t)) ∧
  (∀ (k : CoreId) (op : ScanOp) (part : ScanPart) (dst : List BlockRef) (c : CtxId) (tensor : Nat) (s : State),
    s.mayVector k c (s.opStep k c (scanReads op part.src part.earlier)) tensor (vecPattern 10 0) (.scan op part dst tensor) = true →
    part.count ≠ 0 →
    s.readsBad k c (s.opStep k c (scanReads op part.src part.earlier)) ⟨tensor, .vec (.scan op part dst tensor)⟩ true
      (scanReads op part.src part.earlier) = none →
    Completes (exec (.scanOperation k op part dst c tensor none) s) (fun t =>
      let keys := (s.core k).scanInput op part.src part.count
      let out := scanResult op part.first ((s.core k).scanStart op part.earlier part.parts) keys
        ((s.core k).scanHeads op part.count part.first)
      (t.core k).scanOut = (if Config.scanCapable k.num.val then out else (s.core k).scanOut) ∧
      (Config.scanCapable k.num.val = true → (t.core k).blocks = ((s.core k).putBlocks (s.runBlocks c
        (s.opStep k c (scanReads op part.src part.earlier)) dst (packCodes (scanBits op) (out.map (ofSigned (scanBits op)))))).blocks) ∧
      (Config.scanCapable k.num.val = false → t = s) ∧ OtherCores k s t ∧ OtherCtxs c s t ∧
      OnlyChanges [.cores, .ctxs] s t)) ∧
  (∀ (k : CoreId) (op : ScanOp) (part : ScanPart) (dst : List BlockRef) (c : CtxId) (tensor : Nat) (f : Option (Nat × Int)) (s : State),
    part.count = 0 → exec (.scanOperation k op part dst c tensor f) s = .next s) ∧
  (∀ (first : Nat) (start keys : List Int) (heads : List Bool), keys ≠ [] →
    (scanResult (.prefixSum true) first start keys heads).getLast? = some (start.headD 0 + keys.foldl (· + ·) 0) ∧
    (scanResult (.prefixSum true) first start keys heads).length = keys.length) ∧
  (∀ (inclusive : Bool) (xs ys : List Int), scanResult (.prefixSum inclusive) 0 [0] (xs ++ ys) [] =
    scanResult (.prefixSum inclusive) 0 [0] xs [] ++
      scanResult (.prefixSum inclusive) xs.length [scanTotal (.prefixSum inclusive) [0] xs []] ys [])

/-- A fill copies 2 KiB of device memory into a scratchpad block and writes its tag; a fault of translation fills nothing.
With the core active, the context running and the address in reach of the program, the block holds the bytes behind the DVA
under the tile tag of its identity and version; other blocks, other cores and the bytes of memory stay, and the read is
charged to its partition. A DVA whose entry does not permit the read fills no block and is reported with its operation; the
step under way votes STOP. Each clause that says so has as its conclusion that exec answers a next state; it does for:
coreDmaFill. -/
def Obligations.CoreDmaFills : Prop :=
  (∀ (k : CoreId) (c : CtxId) (dva a : Nat) (dst : FillRef) (s : State), (s.core k).status = .active →
    s.inReset (.core k) = false → (s.ctx c).loaded = true → (s.ctx c).paused = false → s.reach c dva .read = some a →
    Completes (exec (.coreDmaFill k c dva dst none none) s) (fun t =>
      ((t.core k).block dst.ref.block).bytes = s.hbmGet a 2048 ∧
      ((t.core k).block dst.ref.block).tag = tileTag dst.ref.ident dst.version ∧
      ((t.core k).block dst.ref.block).ident = dst.ref.ident ∧ ((t.core k).block dst.ref.block).version = dst.version ∧
      ((t.core k).block dst.ref.block).whole = true ∧ ((t.core k).block dst.ref.block).tagOk = true ∧
      ((t.core k).block dst.ref.block).dataOk = true ∧
      (∀ b, b ≠ dst.ref.block → (t.core k).block b = (s.core k).block b) ∧ (t.core k).mx = (s.core k).mx ∧
      OtherCores k s t ∧ t.mem.hbm = s.mem.hbm ∧ OnlyChanges [.cores, .mem] s t)) ∧
  (∀ (k : CoreId) (c : CtxId) (dva : Nat) (dst : FillRef) (u : Step) (s : State), (s.core k).status = .active →
    s.inReset (.core k) = false → (s.ctx c).loaded = true → (s.ctx c).paused = false →
    s.reach c dva .read = none → (s.ctx c).steps = [u] → u.state = .forward → u.voted = none →
    Completes (exec (.coreDmaFill k c dva dst none none) s) (fun t => t.cores = s.cores ∧ t.mem = s.mem ∧
      ((t.ctx c).steps.map (fun x => (x.number, x.state, x.stopCause))) =
        [(u.number, .voting, some .devTranslationFault)] ∧
      OtherCtxs c s t ∧ OnlyChanges [.ctxs, .rings, .cxl, .mss, .hub, .out] s t))

/-- The woodpile pushes on top, pops the top log with the tag expected, and frees a log only when its readers are done. A push
of an instance that is one log, its blocks read well, puts the log with its tag and its bytes on top of its micro-batch's
stack; with none free it waits behind an earlier step's logs, or stops its step with WOODPILE_FULL. A pop whose expected tag
is that of the top log marks it popped, writes it to its blocks and touches no other stack. A log whose release R136 permits
leaves its stack; one it does not permit stays. Nothing outside the context and the core's blocks changes. Each clause that
says so has as its conclusion that exec answers a next state; it does for: woodpilePush, woodpilePop, logRelease. -/
def Obligations.WoodpileIsAStack : Prop :=
  (∀ (c : CtxId) (mb n : Nat) (d : PushDecl) (e : CoreId × BlockRef) (s : State),
    ((s.ctx c).prog.bind (fun p => p.pushDecls.find? (fun x => x.tensor == d.tensor))) = some d → d.elastic = false →
    d.turned = false → 0 < d.bytes → d.bytes ≤ 2048 → s.opStep e.1 c [e.2] = n → ((s.ctx c).stepNo n).isSome = true →
    s.pushRead c n d e = .ok → ((s.core e.1).block e.2.block).bytes.length = 2048 → (s.ctx c).logsHeld < (s.ctx c).logRoom →
    Completes (exec (.woodpilePush c mb d.tensor ⟨[e], 0⟩) s) (fun t =>
      AL.get [] mb (t.ctx c).logStacks = ⟨s.pushTag c n mb d d.bytes 0, ((s.core e.1).block e.2.block).bytes.take d.bytes, false, e.1⟩ ::
        AL.get [] mb (s.ctx c).logStacks ∧ (s.pushTag c n mb d d.bytes 0).last = true ∧
      (s.pushTag c n mb d d.bytes 0).bytes = d.bytes ∧
      (∀ m, m ≠ mb → AL.get [] m (t.ctx c).logStacks = AL.get [] m (s.ctx c).logStacks) ∧
      (t.ctx c).steps = (s.ctx c).steps ∧ OtherCtxs c s t ∧ t.mem.hbm = s.mem.hbm ∧ OnlyChanges [.ctxs, .mem] s t)) ∧
  (∀ (c : CtxId) (mb n : Nat) (d : PushDecl) (e : CoreId × BlockRef) (s : State),
    ((s.ctx c).prog.bind (fun p => p.pushDecls.find? (fun x => x.tensor == d.tensor))) = some d → d.elastic = false →
    d.turned = false → 0 < d.bytes → d.bytes ≤ 2048 → s.opStep e.1 c [e.2] = n → ((s.ctx c).stepNo n).isSome = true →
    s.pushRead c n d e = .ok → (s.ctx c).logRoom ≤ (s.ctx c).logsHeld → (s.ctx c).earlierLog n = true →
    Completes (exec (.woodpilePush c mb d.tensor ⟨[e], 0⟩) s) (fun t => (t.ctx c).logStacks = (s.ctx c).logStacks ∧
      (t.ctx c).pushWait.length = (s.ctx c).pushWait.length + 1 ∧ (t.ctx c).steps = (s.ctx c).steps ∧
      OtherCtxs c s t ∧ t.mem.hbm = s.mem.hbm ∧ OnlyChanges [.ctxs, .mem] s t)) ∧
  (∀ (c : CtxId) (mb : Nat) (d : PushDecl) (e : CoreId × BlockRef) (u : Step) (s : State),
    ((s.ctx c).prog.bind (fun p => p.pushDecls.find? (fun x => x.tensor == d.tensor))) = some d → d.elastic = false →
    d.turned = false → 0 < d.bytes → d.bytes ≤ 2048 → s.opStep e.1 c [e.2] = u.number → (s.ctx c).steps = [u] → u.voted = none →
    u.state ≠ .discarded → s.pushRead c u.number d e = .ok → (s.ctx c).logRoom ≤ (s.ctx c).logsHeld →
    (s.ctx c).earlierLog u.number = false →
    Completes (exec (.woodpilePush c mb d.tensor ⟨[e], 0⟩) s) (fun t => (t.ctx c).logStacks = (s.ctx c).logStacks ∧
      ((t.ctx c).steps.map (fun x => (x.number, x.state, x.stopCause))) = [(u.number, .voting, some .woodpileFull)] ∧
      OtherCtxs c s t ∧ t.mem.hbm = s.mem.hbm ∧ OnlyChanges [.ctxs, .mem, .out] s t)) ∧
  (∀ (k : CoreId) (c : CtxId) (mb : Nat) (w : WLog) (ws : List WLog) (pop : LogPop) (s : State),
    (s.ctx c).runsBack pop.expect.step = true → (s.ctx c).paused = false → (s.core k).status = .active →
    s.inReset (.core k) = false → AL.get [] mb (s.ctx c).logStacks = w :: ws → w.popped = false →
    s.mem.upsets = [] → s.mem.repairs = [] → tagExpected pop.expect w.tag = true → pop.dst.length = cdiv w.payload.length 2048 →
    Completes (exec (.woodpilePop k c mb pop) s) (fun t =>
      AL.get [] mb (t.ctx c).logStacks = { w with popped := true } :: ws ∧
      (t.core k).blocks = ((s.core k).putBlocks (s.runBlocks c pop.expect.step pop.dst w.payload)).blocks ∧
      (∀ m, m ≠ mb → AL.get [] m (t.ctx c).logStacks = AL.get [] m (s.ctx c).logStacks) ∧ OtherCtxs c s t ∧
      OtherCores k s t ∧ t.mem.hbm = s.mem.hbm ∧ OnlyChanges [.ctxs, .cores, .mem] s t)) ∧
  (∀ (c : CtxId) (mb : Nat) (w : WLog) (s : State),
    AL.get [] mb (s.ctx c).logStacks = [w] → s.mayRelease c w = true → (s.ctx c).pushWait = [] →
    Completes (exec (.logRelease c mb w.tag.tensor w.tag.part) s) (fun t => AL.get [] mb (t.ctx c).logStacks = [] ∧
      (∀ m, m ≠ mb → AL.get [] m (t.ctx c).logStacks = AL.get [] m (s.ctx c).logStacks) ∧ OtherCtxs c s t ∧
      OnlyChanges [.ctxs] s t)) ∧
  (∀ (c : CtxId) (mb : Nat) (w : WLog) (s : State),
    AL.get [] mb (s.ctx c).logStacks = [w] → s.mayRelease c w = false →
    exec (.logRelease c mb w.tag.tensor w.tag.part) s = .next s)

/-- A record is sealed when its first attempt fits, and replayed once with its exact range when it does not. With no
arbitration on the tensor, no pass of the index left and the record open: a first attempt with no replay cause, and a second
attempt, seal it and touch no other record. A replay cause puts the replayed record in its place, drops the attempt's output
tiles, adds a replay entry, restarts the checker-lane counters and leaves no pass of the attempt among those that have run. A
merge notes the merged range of the tensor once, its last producer having ended. A tile that stalled too long on a record
fails the parity class of its step, with a strike to the core that waited, which no longer stalls; not while the context is
paused or the record is not sealed with another version. Each clause that says so has as its conclusion that exec answers a
next state; it does for: scaleReplayDecision, scaleHistoryMerge, scaleVersionTimeout. -/
def Obligations.ScaleDecisions : Prop :=
  (∀ (c : CtxId) (tensor inst q : Nat) (u : Step) (r : ScaleRec) (s : State), (s.ctx c).steps = [u] →
    u.state = .forward → recAt u.records tensor inst = some r → s.tensorBusy c u.number tensor = false → r.sealed = false →
    s.noneLeft c u.number (writesOut tensor inst) = true →
    (r.epoch ≠ 0 ∨ replayCause q r (AL.get {} (tensor, inst) u.measures) = none) →
    Completes (exec (.scaleReplayDecision c tensor inst q) s) (fun t =>
      ((t.ctx c).steps.map (fun x => recAt x.records tensor inst)) = [some { r with sealed := true }] ∧
      ((t.ctx c).steps.map (fun x => (x.replays, x.outTiles))) = [(u.replays, u.outTiles)] ∧
      OtherCtxs c s t ∧ OnlyChanges [.ctxs] s t)) ∧
  (∀ (c : CtxId) (tensor inst q : Nat) (u : Step) (r : ScaleRec) (st : Status) (s : State), (s.ctx c).steps = [u] →
    u.state = .forward → recAt u.records tensor inst = some r → s.tensorBusy c u.number tensor = false → r.sealed = false →
    r.epoch = 0 → s.noneLeft c u.number (writesOut tensor inst) = true →
    replayCause q r (AL.get {} (tensor, inst) u.measures) = some st →
    Completes (exec (.scaleReplayDecision c tensor inst q) s) (fun t =>
      ((t.ctx c).steps.map (fun x => recAt x.records tensor inst)) =
        [some (replayRecord r (AL.get {} (tensor, inst) u.measures))] ∧
      ((t.ctx c).steps.map (fun x => x.replays.length)) = [u.replays.length + 1] ∧
      ((t.ctx c).steps.all (fun x => x.outTiles.all (fun e => !(e.1.1 == tensor && e.1.2.1 == inst)))) = true ∧
      ((t.ctx c).steps.all (fun x => x.ran.all (fun e => !writesOut tensor inst e.2))) = true ∧
      (t.cores.tbl.all (fun e => e.2.laneCtr == 0)) = true ∧ OtherCtxs c s t ∧ OnlyChanges [.ctxs, .cores] s t)) ∧
  (∀ (c : CtxId) (tensor : Nat) (u : Step) (s : State), (s.ctx c).steps = [u] → u.state = .forward →
    AL.find? tensor u.merged = none → s.tensorDone c u tensor = true →
    Completes (exec (.scaleHistoryMerge c tensor) s) (fun t =>
      ((t.ctx c).steps.map (fun x => AL.find? tensor x.merged)) =
        [some (((u.measures.filter (fun e => e.1.1 == tensor)).map (fun e => e.2)).foldl Measure.merge {})] ∧
      ((t.ctx c).steps.map (fun x => x.measures)) = [u.measures] ∧ OtherCtxs c s t ∧ OnlyChanges [.ctxs] s t)) ∧
  (∀ (c : CtxId) (tensor : Nat) (u : Step) (s : State), (s.ctx c).steps = [u] → u.state = .forward →
    ((AL.find? tensor u.merged).isSome = true ∨ s.tensorDone c u tensor = false) → exec (.scaleHistoryMerge c tensor) s = .next s) ∧
  (∀ (k : CoreId) (w : Stall) (u : Step) (s : State), (s.ctx w.ctx).steps = [u] → u.number = w.step →
    u.state = .forward → u.voted = none → (s.core k).mx.stalled = none → (s.core k).stalled = some w → s.stallCounts w = true →
    (s.core k).strikes = [] → (s.core k).conditional = false → s.cores.tbl.all (fun e => !(s.core e.1).struck) = true →
    Completes (exec (.scaleVersionTimeout k w.ctx w.tensor w.inst w.version) s) (fun t =>
      t.core k = { s.core k with stalled := none, strikes := [((s.core k).ops, false)] } ∧
      ((t.ctx w.ctx).steps.map (fun x => (x.state, x.failed &&& 4, x.nTimeout))) = [(.voting, 4, u.nTimeout + 1)] ∧
      ((t.ctx w.ctx).steps.map (fun x => x.records)) = [u.records] ∧ OtherCtxs w.ctx s t ∧ OtherCores k s t ∧
      OnlyChanges [.rings, .ctxs, .cxl, .cores, .mss, .hub, .out] s t)) ∧
  (∀ (k : CoreId) (c : CtxId) (tensor inst : Nat) (v : Version) (s : State), (s.core k).stallNamed c tensor inst v = none →
    exec (.scaleVersionTimeout k c tensor inst v) s = .next s) ∧
  (∀ (k : CoreId) (w : Stall) (s : State), (s.core k).mx.stalled = none → (s.core k).stalled = some w → s.stallCounts w = false →
    exec (.scaleVersionTimeout k w.ctx w.tensor w.inst w.version) s = .next s)

/-- An FXR64 sum and the exact reductions of the cache do not depend on the order of contributions. Contributions that are
markers, or so bounded that no sum reaches 2^63, give one FXR64 sum in any order, and the marker if one of them is. Two
contributions to an integer, accumulator or OR target of the cache give one value in either order. -/
def Obligations.SumsAreFreeOfOrder : Prop :=
  (∀ xs ys : List Int, xs.Perm ys → (∀ x ∈ xs, x = fxrMarker ∨ x.natAbs * xs.length < 2 ^ 63) →
    xs.foldl fxrAdd 0 = ys.foldl fxrAdd 0) ∧
  (∀ xs : List Int, fxrMarker ∈ xs → xs.foldl fxrAdd 0 = fxrMarker) ∧
  (∀ (op : CacheOp) (old a b : Nat), op ∈ [CacheOp.add32, .add64, .accInt, .accFp, .max32, .min32, .max64, .min64, .or32] →
    cacheApply op (cacheApply op old a) b = cacheApply op (cacheApply op old b) a)

/-- Contributions enter their accumulators once, uses are gathered exactly, and slices land with their residue checked. In
BACKWARD, a contribution whose turn it is is added, from the blocks its core holds, into the accumulators of its use and
output block: FXR64 exactly, FP32 with one rounding, and a first one starts them; only those blocks of that core change, and
the slot notes the micro-batch. An FP32 contribution before its turn waits. A block complete with its last contribution, or
with the GATHER of a tied tensor, joins the accumulator of its collective block. A GATHER leaves the exact sum of the uses in
the first. A slice with the right residue lands and goes to the buddy, with the update record if it has not gone; a wrong
residue fails the reduction class of the step. A slice of the buddy is kept for the mirror, or waits for its step; one of
another epoch is dropped and counted. Each clause that says so has as its conclusion that exec answers a next state; it does
for: gradientContributionEntry, gather, sliceLand, buddySliceReceive. -/
def Obligations.GradientContributions : Prop :=
  (∀ (k : CoreId) (c : CtxId) (pl : GradPlace) (src acc : List BlockRef) (u : Step) (p : Program) (g : Nat × Bool × Nat)
    (b : GradBlock) (s : State), (s.ctx c).steps = [u] → (s.ctx c).prog = some p → (s.ctx c).working = some u →
    p.gradTensors.find? (fun e => e.1 == pl.tensor) = some g →
    p.gradBlocks.find? (fun e => e.tensor == pl.tensor && e.blk == pl.blk) = some b → u.waitGrads = [] →
    s.mayEnter k c u p g b ⟨pl.tensor, pl.use, pl.blk, pl.mb, k, src, acc⟩ = true →
    s.readsBad k c u.number { op := pl.tensor } false
      (src ++ if (AL.find? (pl.tensor, pl.use, pl.blk) u.grads).isSome then acc else []) = none →
    p.gradBlocks.all (fun e => e.tensor != pl.tensor || e.blk == pl.blk || (u.blockDone p g e.blk).isNone) = true →
    p.collectives.all (fun e => e.tensor != pl.tensor || decide (0 < e.count)) = true →
    (acc.map (fun r => r.block)).Nodup →
    (g.2.1 = true → pl.mb = ((AL.find? (pl.tensor, pl.use, pl.blk) u.grads).map (fun a => a.mbs.length)).getD 0) →
    ((AL.find? (pl.tensor, pl.use, pl.blk) u.grads).map (fun a => a.mbs.length)).getD 0 + 1 < p.microbatches →
    pl.tensor ∉ u.gathered →
    Completes (exec (.gradientContributionEntry k c pl src acc) s) (fun t =>
      (∀ i, i < b.count → (t.core k).spadElem acc (accBits g.2.1) i =
        if (AL.find? (pl.tensor, pl.use, pl.blk) u.grads).isNone then (s.core k).spadElem src (accBits g.2.1) i
        else if g.2.1 then (addF (BitVec.ofNat 32 ((s.core k).spadElem acc 32 i)) (BitVec.ofNat 32 ((s.core k).spadElem src 32 i))).1.toNat
        else ofSigned 64 (fxrAdd (toSigned 64 ((s.core k).spadElem acc 64 i)) (toSigned 64 ((s.core k).spadElem src 64 i)))) ∧
      (∀ i, i ∉ acc.map (fun r => r.block) → (t.core k).block i = (s.core k).block i) ∧
      ((t.ctx c).steps.map (fun x => AL.find? (pl.tensor, pl.use, pl.blk) x.grads)) =
        [some ⟨k, acc, ((AL.find? (pl.tensor, pl.use, pl.blk) u.grads).map (fun a => a.mbs)).getD [] ++ [pl.mb]⟩] ∧
      OtherCores k s t ∧ OtherCtxs c s t ∧ OnlyChanges [.ctxs, .cores, .out] s t)) ∧
  (∀ (k : CoreId) (c : CtxId) (pl : GradPlace) (src acc : List BlockRef) (u : Step) (p : Program) (g : Nat × Bool × Nat)
    (b : GradBlock) (s : State), (s.ctx c).steps = [u] → (s.ctx c).prog = some p → (s.ctx c).working = some u →
    p.gradTensors.find? (fun e => e.1 == pl.tensor) = some g →
    p.gradBlocks.find? (fun e => e.tensor == pl.tensor && e.blk == pl.blk) = some b → g.2.1 = true → u.waitGrads = [] →
    s.mayEnter k c u p g b ⟨pl.tensor, pl.use, pl.blk, pl.mb, k, src, acc⟩ = true →
    s.readsBad k c u.number { op := pl.tensor } false
      (src ++ if (AL.find? (pl.tensor, pl.use, pl.blk) u.grads).isSome then acc else []) = none →
    p.gradBlocks.all (fun e => e.tensor != pl.tensor || (u.blockDone p g e.blk).isNone) = true →
    p.collectives.all (fun e => e.tensor != pl.tensor || decide (0 < e.count)) = true →
    pl.mb ≠ ((AL.find? (pl.tensor, pl.use, pl.blk) u.grads).map (fun a => a.mbs.length)).getD 0 →
    Completes (exec (.gradientContributionEntry k c pl src acc) s) (fun t =>
      ((t.ctx c).steps.map (fun x => x.waitGrads)) = [[⟨pl.tensor, pl.use, pl.blk, pl.mb, k, src, acc⟩]] ∧
      OtherCtxs c s t ∧ OnlyChanges [.ctxs, .out] s t)) ∧
  (∀ (k : CoreId) (c : CtxId) (pl : GradPlace) (src acc : List BlockRef) (u : Step) (p : Program) (g : Nat × Bool × Nat)
    (b : GradBlock) (cb : CollBlock) (s : State), (s.ctx c).steps = [u] → (s.ctx c).prog = some p →
    (s.ctx c).working = some u → p.gradTensors.find? (fun e => e.1 == pl.tensor) = some g → g.2.1 = false → g.2.2 = 1 →
    p.gradBlocks = [b] → b.tensor = pl.tensor → b.blk = pl.blk → p.collectives = [cb] → cb.tensor = pl.tensor →
    cb.first = b.first → cb.count = b.count → 0 < b.count → s.ident ∈ cb.contributors →
    s.mayEnter k c u p g b ⟨pl.tensor, pl.use, pl.blk, pl.mb, k, src, acc⟩ = true →
    s.readsBad k c u.number { op := pl.tensor } false
      (src ++ if (AL.find? (pl.tensor, pl.use, pl.blk) u.grads).isSome then acc else []) = none →
    (acc.map (fun r => r.block)).Nodup →
    ((AL.find? (pl.tensor, pl.use, pl.blk) u.grads).map (fun a => a.mbs.length)).getD 0 + 1 = p.microbatches →
    AL.find? (cb.stream, AL.get 0 cb.stream u.streamAt + cb.seqIx, 0) (s.ctx c).accums = none →
    1 < AL.get 0 s.ident cb.expects →
    Completes (exec (.gradientContributionEntry k c pl src acc) s) (fun t =>
      (AL.find? (cb.stream, AL.get 0 cb.stream u.streamAt + cb.seqIx, 0) (t.ctx c).accums).map (fun a => (a.vals, a.got)) =
        some (collCombine cb.op true [] ((List.range b.count).map (fun i => toSigned 64 ((t.core k).spadElem acc 64 i))), 1) ∧
      ((t.ctx c).steps.map (fun x => (x.handed, x.grads.all (fun e => e.1.1 != pl.tensor)))) =
        [(u.handed ++ [(pl.tensor, 0)], true)] ∧ OtherCtxs c s t ∧ OnlyChanges [.ctxs, .cores] s t)) ∧
  (∀ (c : CtxId) (tensor : Nat) (u : Step) (p : Program) (g : Nat × Bool × Nat) (b : GradBlock) (a : Nat → GradSlot) (s : State),
    (s.ctx c).steps = [u] → (s.ctx c).working = some u → (s.ctx c).prog = some p →
    p.gradTensors.find? (fun e => e.1 == tensor) = some g → g.2.1 = false → 0 < g.2.2 → tensor ∉ u.gathered →
    p.gradBlocks = [b] → b.tensor = tensor → 0 < p.microbatches → (a 0).acc.length = blocksFor 64 b.count →
    ((a 0).acc.map (fun r => r.block)).Nodup →
    s.slotsBad c u.number tensor ((List.range g.2.2).map a) = none → (s.ctx c).accums = [] →
    (∀ v, v < g.2.2 → AL.find? (tensor, v, b.blk) u.grads = some (a v)) → (∀ v, v < g.2.2 → (a v).mbs.length = p.microbatches) →
    Completes (exec (.gather c tensor) s) (fun t =>
      (∀ i, i < b.count → (t.core (a 0).core).spadElem (a 0).acc 64 i =
        ((List.range (g.2.2 - 1)).map (fun v => (s.core (a (v + 1)).core).spadElem (a (v + 1)).acc 64 i)).foldl
          (fun x y => ofSigned 64 (fxrAdd (toSigned 64 x) (toSigned 64 y))) ((s.core (a 0).core).spadElem (a 0).acc 64 i)) ∧
      ((t.ctx c).steps.map (fun x => x.gathered)) = [u.gathered ++ [tensor]] ∧ OtherCores (a 0).core s t ∧ OtherCtxs c s t ∧
      OnlyChanges [.ctxs, .cores, .out] s t)) ∧
  (∀ (c : CtxId) (slice tensor first : Nat) (vals : List Int) (residue : Nat) (u : Step) (p : Program) (s : State),
    (s.ctx c).steps = [u] → u.state = .backward → (s.ctx c).prog = some p → u.replay = false →
    AL.find? slice u.slices = none → vals.length ≤ 2 ^ 24 → residueOf vals = residue % 65535 →
    AL.find? c s.grove.shadows = none → u.reduced? p = false →
    Completes (exec (.sliceLand c slice tensor first vals residue) s) (fun t =>
      ((t.ctx c).steps.map (fun x => (AL.find? slice x.slices).map (fun l => (l.tensor, l.first, l.vals)))) =
        [some (tensor, first, vals)] ∧ ((t.ctx c).steps.map (fun x => x.updSent)) = [true] ∧
      t.out.msgs = .slice c u.number slice tensor first vals (if u.updSent then none else some u.upd) :: s.out.msgs ∧
      OtherCtxs c s t ∧ OnlyChanges [.ctxs, .out] s t)) ∧
  (∀ (c : CtxId) (slice tensor first : Nat) (vals : List Int) (residue : Nat) (u : Step) (p : Program) (s : State),
    (s.ctx c).steps = [u] → u.state = .backward → (s.ctx c).prog = some p → u.voted = none → AL.find? slice u.slices = none →
    vals.length ≤ 2 ^ 24 → residueOf vals ≠ residue % 65535 →
    Completes (exec (.sliceLand c slice tensor first vals residue) s) (fun t =>
      ((t.ctx c).steps.map (fun x => (x.state, x.failed &&& 16, AL.find? slice x.slices))) = [(.voting, 16, none)] ∧
      OtherCtxs c s t ∧ OnlyChanges [.ctxs, .rings, .cxl, .mss, .hub, .out] s t)) ∧
  (∀ (c : CtxId) (slice tensor first : Nat) (vals : List Int) (upd : Option UpdateRec) (u : Step) (s : State),
    (s.ctx c).steps = [u] → u.state ≠ .discarded →
    Completes (exec (.buddySliceReceive c ⟨u.number, (s.ctx c).epoch⟩ slice tensor first vals upd) s) (fun t =>
      ((t.ctx c).steps.map (fun x => (AL.find? slice x.recvSlices).map (fun l => (l.tensor, l.first, l.vals)))) =
        [some (tensor, first, vals)] ∧
      ((t.ctx c).steps.map (fun x => (x.recvUpdate, x.slices))) = [(if upd.isSome then upd else u.recvUpdate, u.slices)] ∧
      OtherCtxs c s t ∧ OnlyChanges [.ctxs] s t)) ∧
  (∀ (c : CtxId) (n slice tensor first : Nat) (vals : List Int) (upd : Option UpdateRec) (s : State),
    (s.ctx c).stepNo n = none → (s.ctx c).loaded = true → (s.ctx c).committed + (s.ctx c).steps.length < n →
    Completes (exec (.buddySliceReceive c ⟨n, (s.ctx c).epoch⟩ slice tensor first vals upd) s) (fun t =>
      (t.ctx c).early.map (fun e => (e.1, e.2.1, e.2.2.1.vals, e.2.2.2)) =
        (s.ctx c).early.map (fun e => (e.1, e.2.1, e.2.2.1.vals, e.2.2.2)) ++ [(n, slice, vals, upd)] ∧
      (t.ctx c).steps = (s.ctx c).steps ∧ OtherCtxs c s t ∧ OnlyChanges [.ctxs] s t)) ∧
  (∀ (c : CtxId) (tag : StepTag) (slice tensor first : Nat) (vals : List Int) (upd : Option UpdateRec) (s : State),
    tag.epoch ≠ (s.ctx c).epoch →
    Completes (exec (.buddySliceReceive c tag slice tensor first vals upd) s) (fun t =>
      t.ctx c = { s.ctx c with epochDrops := (s.ctx c).epochDrops + 1 } ∧ OtherCtxs c s t ∧ OnlyChanges [.ctxs] s t))

/-- Reductions end clean or are replayed once; the clip factor follows; the update writes version N and nothing else. A
reduction without overflow makes its tensor clean; the last one but the norm sends this module's norm contribution once its
slices are in; a first overflow discards the tensor's slices and contributions and replays it, a second fails the reduction
class. With every reduction clean, Q_n gives the clip factor, or marks the norm non-finite. With c known, the step goes to
UPDATE and its live slot is WRITING version N with the updated content, its layers ready in increasing order; the mirror slot
follows only when its inputs are complete; the committed slots stay. When both are written, the slots are PROVISIONAL, the
step CHECKING, and the digest goes to the buddy; while the mirror's inputs are missing, nothing happens. Each clause that says
so has as its conclusion that exec answers a next state; it does for: reductionComplete, normAllReduceComplete,
stepReductionsClean, updateWritten. -/
def Obligations.ReductionsAndTheUpdate : Prop :=
  (∀ (c : CtxId) (tensor : Nat) (amax : Word) (u : Step) (p : Program) (s : State), (s.ctx c).steps = [u] →
    u.state = .backward → (s.ctx c).prog = some p → tensor ∉ u.clean →
    Completes (exec (.reductionComplete c tensor amax false) s) (fun t =>
      ((t.ctx c).steps.map (fun x => (x.clean, x.slices))) = [(u.clean ++ [tensor], u.slices)] ∧
      OtherCtxs c s t ∧ OnlyChanges [.ctxs, .out] s t)) ∧
  (∀ (c : CtxId) (tensor : Nat) (amax : Word) (u : Step) (p : Program) (s : State), (s.ctx c).steps = [u] →
    u.state = .backward → (s.ctx c).prog = some p → tensor ∉ u.clean → u.normSent = false →
    (plainGrads p).all (fun g => (u.clean ++ [tensor]).contains g) = true → s.slicesIn c u p = true →
    Completes (exec (.reductionComplete c tensor amax false) s) (fun t =>
      t.out.msgs = .norm c u.number (normShare p (s.ctx c).lostMods s.ident u.qLocal) :: s.out.msgs ∧
      ((t.ctx c).steps.map (fun x => x.normSent)) = [true] ∧ OtherCtxs c s t ∧ OnlyChanges [.ctxs, .out] s t)) ∧
  (∀ (c : CtxId) (tensor : Nat) (amax : Word) (u : Step) (p : Program) (s : State), (s.ctx c).steps = [u] →
    u.state = .backward → (s.ctx c).prog = some p → tensor ∉ u.clean → tensor ∉ u.fxrReplayed →
    Completes (exec (.reductionComplete c tensor amax true) s) (fun t =>
      ((t.ctx c).steps.map (fun x => (x.fxrReplayed, x.clean, x.state))) = [(u.fxrReplayed ++ [tensor], u.clean, .backward)] ∧
      ((t.ctx c).steps.all (fun x => x.slices.all (fun e => e.2.tensor != tensor) && x.grads.all (fun e => e.1.1 != tensor) &&
        x.recvSlices.all (fun e => e.2.tensor != tensor) && x.ran.all (fun e => e.2.outTensor != tensor))) = true ∧
      OtherCtxs c s t ∧ OnlyChanges [.ctxs, .cores, .out] s t)) ∧
  (∀ (c : CtxId) (tensor : Nat) (amax : Word) (u : Step) (p : Program) (s : State), (s.ctx c).steps = [u] →
    u.state = .backward → (s.ctx c).prog = some p → tensor ∉ u.clean → tensor ∈ u.fxrReplayed → u.voted = none →
    Completes (exec (.reductionComplete c tensor amax true) s) (fun t =>
      ((t.ctx c).steps.map (fun x => (x.state, x.failed &&& 16))) = [(.voting, 16)] ∧ OtherCtxs c s t ∧
      OnlyChanges [.ctxs, .rings, .cxl, .mss, .hub, .out] s t)) ∧
  (∀ (c : CtxId) (qn : Int) (u : Step) (p : Program) (s : State), (s.ctx c).steps = [u] → u.state = .backward →
    (s.ctx c).prog = some p → u.reduced? p = true → u.clip = none → u.nonfinite = false → u.upd.nonfinite = false →
    Completes (exec (.normAllReduceComplete c qn) s) (fun t =>
      ((t.ctx c).steps.map (fun x => (x.qNorm, x.clip, x.nonfinite, x.state))) =
        [(some qn, (clipFactor qn ((recOf u.records p.normTensor).getD {}).fxrExp u.upd.tau).1,
          (clipFactor qn ((recOf u.records p.normTensor).getD {}).fxrExp u.upd.tau).1.isNone, .backward)] ∧
      OtherCtxs c s t ∧ OnlyChanges [.ctxs, .out] s t)) ∧
  (∀ (c : CtxId) (u : Step) (us : List Step) (p : Program) (s : State), (s.ctx c).steps = u :: us → u.state = .backward →
    (s.ctx c).prog = some p → u.replay = false → u.updateClean p = true → (u.clip.isSome || u.nonfinite) = true →
    ((s.ctx c).liveSlot u.number).writable = true → s.mem.upsets = [] → s.mem.repairs = [] →
    (u.nonfinite || slicesCover p ((s.ctx c).dataAt u (u.number - 1)) u.slices) = true → (∀ v ∈ us, v.number ≠ u.number) →
    Completes (exec (.stepReductionsClean c) s) (fun t =>
      ((t.ctx c).steps.head?.map (fun x => (x.number, x.state, x.skipped, x.layersReady))) =
        some (u.number, .update, u.nonfinite, layersOf p) ∧
      (t.ctx c).steps.tail = us ∧
      ((t.ctx c).liveSlot u.number).state = .writing ∧ ((t.ctx c).liveSlot u.number).version = u.number ∧
      ((t.ctx c).liveSlot u.number).data = (updateSlot p u.rngKey u.number u.records u.upd u.clip u.clipFlags u.slices
        ((s.ctx c).dataAt u (u.number - 1))).data ∧
      (if ((s.ctx c).mirSlot u.number).writable && s.mirrorReady c u p then
          ((t.ctx c).mirSlot u.number).state = .writing ∧ ((t.ctx c).mirSlot u.number).version = u.number
        else (t.ctx c).mirror = (s.ctx c).mirror) ∧
      (∀ i, i ≠ slotIx (s.ctx c) u.number → AL.get {} i (t.ctx c).live = AL.get {} i (s.ctx c).live) ∧
      (t.ctx c).committed = (s.ctx c).committed ∧ t.mem.hbm = s.mem.hbm ∧ OtherCtxs c s t ∧ OnlyChanges [.ctxs, .mem] s t)) ∧
  (∀ (c : CtxId) (u : Step) (p : Program) (s : State), (s.ctx c).steps = [u] → u.state = .update →
    (s.ctx c).prog = some p → u.replay = false → s.shadowing c = false → (buddyOf p s.ident).isSome = true →
    bitOf (s.reg (aStepPol c.val)) 4 = false → ((s.ctx c).mirSlot u.number).state = .writing →
    Completes (exec (.updateWritten c) s) (fun t =>
      ((t.ctx c).steps.map (fun x => (x.number, x.state, x.ownCompared, x.mirCompared))) =
        [(u.number, .checking, false, false)] ∧
      ((t.ctx c).liveSlot u.number).state = .provisional ∧ ((t.ctx c).mirSlot u.number).state = .provisional ∧
      (∃ v, (t.ctx c).steps.head? = some v ∧ t.out.msgs = .digest c u.number v.digest v.crcs :: s.out.msgs) ∧
      OtherCtxs c s t ∧ OnlyChanges [.ctxs, .out] s t)) ∧
  (∀ (c : CtxId) (u : Step) (us : List Step) (p : Program) (s : State), (s.ctx c).steps = u :: us → (s.ctx c).prog = some p →
    u.replay = false → ((s.ctx c).mirSlot u.number).state ≠ .writing →
    (((s.ctx c).mirSlot u.number).writable && s.mirrorReady c u p) = false →
    exec (.updateWritten c) s = .next s) ∧
  (∀ (c : CtxId) (u : Step) (us : List Step) (s : State), (s.ctx c).steps = u :: us → u.state ≠ .backward →
    exec (.stepReductionsClean c) s = .next s)

/-- A contribution joins its block; the complete block goes to the parent or lands; a failed hop fails the reduction class. A
contribution of the present epoch with the right residue and marker count, the check of whose sum agrees, joins the
accumulator of its block by the block's operation, with the magnitude by maximum and the overflow by OR; short of the
contributions expected, nothing leaves. The last one sends what is combined to the parent, if this module has one; at the
owner, the only block of the next SEQ of a stream lands and its result goes out. A contribution to a sum with another residue
or marker count, or a sum whose check fails, joins nothing. One of another epoch is counted and joins nothing. Each clause
that says so has as its conclusion that exec answers a next state; it does for: collectiveContributionArrive. -/
def Obligations.CollectivesCombine : Prop :=
  (∀ (c : CtxId) (stream seq block tensor : Nat) (vals : List Int) (amax : Word) (ovf : Bool) (p : Program) (b : CollBlock)
    (s : State), (s.ctx c).prog = some p → p.collectives[block]? = some b → stream < 256 →
    AL.get 0 stream (s.ctx c).streamNext ≤ seq → (AL.get {} (stream, seq, block) (s.ctx c).accums).done = false →
    (AL.get {} (stream, seq, block) (s.ctx c).accums).got + 1 < AL.get 0 s.ident b.expects →
    hopAgrees b.op (decide ((AL.get {} (stream, seq, block) (s.ctx c).accums).got = 0)) (AL.get {} (stream, seq, block) (s.ctx c).accums).vals vals
      ((AL.get {} (stream, seq, block) (s.ctx c).accums).take b.op tensor vals amax ovf).vals = true →
    Completes (exec (.collectiveContributionArrive c stream seq block tensor (s.ctx c).epoch vals (residueOf vals)
        (markerCount vals) amax ovf none) s) (fun t =>
      AL.find? (stream, seq, block) (t.ctx c).accums =
        some ((AL.get {} (stream, seq, block) (s.ctx c).accums).take b.op tensor vals amax ovf) ∧
      (t.ctx c).streamNext = (s.ctx c).streamNext ∧ (t.ctx c).steps = (s.ctx c).steps ∧ OtherCtxs c s t ∧
      OnlyChanges [.ctxs] s t)) ∧
  (∀ (c : CtxId) (stream seq block tensor : Nat) (vals : List Int) (amax : Word) (ovf : Bool) (p : Program) (b : CollBlock)
    (up : Nat) (s : State), (s.ctx c).prog = some p → p.collectives[block]? = some b → stream < 256 →
    AL.get 0 stream (s.ctx c).streamNext ≤ seq → (AL.get {} (stream, seq, block) (s.ctx c).accums).done = false →
    AL.get 0 s.ident b.expects = (AL.get {} (stream, seq, block) (s.ctx c).accums).got + 1 →
    hopAgrees b.op (decide ((AL.get {} (stream, seq, block) (s.ctx c).accums).got = 0)) (AL.get {} (stream, seq, block) (s.ctx c).accums).vals vals
      ((AL.get {} (stream, seq, block) (s.ctx c).accums).take b.op tensor vals amax ovf).vals = true →
    AL.find? s.ident b.parents = some up → p.collectives.all (fun e => e.owner != s.ident) = true →
    Completes (exec (.collectiveContributionArrive c stream seq block tensor (s.ctx c).epoch vals (residueOf vals)
        (markerCount vals) amax ovf none) s) (fun t =>
      (∀ a, (AL.get {} (stream, seq, block) (s.ctx c).accums).take b.op tensor vals amax ovf = a →
        t.out.msgs = .collective c up stream seq block a.vals (collResidue b.op a.vals) (collMarkers b.op a.vals) a.amax a.ovf ::
          s.out.msgs) ∧
      (t.ctx c).steps = (s.ctx c).steps ∧ OtherCtxs c s t ∧ OnlyChanges [.ctxs, .out] s t)) ∧
  (∀ (c : CtxId) (stream seq block tensor : Nat) (vals : List Int) (amax : Word) (ovf : Bool) (p : Program) (b : CollBlock)
    (s : State), (s.ctx c).prog = some p → p.collectives[block]? = some b → stream < 256 → (s.ctx c).accums = [] →
    AL.get 0 stream (s.ctx c).streamNext = seq → AL.get 0 s.ident b.expects = 1 → AL.find? s.ident b.parents = none →
    b.owner = s.ident →
    Completes (exec (.collectiveContributionArrive c stream seq block tensor (s.ctx c).epoch vals (residueOf vals)
        (markerCount vals) amax ovf none) s) (fun t =>
      t.out.msgs = .collectiveResult c stream seq block (collCombine b.op true [] vals) amax ovf :: s.out.msgs ∧
      (t.ctx c).accums = [] ∧ AL.get 0 stream (t.ctx c).streamNext = seq + 1 ∧
      (t.ctx c).steps = (s.ctx c).steps ∧ OtherCtxs c s t ∧ OnlyChanges [.ctxs, .out] s t)) ∧
  (∀ (c : CtxId) (stream seq block tensor : Nat) (vals : List Int) (residue markers : Nat) (amax : Word) (ovf : Bool) (hop : Option (Nat × Int))
    (p : Program) (b : CollBlock) (u : Step) (s : State), (s.ctx c).prog = some p → p.collectives[block]? = some b →
    b.op = .sum → stream < 256 → (AL.get {} (stream, seq, block) (s.ctx c).accums).done = false → (s.ctx c).steps = [u] →
    u.voted = none → u.state ≠ .discarded → (residueOf vals ≠ residue % 65535 ∨ markerCount vals ≠ markers) →
    Completes (exec (.collectiveContributionArrive c stream seq block tensor (s.ctx c).epoch vals residue markers amax ovf
        hop) s) (fun t =>
      ((t.ctx c).steps.map (fun x => (x.state, x.failed &&& 16))) = [(.voting, 16)] ∧ (t.ctx c).accums = (s.ctx c).accums ∧
      OtherCtxs c s t ∧ OnlyChanges [.ctxs, .rings, .cxl, .mss, .hub, .out] s t)) ∧
  (∀ (c : CtxId) (stream seq block tensor : Nat) (vals : List Int) (amax : Word) (ovf : Bool) (hop : Option (Nat × Int))
    (p : Program) (b : CollBlock) (u : Step) (s : State), (s.ctx c).prog = some p → p.collectives[block]? = some b →
    b.op = .sum → stream < 256 → (AL.get {} (stream, seq, block) (s.ctx c).accums).done = false → (s.ctx c).steps = [u] →
    u.voted = none → u.state ≠ .discarded → residueOf vals < 65535 →
    hopAgrees .sum (decide ((AL.get {} (stream, seq, block) (s.ctx c).accums).got = 0)) (AL.get {} (stream, seq, block) (s.ctx c).accums).vals vals
      (withHopFault hop ((AL.get {} (stream, seq, block) (s.ctx c).accums).take .sum tensor vals amax ovf).vals) = false →
    Completes (exec (.collectiveContributionArrive c stream seq block tensor (s.ctx c).epoch vals (residueOf vals) (markerCount vals) amax ovf
        hop) s) (fun t =>
      ((t.ctx c).steps.map (fun x => (x.state, x.failed &&& 16))) = [(.voting, 16)] ∧ (t.ctx c).accums = (s.ctx c).accums ∧
      OtherCtxs c s t ∧ OnlyChanges [.ctxs, .rings, .cxl, .mss, .hub, .out] s t)) ∧
  (∀ (c : CtxId) (stream seq block tensor : Nat) (e : BitVec 16) (vals : List Int) (residue markers : Nat) (amax : Word)
    (ovf : Bool) (hop : Option (Nat × Int)) (p : Program) (b : CollBlock) (s : State), (s.ctx c).prog = some p → p.collectives[block]? = some b →
    e ≠ (s.ctx c).epoch →
    Completes (exec (.collectiveContributionArrive c stream seq block tensor e vals residue markers amax ovf hop) s) (fun t =>
      t.ctx c = { s.ctx c with epochDrops := (s.ctx c).epochDrops + 1 } ∧ OtherCtxs c s t ∧ OnlyChanges [.ctxs] s t))

/-- A reduction leaves its target with the combined value, a returning operation also answers the old one; other bytes stay.
Where the device address reaches memory, a core's reduction leaves the target's bytes as the little-endian value the operation
combines with the value of its slot, every other byte of memory reads as before, and the target's line is dirty for its tensor
instance; a clean line that fails parity is counted and read again, a dirty one holds again what it held before the instance
wrote it and its passes stand outstanding again. An address that reaches nothing stops the step with DEV_TRANSLATION_FAULT. A
returning operation records the value found; a parity error in its line resets the command processor and changes no memory.
Each clause that says so has as its conclusion that exec answers a next state; it does for: cacheReduction, cacheAtomic. -/
def Obligations.CacheOperations : Prop :=
  (∀ (op : CacheOp) (k : CoreId) (c : CtxId) (dva a : Nat) (src : SlotRef) (tensor inst : Nat) (s : State),
    s.issues k c = true → s.reach c (cacheAddr op dva) .reduction = some a →
    s.readsBad k c (s.workNo c) { op := tensor } false [src.ref] = none →
    Completes (exec (.cacheReduction op k c dva src tensor inst .none) s) (fun t =>
      leNat (t.hbmGet a (cacheWidth op)) =
        cacheApply op (leNat (s.hbmGet a (cacheWidth op))) ((s.core k).spadField [src.ref] src.off (cacheWidth op)) ∧
      (∀ b, b < a ∨ a + cacheWidth op ≤ b → hbmRead t.mem.hbm b = hbmRead s.mem.hbm b) ∧
      AL.find? a t.mem.targets = some (s.targetFor c (s.workNo c) tensor inst a (cacheWidth op)) ∧
      t.mem.cacheErrs = s.mem.cacheErrs ∧ t.mem.lastAtomic = s.mem.lastAtomic ∧ OnlyChanges [.mem] s t)) ∧
  (∀ (op : CacheOp) (k : CoreId) (c : CtxId) (dva a : Nat) (src : SlotRef) (tensor inst : Nat) (s : State),
    s.issues k c = true → s.reach c (cacheAddr op dva) .reduction = some a →
    s.readsBad k c (s.workNo c) { op := tensor } false [src.ref] = none → s.dirtyIn a = [] →
    Completes (exec (.cacheReduction op k c dva src tensor inst .parity) s) (fun t =>
      leNat (t.hbmGet a (cacheWidth op)) =
        cacheApply op (leNat (s.hbmGet a (cacheWidth op))) ((s.core k).spadField [src.ref] src.off (cacheWidth op)) ∧
      (∀ b, b < a ∨ a + cacheWidth op ≤ b → hbmRead t.mem.hbm b = hbmRead s.mem.hbm b) ∧
      t.mem.cacheErrs = AL.upd 0 (cacheBank a) (· + 1) s.mem.cacheErrs ∧ OtherCtxs c s t ∧ t.cores = s.cores ∧
      OnlyChanges [.mem, .ctxs, .rings, .cxl, .mss, .hub, .out] s t)) ∧
  (∀ (op : CacheOp) (k : CoreId) (c : CtxId) (dva a : Nat) (src : SlotRef) (tensor inst : Nat) (e : RedTarget) (s : State),
    s.issues k c = true → s.reach c (cacheAddr op dva) .reduction = some a →
    s.readsBad k c (s.workNo c) { op := tensor } false [src.ref] = none → s.mem.targets = [(a, e)] → s.inputsHeld e = true →
    Completes (exec (.cacheReduction op k c dva src tensor inst .parity) s) (fun t =>
      t.hbmGet a e.width = leBytes e.width e.before ∧ t.mem.targets = [] ∧
      (∀ b, b < a ∨ a + e.width ≤ b → hbmRead t.mem.hbm b = hbmRead s.mem.hbm b) ∧
      t.mem.cacheErrs = AL.upd 0 (cacheBank a) (· + 1) s.mem.cacheErrs ∧
      (t.ctx e.ctx).steps.all (fun x => x.number != e.step ||
        x.ran.all (fun r => !(r.2.outTensor == e.tensor && r.2.outInst == e.inst))) = true ∧
      OtherCtxs e.ctx s t ∧
      OnlyChanges [.mem, .ctxs, .cores, .rings, .cxl, .mss, .hub, .out] s t)) ∧
  (∀ (op : CacheOp) (k : CoreId) (c : CtxId) (dva : Nat) (src : SlotRef) (tensor inst : Nat) (f : CacheFault) (u : Step) (s : State),
    s.issues k c = true → s.reach c (cacheAddr op dva) .reduction = none → (s.ctx c).steps = [u] → u.state = .forward →
    u.voted = none → s.shadowing c = false →
    Completes (exec (.cacheReduction op k c dva src tensor inst f) s) (fun t =>
      ((t.ctx c).steps.map (fun x => (x.state, x.stopCause, x.voted.isSome))) =
        [(.voting, some .devTranslationFault, true)] ∧ t.mem = s.mem ∧ OtherCtxs c s t ∧
      OnlyChanges [.ctxs, .rings, .cxl, .mss, .hub, .out] s t)) ∧
  (∀ (op : AtomicOp) (dpa : Nat) (s : State), s.populated dpa = true → (s.partOf dpa).isSome = true →
    Completes (exec (.cacheAtomic op dpa false) s) (fun t =>
      t.mem.lastAtomic = some (BitVec.ofNat 64 (leNat (s.hbmGet dpa 8))) ∧
      leNat (t.hbmGet dpa 8) = (atomicApply op (BitVec.ofNat 64 (leNat (s.hbmGet dpa 8)))).toNat ∧
      (∀ a, a < dpa ∨ dpa + 8 ≤ a → hbmRead t.mem.hbm a = hbmRead s.mem.hbm a) ∧ OnlyChanges [.mem] s t)) ∧
  (∀ (op : AtomicOp) (dpa : Nat) (s : State), s.populated dpa = true → (s.partOf dpa).isSome = true →
    s.hub.cpResets = [] → s.tooSoon .cp = false →
    Completes (exec (.cacheAtomic op dpa true) s) (fun t => t.inReset .cp = true ∧ t.mem.hbm = s.mem.hbm ∧
      t.mem.cacheErrs = AL.upd 0 (cacheBank dpa) (· + 1) s.mem.cacheErrs ∧ t.ctxs = s.ctxs ∧ OnlyChanges [.mem, .hub] s t))

/-- An arbitration ends as the table of R237 says, with a strike on the core it charges. A referee whose result equals the
tile leaves the output and gives the core a checksum-path strike; one that differs puts its own output in place (the blocks a
pass or a vector operation wrote with the output tiles, the rake's accumulators, the scan unit's output) and counts a tile
replay; one whose own checks fail fails the class of the check and charges both; a tag mismatch found again at the source, or
read there, fails the class and charges the core that wrote the block. Each ends the arbitration and is one operation of the
referee. With another arbitration of the core outstanding, a referee whose own checks fail ends both with two strikes. A third
strike prunes the core: it is fenced, listed and waits for a graft. Strikes expire after 1,000,000 operations. Each clause
that says so has as its conclusion that exec answers a next state; it does for: refereeRecomputeComplete, strikeExpiry. -/
def Obligations.ArbitrationOutcomes : Prop :=
  (∀ (k : CoreId) (a : Arb) (as : List Arb) (u : Step) (f : RefereeFinding) (s : State), (s.core k).arbs = a :: as → (s.core k).strikes = [] → (s.core k).conditional = false → (s.ctx a.ctx).steps = [u] → u.number = a.step → u.attempt = a.attempt →
    u.state = .checking → u.grads = [] → (s.ctx a.ctx).prog.all (fun p => p.collectives.all (fun e => decide (0 < e.count))) = true →
    a.referee ≠ some k → s.cores.tbl.all (fun e => !(s.core e.1).struck) = true → a.atSource = false → (classOf a.unit ≠ 2 ∨ f.sameTag = false) → f.ownChecks = true →
    a.equal = true →
    Completes (exec (.refereeRecomputeComplete k f) s) (fun t => (t.core k).arbs = as ∧
      (t.core k).strikes = [((s.core k).ops, true)] ∧ (t.core k).status = (s.core k).status ∧
      ((t.ctx a.ctx).steps.map (fun x => (x.state, x.outTiles, x.outstanding))) = [(.checking, u.outTiles, u.outstanding - 1)] ∧
      (∀ l, l ≠ k → t.core l = if a.referee = some l then { s.core l with ops := (s.core l).ops + 1 } else s.core l) ∧ OtherCtxs a.ctx s t ∧ OnlyChanges [.cores, .ctxs, .rings, .cxl, .mss, .hub] s t)) ∧
  (∀ (k : CoreId) (a : Arb) (as : List Arb) (u : Step) (f : RefereeFinding) (bs : List (Fin 2048 × SpadBlock))
    (key : Nat × Nat × Nat × Nat) (rows : List (List Nat)) (s : State), (s.core k).arbs = a :: as → (s.core k).strikes = [] → (s.core k).conditional = false → (s.ctx a.ctx).steps = [u] → u.number = a.step → u.attempt = a.attempt →
    u.state = .checking → u.grads = [] → (s.ctx a.ctx).prog.all (fun p => p.collectives.all (fun e => decide (0 < e.count))) = true →
    a.referee ≠ some k → s.cores.tbl.all (fun e => !(s.core e.1).struck) = true → a.atSource = false → (classOf a.unit ≠ 2 ∨ f.sameTag = false) → f.ownChecks = true →
    a.equal = false → a.fix = .blocks bs [(key, rows)] →
    Completes (exec (.refereeRecomputeComplete k f) s) (fun t => (t.core k).arbs = as ∧
      (t.core k).strikes = [((s.core k).ops, false)] ∧ (t.core k).blocks = ((s.core k).fixBlocks bs).blocks ∧
      ((t.ctx a.ctx).steps.map (fun x => (x.state, AL.find? key x.outTiles, x.nTile))) = [(.checking, some rows, u.nTile + 1)] ∧
      (∀ l, l ≠ k → t.core l = if a.referee = some l then { s.core l with ops := (s.core l).ops + 1 } else s.core l) ∧ OtherCtxs a.ctx s t ∧ OnlyChanges [.cores, .ctxs, .rings, .cxl, .mss, .hub] s t)) ∧
  (∀ (k : CoreId) (a : Arb) (as : List Arb) (u : Step) (f : RefereeFinding) (bs : List (Fin 2048 × SpadBlock)) (acc : RakeAcc)
    (out : Option (XV × Int × Nat)) (s : State), (s.core k).arbs = a :: as → (s.core k).strikes = [] → (s.core k).conditional = false → (s.ctx a.ctx).steps = [u] → u.number = a.step → u.attempt = a.attempt →
    u.state = .checking → u.grads = [] → (s.ctx a.ctx).prog.all (fun p => p.collectives.all (fun e => decide (0 < e.count))) = true →
    a.referee ≠ some k → s.cores.tbl.all (fun e => !(s.core e.1).struck) = true → a.atSource = false → (classOf a.unit ≠ 2 ∨ f.sameTag = false) → f.ownChecks = true →
    a.equal = false → a.fix = .rake acc out bs →
    Completes (exec (.refereeRecomputeComplete k f) s) (fun t => (t.core k).arbs = as ∧
      (t.core k).rake = acc ∧ (t.core k).rakeOut = (if out.isSome then out else (s.core k).rakeOut) ∧
      (t.core k).blocks = ((s.core k).fixBlocks bs).blocks ∧ (∀ l, l ≠ k → t.core l = if a.referee = some l then { s.core l with ops := (s.core l).ops + 1 } else s.core l) ∧ OtherCtxs a.ctx s t ∧
      OnlyChanges [.cores, .ctxs, .rings, .cxl, .mss, .hub] s t)) ∧
  (∀ (k : CoreId) (a : Arb) (as : List Arb) (u : Step) (f : RefereeFinding) (bs : List (Fin 2048 × SpadBlock)) (out : List Int)
    (s : State), (s.core k).arbs = a :: as → (s.core k).strikes = [] → (s.core k).conditional = false → (s.ctx a.ctx).steps = [u] → u.number = a.step → u.attempt = a.attempt →
    u.state = .checking → u.grads = [] → (s.ctx a.ctx).prog.all (fun p => p.collectives.all (fun e => decide (0 < e.count))) = true →
    a.referee ≠ some k → s.cores.tbl.all (fun e => !(s.core e.1).struck) = true → a.atSource = false → (classOf a.unit ≠ 2 ∨ f.sameTag = false) → f.ownChecks = true →
    a.equal = false → a.fix = .scan out bs →
    Completes (exec (.refereeRecomputeComplete k f) s) (fun t => (t.core k).arbs = as ∧
      (t.core k).scanOut = out ∧ (t.core k).blocks = ((s.core k).fixBlocks bs).blocks ∧ (∀ l, l ≠ k → t.core l = if a.referee = some l then { s.core l with ops := (s.core l).ops + 1 } else s.core l) ∧ OtherCtxs a.ctx s t ∧
      OnlyChanges [.cores, .ctxs, .rings, .cxl, .mss, .hub] s t)) ∧
  (∀ (k : CoreId) (a : Arb) (u : Step) (f : RefereeFinding) (s : State), (s.core k).arbs = [a] → (s.core k).strikes = [] → (s.core k).conditional = false → u.voted = none → (s.ctx a.ctx).steps = [u] → u.number = a.step → u.attempt = a.attempt →
    u.state = .checking → u.grads = [] → (s.ctx a.ctx).prog.all (fun p => p.collectives.all (fun e => decide (0 < e.count))) = true →
    a.referee ≠ some k → s.cores.tbl.all (fun e => !(s.core e.1).struck) = true →
    a.referee = none → f.ownChecks = false →
    Completes (exec (.refereeRecomputeComplete k f) s) (fun t => (t.core k).arbs = [] ∧
      (t.core k).strikes = [((s.core k).ops, false)] ∧
      ((t.ctx a.ctx).steps.map (fun x => (x.state, x.failed &&& BitVec.ofNat 7 (2 ^ classOf a.unit)))) =
        [(.voting, BitVec.ofNat 7 (2 ^ classOf a.unit))] ∧
      OtherCores k s t ∧ OtherCtxs a.ctx s t ∧ OnlyChanges [.cores, .ctxs, .rings, .cxl, .mss, .hub, .out] s t)) ∧
  (∀ (k r : CoreId) (a : Arb) (u : Step) (f : RefereeFinding) (s : State), (s.core k).arbs = [a] → (s.core k).strikes = [] → (s.core k).conditional = false → u.voted = none → (s.ctx a.ctx).steps = [u] → u.number = a.step → u.attempt = a.attempt →
    u.state = .checking → u.grads = [] → (s.ctx a.ctx).prog.all (fun p => p.collectives.all (fun e => decide (0 < e.count))) = true →
    a.referee ≠ some k → s.cores.tbl.all (fun e => !(s.core e.1).struck) = true →
    a.referee = some r → (s.core r).strikes = [] → (s.core r).conditional = false → f.ownChecks = false →
    Completes (exec (.refereeRecomputeComplete k f) s) (fun t => (t.core k).arbs = [] ∧
      (t.core k).strikes = [((s.core k).ops, false)] ∧ (t.core r).strikes = [((s.core r).ops + 1, false)] ∧
      ((t.ctx a.ctx).steps.map (fun x => (x.state, x.failed &&& BitVec.ofNat 7 (2 ^ classOf a.unit)))) =
        [(.voting, BitVec.ofNat 7 (2 ^ classOf a.unit))] ∧
      (∀ l, l ≠ k → l ≠ r → t.core l = s.core l) ∧ OtherCtxs a.ctx s t ∧
      OnlyChanges [.cores, .ctxs, .rings, .cxl, .mss, .hub, .out] s t)) ∧
  (∀ (k : CoreId) (a b : Arb) (u : Step) (f : RefereeFinding) (s : State), (s.core k).arbs = [a, b] → (s.core k).strikes = [] →
    (s.core k).conditional = false → u.voted = none → (s.ctx a.ctx).steps = [u] → u.number = a.step → u.attempt = a.attempt →
    u.state = .checking → u.grads = [] → (s.ctx a.ctx).prog.all (fun p => p.collectives.all (fun e => decide (0 < e.count))) = true →
    a.referee ≠ some k → s.cores.tbl.all (fun e => !(s.core e.1).struck) = true →
    a.referee = none → b.ctx = a.ctx → b.step = a.step → f.ownChecks = false →
    Completes (exec (.refereeRecomputeComplete k f) s) (fun t => (t.core k).arbs = [] ∧
      (t.core k).strikes = [((s.core k).ops, false), ((s.core k).ops, false)] ∧
      ((t.ctx a.ctx).steps.map (fun x => (x.state, x.failed &&& BitVec.ofNat 7 (2 ^ classOf a.unit)))) =
        [(.voting, BitVec.ofNat 7 (2 ^ classOf a.unit))] ∧
      OtherCores k s t ∧ OtherCtxs a.ctx s t ∧ OnlyChanges [.cores, .ctxs, .rings, .cxl, .mss, .hub, .out] s t)) ∧
  (∀ (k w : CoreId) (a : Arb) (as : List Arb) (u : Step) (f : RefereeFinding) (s : State), (s.core k).arbs = a :: as → (s.core k).strikes = [] → (s.core k).conditional = false → (s.ctx a.ctx).steps = [u] → u.number = a.step → u.attempt = a.attempt →
    u.state = .checking → u.grads = [] → (s.ctx a.ctx).prog.all (fun p => p.collectives.all (fun e => decide (0 < e.count))) = true →
    a.referee ≠ some k → s.cores.tbl.all (fun e => !(s.core e.1).struck) = true →
    (s.core w).strikes = [] → (s.core w).conditional = false → u.voted = none → w ≠ k → a.referee ≠ some w → a.writer = some w →
    f.ownChecks = true → (a.atSource = true ∨ (classOf a.unit = 2 ∧ f.sameTag = true)) →
    Completes (exec (.refereeRecomputeComplete k f) s) (fun t => (t.core k).arbs = as ∧
      (t.core w).strikes = [((s.core w).ops, false)] ∧ (t.core k).strikes = [] ∧
      ((t.ctx a.ctx).steps.map (fun x => (x.state, x.failed &&& BitVec.ofNat 7 (2 ^ classOf a.unit)))) =
        [(.voting, BitVec.ofNat 7 (2 ^ classOf a.unit))] ∧ OtherCtxs a.ctx s t ∧
      OnlyChanges [.cores, .ctxs, .rings, .cxl, .mss, .hub, .out] s t)) ∧
  (∀ (k : CoreId) (a : Arb) (as : List Arb) (u : Step) (f : RefereeFinding) (s : State), (s.core k).arbs = a :: as → (s.ctx a.ctx).steps = [u] → u.number = a.step → u.attempt = a.attempt →
    u.state = .checking → u.grads = [] → (s.ctx a.ctx).prog.all (fun p => p.collectives.all (fun e => decide (0 < e.count))) = true →
    a.referee ≠ some k → s.cores.tbl.all (fun e => !(s.core e.1).struck) = true → a.atSource = false → (classOf a.unit ≠ 2 ∨ f.sameTag = false) → f.ownChecks = true →
    a.equal = true → (s.core k).status = .active → (s.core k).live.length = 2 →
    Completes (exec (.refereeRecomputeComplete k f) s) (fun t => (t.core k).status = .fenced ∧
      (t.core k).toGraft = true ∧ (t.core k).begun = [] ∧ (t.core k).mx = {} ∧ k ∈ t.cores.pruned ∧ t.inReset (.core k) = true)) ∧
  (∀ (k : CoreId) (s : State), exec (.strikeExpiry k) s =
    .next (s.updCore k (fun x => { x with strikes := x.strikes.filter (fun e => decide (x.ops < e.1 + 1000000)) })))

/-- A spare that passes may be grafted; one that fails is fenced and listed; a graft replaces the core that waits. An
acceptance test that passes marks the spare, counts its 2,048 operations on it and its reference core and leaves every other
core; one that fails fences and lists it. At a step boundary the one core of a die that waits for a graft is replaced by the
spare R243 names, if there is one: the core is fenced and listed, the spare reset and, where the active set has room, in it;
with none the state stays. An operation beyond its time bound resets its core and is arbitrated with no output: the pass that
runs, or the vector operation, is what the referee recomputes; within it nothing happens. Each clause that says so has as its
conclusion that exec answers a next state; it does for: acceptanceTestComplete, graft, coreTimeout. -/
def Obligations.SparesAndGrafts : Prop :=
  (∀ (k r : CoreId) (s : State), (s.core k).status = .spare → (s.core k).accepting = true → (s.core k).acceptRef = some r → r ≠ k →
    Completes (exec (.acceptanceTestComplete k none) s) (fun t =>
      t.core k = { s.core k with accepted := true, accepting := false, acceptRef := none, ops := (s.core k).ops + 2048 } ∧
      t.core r = { s.core r with ops := (s.core r).ops + 2048 } ∧ (∀ l, l ≠ k → l ≠ r → t.core l = s.core l) ∧
      OnlyChanges [.cores] s t)) ∧
  (∀ (k : CoreId) (e : CaseFail) (s : State), (s.core k).status = .spare → (s.core k).accepting = true →
    (s.core k).accepted = false → (s.core k).acceptRef = none →
    Completes (exec (.acceptanceTestComplete k (some e)) s) (fun t => (t.core k).status = .fenced ∧ (t.core k).accepted = false ∧
      (t.core k).ops = (s.core k).ops + min 2048 (e.caseNo + 1) ∧
      k ∈ t.cores.pruned ∧ (∀ l ∈ s.cores.pruned, l ∈ t.cores.pruned) ∧
      (∀ l, l ≠ k → t.core l = { s.core l with accepting := (t.core l).accepting, acceptRef := (t.core l).acceptRef }) ∧
      OnlyChanges [.cores, .rings, .cxl, .mss, .hub, .out] s t)) ∧
  (∀ (k : CoreId) (e : Option CaseFail) (s : State), (s.core k).accepting = false →
    exec (.acceptanceTestComplete k e) s = .next s) ∧
  (∀ (p : CoreId) (s : State), s.atBoundary = true → (s.core p).status = .fenced → s.isReferee p = false →
    (s.cores.tbl.filter (fun e => decide (e.1.die = p.die) && e.2.toGraft)).map (fun e => e.1) = [p] →
    Completes (exec (.graft p.die) s) (fun t =>
      if (s.spareFor p.die (Config.scanCapable p.num.val)).isNone then t = s
      else (∀ k, s.spareFor p.die (Config.scanCapable p.num.val) = some k → k ≠ p →
          (t.core k).status = (if s.activeRoom k then .active else .spare) ∧ t.inReset (.core k) = true ∧
          (∀ l, l ≠ k → (t.core l).status = (s.core l).status)) ∧
        (t.core p).toGraft = false ∧ (t.core p).begun = [] ∧ p ∈ t.cores.pruned ∧ OnlyChanges [.cores, .ctxs, .hub] s t)) ∧
  (∀ (d : Die) (s : State), s.atBoundary = false → exec (.graft d) s = .next s) ∧
  (∀ (k r : CoreId) (c : CtxId) (cycles bound : Nat) (p : Pass) (ps : List Pass) (u : Step) (s : State),
    4 * bound + 70000 ≤ cycles → (s.core k).arbs = [] → s.chooseReferee k false = some r → (s.core k).mx.running = p :: ps →
    (s.ctx p.ctx).steps = [u] → u.number = p.step →
    Completes (exec (.coreTimeout k c cycles bound .pass) s) (fun t => t.inReset (.core k) = true ∧
      (t.core k).arbs.map (fun a => (a.status, a.ctx, a.step, a.referee, a.fix, a.equal)) =
        [(.coreTimeout, p.ctx, u.number, some r, .run p, false)] ∧
      ((t.ctx p.ctx).steps.map (fun x => (x.outstanding, x.nArb))) = [(u.outstanding + 1, u.nArb + 1)] ∧ t.mem = s.mem)) ∧
  (∀ (k r : CoreId) (c : CtxId) (cycles bound : Nat) (v : VecTile) (u : Step) (s : State),
    4 * bound + 70000 ≤ cycles → (s.core k).arbs = [] → s.chooseReferee k (FailedOp.isScan { fix := .vec v }) = some r →
    (s.ctx c).steps = [u] → u.number = s.opStep k c (vecBlocks v).1 →
    Completes (exec (.coreTimeout k c cycles bound (.vec v)) s) (fun t => t.inReset (.core k) = true ∧
      (t.core k).arbs.map (fun a => (a.status, a.ctx, a.step, a.referee, a.fix, a.equal)) =
        [(.coreTimeout, c, u.number, some r, .vec v, false)] ∧
      ((t.ctx c).steps.map (fun x => (x.outstanding, x.nArb))) = [(u.outstanding + 1, u.nArb + 1)] ∧ t.mem = s.mem)) ∧
  (∀ (k : CoreId) (c : CtxId) (cycles bound : Nat) (tile : TimedTile) (s : State),
    cycles < 4 * bound + 70000 → exec (.coreTimeout k c cycles bound tile) s = .next s)

/-- A field test takes cores one by one, counts its cases, and fences a core that fails. A rolling FIELD_TEST with no test
running holds its cases, seed and cores; a full-mode one with no program loaded gives every core of its mask its sweep of
conditions, and with a program loaded completes with FT_MODE_BUSY and starts nothing. At a step boundary the next active core
leaves the active set for its cases. A case of the kind and condition its number gives, whose outputs are equal, counts; one
that differs, with conditional use off, fences and lists the core; one whose reference core fails a check of its own does not
count, and another reference is chosen. A core under a temperature limit leaves the active set above it and returns at or
below it where the set has room. Each clause that says so has as its conclusion that exec answers a next state; it does for:
fieldTest, rollingTestCoreSwitch, fieldTestCaseComplete, conditionalUseBoundary. -/
def Obligations.FieldTests : Prop :=
  (∀ (c : CtxId) (q : QDesc) (s : State), s.headOf c .service .fieldTest = some q → dMode q.bytes = 0 → s.cores.test = none →
    Completes (exec (.fieldTest c) s) (fun t => t.cores.test =
        some ⟨c, some q.index, false, dCases q.bytes, dSeed q.bytes, maskCores (dCoreMask q.bytes), 0⟩ ∧
      t.cores.tbl = s.cores.tbl ∧ (t.ring (setOf c)).service.consumer = (s.ring (setOf c)).service.consumer + 1 ∧
      OtherRings (setOf c) s t ∧ OnlyChanges [.rings, .cores, .hub] s t)) ∧
  (∀ (c : CtxId) (q : QDesc) (s : State), s.headOf c .service .fieldTest = some q → dMode q.bytes = 1 → s.anyLoaded = true →
    Completes (exec (.fieldTest c) s) (fun t => t.cores = s.cores ∧
      (t.ring (setOf c)).service.consumer = (s.ring (setOf c)).service.consumer + 1 ∧
      OnlyChanges [.rings, .cxl, .hub] s t)) ∧
  (∀ (c : CtxId) (q : QDesc) (s : State), s.headOf c .service .fieldTest = some q → dMode q.bytes = 1 → s.anyLoaded = false →
    s.cores.test = none →
    Completes (exec (.fieldTest c) s) (fun t =>
      t.cores.test = some ⟨c, some q.index, true, dCases q.bytes, dSeed q.bytes, [], 0⟩ ∧
      (∀ k ∈ maskCores (dCoreMask q.bytes), (t.core k).test.map (fun x => (x.cases, x.done, x.fails, x.conds)) =
        some (dCases q.bytes, 0, [], s.sweep k (dConditions q.bytes)) ∧ t.inReset (.core k) = true) ∧ t.mem = s.mem)) ∧
  (∀ (f : FieldTest) (k : CoreId) (rest : List CoreId) (s : State), s.cores.test = some f → f.full = false →
    s.atBoundary = true → (∀ e ∈ s.cores.tbl, e.2.test = none) → f.todo = k :: rest → s.isReferee k = false →
    (s.core k).status = .active →
    Completes (exec .rollingTestCoreSwitch s) (fun t => t.cores.test = some { f with todo := rest } ∧
      (t.core k).status = .testing ∧ ((t.core k).test.map (fun x => (x.cases, x.done, x.fails))) = some (f.cases, 0, []) ∧
      (t.core k).begun = [] ∧ t.inReset (.core k) = true ∧ OnlyChanges [.cores, .ctxs, .hub] s t)) ∧
  (∀ (k r : CoreId) (n ref temp shape : Nat) (x : CoreTest) (s : State), (s.core k).test = some x → n = x.done → s.patternFits x.shapes shape (caseKind k n) = true →
    TestCond.reached (x.cond n) temp = true → s.condTurn k x = true → s.testRef k x = some r → r ≠ k →
    x.done + 1 < x.cases →
    Completes (exec (.fieldTestCaseComplete k n ref ref true true temp shape) s) (fun t =>
      ((t.core k).test.map (fun y => (y.cases, y.done, y.fails))) = some (x.cases, x.done + 1, x.fails) ∧
      (t.core k).status = (s.core k).status ∧ (t.core k).strikes = (s.core k).strikes ∧ (∀ l, l ≠ k → t.core l = if l = r then { s.core l with ops := (s.core l).ops + 1 } else s.core l) ∧ OnlyChanges [.cores] s t)) ∧
  (∀ (k r : CoreId) (n ref tested temp shape : Nat) (own : Bool) (x : CoreTest) (s : State), (s.core k).test = some x → n = x.done → s.patternFits x.shapes shape (caseKind k n) = true →
    TestCond.reached (x.cond n) temp = true → s.condTurn k x = true → s.testRef k x = some r → r ≠ k →
    (own = false ∨ ref ≠ tested) → bitOf (s.reg aFtPol) 1 = false →
    Completes (exec (.fieldTestCaseComplete k n ref tested own true temp shape) s) (fun t => (t.core k).status = .fenced ∧
      k ∈ t.cores.pruned ∧ (t.core k).test = none ∧ t.inReset (.core k) = true)) ∧
  (∀ (k r : CoreId) (n ref tested temp shape : Nat) (own : Bool) (x : CoreTest) (s : State), (s.core k).test = some x → n = x.done → s.patternFits x.shapes shape (caseKind k n) = true →
    TestCond.reached (x.cond n) temp = true → s.condTurn k x = true → s.testRef k x = some r → r ≠ k →
    Completes (exec (.fieldTestCaseComplete k n ref tested own false temp shape) s) (fun t => t.core k = { s.core k with test := some { x with ref := none } } ∧ (∀ l, l ≠ k → t.core l = if l = r then { s.core l with ops := (s.core l).ops + 1 } else s.core l) ∧
      OnlyChanges [.cores] s t)) ∧
  (∀ (k : CoreId) (temp limit : Nat) (s : State), (s.core k).condTemp = some limit → (s.core k).status = .active →
    limit < temp → s.atBoundary = true → s.isReferee k = false →
    Completes (exec (.conditionalUseBoundary k temp) s) (fun t => (t.core k).status = .conditional ∧ (t.core k).begun = [] ∧
      t.inReset (.core k) = true ∧ (∀ l, l ≠ k → (t.core l).status = (s.core l).status) ∧
      OnlyChanges [.cores, .ctxs, .hub] s t)) ∧
  (∀ (k : CoreId) (temp limit : Nat) (s : State), (s.core k).condTemp = some limit → (s.core k).status = .conditional →
    temp ≤ limit → s.atBoundary = true → s.activeRoom k = true →
    exec (.conditionalUseBoundary k temp) s = .next (s.updCore k (fun x => { x with status := .active })))

/-- Equal digests pass; a difference is decided entry by entry, here or by the referee module. Equal digests over both shards
make both comparisons pass; different ones leave the differing entries to arbitrate; the buddy is sent those of its mirror
here; what comes from another epoch is dropped and counted. An entry both wrote alike leaves it; one both recompute alike, but
not as this module wrote it, fails the digest class of this module; one recomputed differently goes to the referee module. The
referee's CRC clears the module it agrees with and fails the other; inputs that differ fail the class here without a strike,
and a live granule no replica could tell of is lost state. As referee, this module answers both with every granule that
differs, held against the replica, with whose slice is wrong, or, of equal inputs, with its CRC. Each clause that says so has
as its conclusion that exec answers a next state; it does for: digestExchangeReceive, digestRecomputeComplete,
refereeModuleResult, refereeShipmentReceive. -/
def Obligations.DigestArbitration : Prop :=
  (∀ (c : CtxId) (u : Step) (p : Program) (digest mdigest : List Byte) (crcs mcrcs : List Nat) (s : State), (s.ctx c).steps = [u] → (s.ctx c).prog = some p → u.state = .checking → u.voted = none →
    u.ownCompared = false → u.mirCompared = false → u.digestArb = [] → u.digest = mdigest → u.mirrorDigest = digest →
    Completes (exec (.digestExchangeReceive c ⟨u.number, (s.ctx c).epoch⟩ digest crcs mdigest mcrcs) s) (fun t =>
      ((t.ctx c).steps.map (fun x => (x.ownCompared, x.mirCompared, x.digestArb, x.failed))) = [(true, true, [], u.failed)] ∧
      t.out.msgs = .mirrorDigest c u.number u.mirrorDigest u.mirrorCrcs :: s.out.msgs ∧
      OtherCtxs c s t ∧ OnlyChanges [.ctxs, .out] s t)) ∧
  (∀ (c : CtxId) (u : Step) (p : Program) (digest mdigest : List Byte) (crcs mcrcs : List Nat) (s : State), (s.ctx c).steps = [u] → (s.ctx c).prog = some p → u.state = .checking → u.voted = none →
    u.ownCompared = false → u.mirCompared = false → u.digestArb = [] → u.digest ≠ mdigest → u.mirrorDigest = digest →
    crcDiffs u.crcs mcrcs ≠ [] →
    Completes (exec (.digestExchangeReceive c ⟨u.number, (s.ctx c).epoch⟩ digest crcs mdigest mcrcs) s) (fun t =>
      ((t.ctx c).steps.map (fun x => (x.ownCompared, x.mirCompared, x.digestArb))) =
        [(false, true, (crcDiffs u.crcs mcrcs).map (fun i => ⟨i, true, none⟩))] ∧
      t.out.msgs = .mirrorDigest c u.number u.mirrorDigest u.mirrorCrcs :: s.out.msgs ∧
      OtherCtxs c s t ∧ OnlyChanges [.ctxs, .out] s t)) ∧
  (∀ (c : CtxId) (tag : StepTag) (digest mdigest : List Byte) (crcs mcrcs : List Nat) (s : State), tag.epoch ≠ (s.ctx c).epoch →
    Completes (exec (.digestExchangeReceive c tag digest crcs mdigest mcrcs) s) (fun t =>
      t.ctx c = { s.ctx c with epochDrops := (s.ctx c).epochDrops + 1 } ∧ OtherCtxs c s t ∧ OnlyChanges [.ctxs] s t)) ∧
  (∀ (c : CtxId) (u : Step) (p : Program) (n flip re peer : Nat) (s : State), (s.ctx c).steps = [u] → (s.ctx c).prog = some p → u.state = .checking → u.voted = none → u.digestArb = [⟨n, true, none⟩] →
    (s.ctx c).rereadCrc p u true n ^^^ re = u.crcs.getD n 0 →
    Completes (exec (.digestRecomputeComplete c u.number n true flip peer re (u.crcs.getD n 0)) s) (fun t =>
      ((t.ctx c).steps.map (fun x => (x.ownCompared, x.digestArb, x.failed, x.state))) = [(true, [], u.failed, .checking)] ∧
      OtherCtxs c s t ∧ OnlyChanges [.ctxs] s t)) ∧
  (∀ (c : CtxId) (u : Step) (p : Program) (n flip re own ow pw : Nat) (s : State), (s.ctx c).steps = [u] → (s.ctx c).prog = some p → u.state = .checking → u.voted = none → u.digestArb = [⟨n, true, none⟩] →
    (s.ctx c).recomputedCrc p u true n ^^^ flip = own → (s.ctx c).rereadCrc p u true n ^^^ re = ow → ow ≠ pw → ow ≠ own →
    Completes (exec (.digestRecomputeComplete c u.number n true flip own re pw) s) (fun t =>
      ((t.ctx c).steps.map (fun x => (x.digestArb, x.failed &&& 32, x.state))) = [([], 32, .voting)] ∧ OtherCtxs c s t ∧
      OnlyChanges [.ctxs, .rings, .cxl, .grove, .mss, .hub, .out] s t)) ∧
  (∀ (c : CtxId) (u : Step) (p : Program) (n flip re own peer ow pw m : Nat) (s : State), (s.ctx c).steps = [u] → (s.ctx c).prog = some p → u.state = .checking → u.voted = none → u.digestArb = [⟨n, true, none⟩] →
    (s.ctx c).recomputedCrc p u true n ^^^ flip = own → (s.ctx c).rereadCrc p u true n ^^^ re = ow → ow ≠ pw →
    own ≠ peer → s.refereeModule c = some m →
    Completes (exec (.digestRecomputeComplete c u.number n true flip peer re pw) s) (fun t =>
      ((t.ctx c).steps.map (fun x => (x.digestArb, x.state))) = [([⟨n, true, some (ow, pw)⟩], .checking)] ∧
      t.out.msgs = .shipment c m u.number n :: s.out.msgs ∧ OtherCtxs c s t ∧ OnlyChanges [.ctxs, .out] s t)) ∧
  (∀ (c : CtxId) (u : Step) (p : Program) (n mine peer : Nat) (s : State), (s.ctx c).steps = [u] → (s.ctx c).prog = some p → u.state = .checking → u.voted = none → u.digestArb = [⟨n, true, some (mine, peer)⟩] →
    Completes (exec (.refereeModuleResult c u.number n true (.crc mine)) s) (fun t =>
      ((t.ctx c).steps.map (fun x => (x.digestArb, x.failed, x.state))) = [([], u.failed, .checking)] ∧ OtherCtxs c s t ∧
      OnlyChanges [.ctxs] s t)) ∧
  (∀ (c : CtxId) (u : Step) (p : Program) (n mine peer found : Nat) (s : State), (s.ctx c).steps = [u] → (s.ctx c).prog = some p → u.state = .checking → u.voted = none → u.digestArb = [⟨n, true, some (mine, peer)⟩] →
    found ≠ mine →
    Completes (exec (.refereeModuleResult c u.number n true (.crc found)) s) (fun t =>
      ((t.ctx c).steps.map (fun x => (x.digestArb, x.failed &&& 32, x.state))) = [([], 32, .voting)] ∧ OtherCtxs c s t ∧
      OnlyChanges [.ctxs, .rings, .cxl, .grove, .mss, .hub, .out] s t)) ∧
  (∀ (c : CtxId) (u : Step) (p : Program) (n mine peer : Nat) (gs : List (Nat × Option Bool)) (s : State), (s.ctx c).steps = [u] → (s.ctx c).prog = some p → u.state = .checking → u.voted = none →
    u.digestArb = [⟨n, true, some (mine, peer)⟩] → gs.all (fun e => e.2.isSome) = true →
    Completes (exec (.refereeModuleResult c u.number n true (.versionDiffers gs)) s) (fun t =>
      ((t.ctx c).steps.map (fun x => (x.digestArb, x.failed &&& 32, x.state))) = [([], 32, .voting)] ∧ t.grove = s.grove ∧
      OtherCtxs c s t)) ∧
  (∀ (c : CtxId) (u : Step) (p : Program) (n mine peer : Nat) (gs : List (Nat × Option Bool)) (s : State), (s.ctx c).steps = [u] → (s.ctx c).prog = some p → u.state = .checking → u.voted = none →
    u.digestArb = [⟨n, true, some (mine, peer)⟩] → gs.any (fun e => e.2.isNone) = true → n < u.slices.length → 0 < u.number →
    Completes (exec (.refereeModuleResult c u.number n true (.versionDiffers gs)) s) (fun t =>
      t.out.msgs.head? = some (.stateLost c) ∧ (t.ctx c).committed = (s.ctx c).committed)) ∧
  (∀ (c : CtxId) (u : Step) (p : Program) (n mine peer : Nat) (wrong : Bool) (s : State), (s.ctx c).steps = [u] → (s.ctx c).prog = some p → u.state = .checking → u.voted = none → u.digestArb = [⟨n, true, some (mine, peer)⟩] →
    Completes (exec (.refereeModuleResult c u.number n true (.gradientDiffers wrong)) s) (fun t =>
      ((t.ctx c).steps.map (fun x => (x.digestArb, x.failed &&& 32, x.state))) = [([], 32, .voting)] ∧ t.grove = s.grove ∧
      OtherCtxs c s t)) ∧
  (∀ (c : CtxId) (step n : Nat) (a b : ModNo) (va vb ga gb : List Nat) (result : Nat) (right : Bool) (s : State),
    crcDiffs va vb ≠ [] →
    Completes (exec (.refereeShipmentReceive c step n a b va vb ga gb result none right) s) (fun t =>
      t.out.msgs = .refereeResult c b.val step n (.versionDiffers ((crcDiffs va vb).map (fun g => (g, none)))) ::
        .refereeResult c a.val step n (.versionDiffers ((crcDiffs va vb).map (fun g => (g, none)))) :: s.out.msgs ∧
      OnlyChanges [.out] s t)) ∧
  (∀ (c : CtxId) (step n m : Nat) (a b : ModNo) (va vb ga gb r : List Nat) (result : Nat) (right : Bool) (s : State),
    crcDiffs va vb ≠ [] → (s.ctx c).replicaOf a.val b.val = some m →
    Completes (exec (.refereeShipmentReceive c step n a b va vb ga gb result (some r) right) s) (fun t =>
      t.out.msgs.take 2 = [
        .refereeResult c b.val step n (.versionDiffers ((crcDiffs va vb).map (fun g => (g, some (vb.getD g 0 != r.getD g 0))))),
        .refereeResult c a.val step n (.versionDiffers ((crcDiffs va vb).map (fun g => (g, some (va.getD g 0 != r.getD g 0)))))] ∧
      OnlyChanges [.out] s t)) ∧
  (∀ (c : CtxId) (step n : Nat) (a b : ModNo) (v ga gb : List Nat) (result : Nat) (rep : Option (List Nat)) (right : Bool) (s : State),
    crcDiffs ga gb ≠ [] →
    Completes (exec (.refereeShipmentReceive c step n a b v v ga gb result rep right) s) (fun t =>
      t.out.msgs = .refereeResult c b.val step n (.gradientDiffers right) ::
        .refereeResult c a.val step n (.gradientDiffers (!right)) :: s.out.msgs ∧ OnlyChanges [.out] s t)) ∧
  (∀ (c : CtxId) (step n : Nat) (a b : ModNo) (v g : List Nat) (result : Nat) (rep : Option (List Nat)) (right : Bool) (s : State),
    Completes (exec (.refereeShipmentReceive c step n a b v v g g result rep right) s) (fun t =>
      t.out.msgs = .refereeResult c b.val step n (.crc result) :: .refereeResult c a.val step n (.crc result) :: s.out.msgs ∧
      OnlyChanges [.out] s t))

/-- A failing committed word is refetched from the buddy; a holder answers only from a COMMITTED slot; a lost word stops the
clearing. A holder whose slot of the shard asked for is COMMITTED at the version asked for, with good parity, answers with the
granule, from its live slot for its own shard and from its mirror for its buddy's; a slice is answered from those received or
landed; otherwise it refuses. A scrub read of a failing committed live word counts the error and asks the buddy; of a good
word it moves on; a failing word of a partition the scrub does not read waits for its reader. A good reply is written back,
ends the repair and is counted in the step under way. A refusal goes on to the lowest replica left; with none it is
MEM_STATE_LOST: both rings stop and only a restore leads on. With the scrub period 0 nothing is read. Each clause that says so
has as its conclusion that exec answers a next state; it does for: refetchRequestReceive, patrolScrubRead,
refetchReplyReceive. -/
def Obligations.ParityRepairs : Prop :=
  (∀ (c : CtxId) (src : ModNo) (key : RefetchKey) (version granule : Nat) (p : Program) (s : State), (s.ctx c).prog = some p →
    (key.part = .live ∨ key.part = .mirror) → key.shard = shardOf p s.ident →
    ((s.ctx c).liveSlot version).state = .committed → ((s.ctx c).liveSlot version).version = version →
    exec (.refetchRequestReceive c src key version granule false) s =
      .next (s.send (.refetchReply c src.val version granule (some (slotGranule p ((s.ctx c).liveSlot version).data granule))))) ∧
  (∀ (c : CtxId) (src : ModNo) (key : RefetchKey) (version granule : Nat) (p : Program) (s : State), (s.ctx c).prog = some p →
    (key.part = .live ∨ key.part = .mirror) → key.shard ≠ shardOf p s.ident → key.shard = s.partShard c .mirror →
    ((s.ctx c).mirSlot version).state = .committed → ((s.ctx c).mirSlot version).version = version →
    exec (.refetchRequestReceive c src key version granule false) s =
      .next (s.send (.refetchReply c src.val version granule (some (slotGranule p ((s.ctx c).mirSlot version).data granule))))) ∧
  (∀ (c : CtxId) (src : ModNo) (key : RefetchKey) (slice : Nat) (p : Program) (u : Step) (l : Slice) (s : State),
    (s.ctx c).prog = some p → (s.ctx c).steps = [u] →
    (key.part = .landed ∧ AL.find? slice u.recvSlices = some l ∨ key.part = .received ∧ AL.find? slice u.slices = some l) →
    exec (.refetchRequestReceive c src key u.number slice false) s =
      .next (s.send (.refetchReply c src.val u.number slice (some (l.vals.flatMap (fun v => leBytes 8 (ofSigned 64 v))))))) ∧
  (∀ (c : CtxId) (src : ModNo) (key : RefetchKey) (version granule : Nat) (bad : Bool) (s : State),
    (bad = true ∨ (key.part = .live ∨ key.part = .mirror) ∧ ((s.ctx c).liveSlot version).state ≠ .committed ∧
      ((s.ctx c).mirSlot version).state ≠ .committed) →
    exec (.refetchRequestReceive c src key version granule bad) s =
      .next (s.send (.refetchReply c src.val version granule none))) ∧
  (∀ (d : Die) (ch : Nat) (f : WordFault) (c : CtxId) (i : Fin 3) (g m : Nat) (s : State), bitsOf (s.reg aScrub) 15 0 ≠ 0 →
    s.hub.power ≠ .asleep → s.hub.power ≠ .dormant → f.loc = .live c i g → f.uncorrected = false →
    (AL.get {} i (s.ctx c).live).state = .committed → wordFails f (s.wordAt f) = true → s.buddy c = some m →
    Completes (exec (.patrolScrubRead d ch (some f)) s) (fun t =>
      t.mem.repairs = s.mem.repairs ++ [(.live c i g, false)] ∧
      AL.get 0 (d.val, ch) t.mem.parity = AL.get 0 (d.val, ch) s.mem.parity + 1 ∧ AL.find? d.val t.mem.scrubPos = some ch ∧
      t.out.msgs = .refetch c m ⟨s.partShard c .live, .live⟩ (AL.get {} i (s.ctx c).live).version g :: s.out.msgs ∧
      t.mem.hbm = s.mem.hbm ∧ OnlyChanges [.mem, .out] s t)) ∧
  (∀ (d : Die) (ch : Nat) (f : WordFault) (s : State), bitsOf (s.reg aScrub) 15 0 ≠ 0 →
    s.hub.power ≠ .asleep → s.hub.power ≠ .dormant → wordFails f (s.wordAt f) = false →
    exec (.patrolScrubRead d ch (some f)) s =
      .next (State.report { s with mem := { s.mem with scrubPos := AL.set d.val ch s.mem.scrubPos } } (d.val, ch) f)) ∧
  (∀ (d : Die) (ch : Nat) (f : WordFault) (s : State), bitsOf (s.reg aScrub) 15 0 ≠ 0 →
    s.hub.power ≠ .asleep → s.hub.power ≠ .dormant → wordFails f (s.wordAt f) = true → s.scrubbed f.loc = false →
    Completes (exec (.patrolScrubRead d ch (some f)) s) (fun t => t.mem.upsets = s.mem.upsets ++ [((d.val, ch), f)] ∧
      t.mem.repairs = s.mem.repairs ∧ t.mem.hbm = s.mem.hbm ∧ OnlyChanges [.mem] s t)) ∧
  (∀ (d : Die) (ch : Nat) (s : State), bitsOf (s.reg aScrub) 15 0 ≠ 0 → s.hub.power ≠ .asleep → s.hub.power ≠ .dormant →
    exec (.patrolScrubRead d ch none) s = .next { s with mem := { s.mem with scrubPos := AL.set d.val ch s.mem.scrubPos } }) ∧
  (∀ (d : Die) (ch : Nat) (bad : Option WordFault) (s : State), bitsOf (s.reg aScrub) 15 0 = 0 →
    exec (.patrolScrubRead d ch bad) s = .next s) ∧
  (∀ (f : WordFault) (w : Word), f.retries ≤ 4 → f.uncorrected = false →
    (wordFails f w = true ↔ ((List.range 33).filter (fun i => f.flips.getLsbD i)).length % 2 = 1)) ∧
  (∀ (c : CtxId) (loc : Loc) (tried : Bool) (bytes : List Byte) (u : Step) (s : State),
    s.mem.repairs.find? (fun e => e.1 == loc) = some (loc, tried) → (s.ctx c).steps = [u] →
    Completes (exec (.refetchReplyReceive c loc (some bytes) true true) s) (fun t =>
      t.mem.repairs = s.mem.repairs.filter (fun e => e.1 != loc) ∧ t.mem.hbm = s.mem.hbm ∧
      ((t.ctx c).steps.map (fun x => (x.state, x.nParity))) = [(u.state, u.nParity + 1)] ∧ OtherCtxs c s t ∧
      OnlyChanges [.mem, .ctxs, .rings, .cxl, .mss, .hub] s t)) ∧
  (∀ (c : CtxId) (i : Fin 3) (g : Nat) (tried : Bool) (bytes : List Byte) (p : Program) (s : State),
    s.mem.repairs.find? (fun e => e.1 == .live c i g) = some (.live c i g, tried) → (s.ctx c).prog = some p →
    Completes (exec (.refetchReplyReceive c (.live c i g) (some bytes) true true) s) (fun t =>
      (AL.get {} i (t.ctx c).live).data = putGranule p (AL.get {} i (s.ctx c).live).data g bytes ∧
      (AL.get {} i (t.ctx c).live).state = (AL.get {} i (s.ctx c).live).state ∧ (t.ctx c).mirror = (s.ctx c).mirror ∧
      (∀ j, j ≠ i → AL.get {} j (t.ctx c).live = AL.get {} j (s.ctx c).live))) ∧
  (∀ (c : CtxId) (i : Fin 3) (g m : Nat) (b1 b2 : Bool) (s : State),
    s.mem.repairs.find? (fun e => e.1 == .live c i g) = some (.live c i g, false) →
    s.replica c (s.partShard c .live) = some m →
    Completes (exec (.refetchReplyReceive c (.live c i g) none b1 b2) s) (fun t =>
      t.out.msgs = .refetch c m ⟨s.partShard c .live, .live⟩ (AL.get {} i (s.ctx c).live).version g :: s.out.msgs ∧
      t.mem.repairs.find? (fun e => e.1 == .live c i g) = some (.live c i g, true) ∧ t.mem.hbm = s.mem.hbm ∧
      OnlyChanges [.mem, .out] s t)) ∧
  (∀ (c : CtxId) (i : Fin 3) (g : Nat) (b1 b2 : Bool) (s : State),
    s.mem.repairs.find? (fun e => e.1 == .live c i g) = some (.live c i g, false) → s.replica c (s.partShard c .live) = none →
    (s.ctx c).steps = [] → s.mem.targets = [] →
    Completes (exec (.refetchReplyReceive c (.live c i g) none b1 b2) s) (fun t => (t.ctx c).needRestore = true ∧
      (t.ring (setOf c)).step.stop = some .memStateLost ∧ (t.ring (setOf c)).service.stop.isSome = true ∧
      t.mem.hbm = s.mem.hbm ∧ OtherCtxs c s t))

/-- A copied channel's map entry changes at a step boundary and its old channel is fenced; faults and margining reset a stack.
The end of a readable channel's copy marks the map-out as copied, the end of an unreadable one's rebuild gives the channel its
replacement at once, but not before its last refetch; the switch at a step boundary gives the logical channel its replacement,
marked MOVED, fences the old channel and ends the map-out, touching no other entry; elsewhere it waits. A controller hang
resets its stack's domain alone; training that replaces lanes keeps them for its channel. The end of a margining run keeps its
results, takes the channel out of margining and resets its stack's controller. Each clause that says so has as its conclusion
that exec answers a next state; it does for: mapoutCopyComplete, mapoutSwitch, hbmControllerFault, marginingComplete. -/
def Obligations.ChannelMapOuts : Prop :=
  (∀ (d : Die) (l : Nat) (m : MapOut) (s : State), s.mem.mapouts = [m] → m.die = d.val → m.logical = l → m.readable = true →
    s.mem.upsets = [] → s.mem.repairs = [] →
    exec (.mapoutCopyComplete d l) s = .next { s with mem := { s.mem with mapouts := [{ m with copied := true }] } }) ∧
  (∀ (d : Die) (l : Nat) (m : MapOut) (s : State), s.mem.mapouts = [m] → m.die = d.val → m.logical = l → m.readable = false →
    s.mem.repairs = [] → (∀ c, (s.ctx c).snapshot = none) →
    Completes (exec (.mapoutCopyComplete d l) s) (fun t => t.chEntry d.val l = ⟨m.target.1, m.target.2, true⟩ ∧
      t.mem.mapouts = [] ∧ ((s.chEntry d.val l).die, (s.chEntry d.val l).ch) ∈ t.mem.fenced ∧ t.mem.hbm = s.mem.hbm ∧
      OnlyChanges [.mem, .rings, .cxl, .mss, .hub] s t)) ∧
  (∀ (d : Die) (l : Nat) (m : MapOut) (r : Loc × Bool) (a : Nat) (s : State), s.mem.mapouts = [m] → m.die = d.val → m.logical = l →
    m.readable = false → s.mem.repairs = [r] → s.locAddr r.1 = some a → s.logicalOf a = (d.val, l) →
    exec (.mapoutCopyComplete d l) s = .next s) ∧
  (∀ (d : Die) (l : Nat) (m : MapOut) (s : State), s.mem.mapouts = [m] → m.die = d.val → m.logical = l → m.copied = true →
    s.atBoundary = true →
    Completes (exec (.mapoutSwitch d l) s) (fun t => t.chEntry d.val l = ⟨m.target.1, m.target.2, true⟩ ∧ t.mem.mapouts = [] ∧
      ((s.chEntry d.val l).die, (s.chEntry d.val l).ch) ∈ t.mem.fenced ∧
      (∀ e i, (e, i) ≠ (d.val, l) → t.chEntry e i = s.chEntry e i) ∧ t.mem.hbm = s.mem.hbm ∧
      OnlyChanges [.mem, .rings, .cxl, .mss, .hub] s t)) ∧
  (∀ (d : Die) (l : Nat) (s : State), (s.mem.mapouts = [] ∨ s.atBoundary = false) → exec (.mapoutSwitch d l) s = .next s) ∧
  (∀ (k : Fin 20) (chs : List ChanTraining) (s : State), Completes (exec (.hbmControllerFault k false chs) s) (fun t =>
      t.inReset (.hbm k) = true ∧ t.mem = s.mem ∧ OnlyChanges [.hub] s t)) ∧
  (∀ (k : Fin 20) (x : ChanTraining) (s : State), x.ch < 160 → x.ch % 5 = k.val % 5 → x.restored = true → x.lanes ≠ [] →
    Completes (exec (.hbmControllerFault k true [x]) s) (fun t => t.inReset (.hbm k) = true ∧
      AL.find? (k.val / 5, x.ch) t.mem.lanes = some x.lanes ∧ t.mem.hbm = s.mem.hbm ∧ t.mem.mapouts = s.mem.mapouts ∧
      OnlyChanges [.hub, .mem] s t)) ∧
  (∀ (d : Die) (ch : Nat) (m : Margins) (s : State), (d.val, ch) ∈ s.mem.margining → marginsOk m = true → ch < 160 →
    m.repair.restored = true →
    Completes (exec (.marginingComplete d ch m) s) (fun t => AL.find? (d.val, ch) t.mem.margins = some m ∧
      (d.val, ch) ∉ t.mem.margining ∧ (∀ a, s.chanOf a ≠ (d.val, ch) → hbmRead t.mem.hbm a = hbmRead s.mem.hbm a) ∧
      (m.repair.lanes ≠ [] → AL.find? (d.val, ch) t.mem.lanes = some m.repair.lanes) ∧
      t.inReset (.hbm (Fin.ofNat 20 (5 * d.val + ch % 5))) = true ∧ OnlyChanges [.mem, .hub, .mss, .ckpt] s t))

/-- Each window serves every partition its floor, no die more than its bandwidth, and leaves the rest waiting. What a
partition of a die is served and what it is left waiting are together what it asked for and was waiting for. Repair traffic
comes first; a die serves in a window as much as is wanted, up to 64 share units in all, so nothing stays idle while requests
wait. With no repair traffic, where the floors add up to no more than 64, each partition is served at least what it wants up
to its floor. Only the regulators change. Each clause that says so has as its conclusion that exec answers a next state; it
does for: regulatorWindow. -/
def Obligations.RegulatorShares : Prop :=
  ∀ (demand : List (Nat × Nat × Nat)) (s : State),
    Completes (exec (.regulatorWindow demand) s) (fun t =>
      (∀ d, d < 4 → ∀ p, p < 8 → AL.get 0 (d, p) t.mem.served +
        ((t.mem.waiting.filter (fun e => e.1 == d && e.2.1 == p)).map (fun e => e.2.2)).foldl (· + ·) 0 = (((s.mem.waiting ++ demand).filter (fun e => e.1 == d && e.2.1 == p)).map (fun e => e.2.2)).foldl (· + ·) 0) ∧
      (∀ d, d < 4 → ((List.range 8).map (fun p => AL.get 0 (d, p) t.mem.served)).foldl (· + ·) 0 =
        min (64 * 128000) (((List.range 8).map (fun p => (((s.mem.waiting ++ demand).filter (fun e => e.1 == d && e.2.1 == p)).map (fun e => e.2.2)).foldl (· + ·) 0)).foldl (· + ·) 0)) ∧
      (∀ d, d < 4 → ∀ p, p = 7 → AL.get 0 (d, p) t.mem.served = min ((((s.mem.waiting ++ demand).filter (fun e => e.1 == d && e.2.1 == p)).map (fun e => e.2.2)).foldl (· + ·) 0) (64 * 128000)) ∧
      (((List.range 7).map (fun p => bitsOf (t.reg (aMemReg p)) 5 0)).foldl (· + ·) 0 ≤ 64 → ∀ d, d < 4 → ∀ p, p < 7 →
        AL.get 0 (d, 7) t.mem.served = 0 → min ((((s.mem.waiting ++ demand).filter (fun e => e.1 == d && e.2.1 == p)).map (fun e => e.2.2)).foldl (· + ·) 0) (bitsOf (t.reg (aMemReg p)) 5 0 * 128000) ≤ AL.get 0 (d, p) t.mem.served) ∧
      t.mem.hbm = s.mem.hbm ∧ ((s.regs.bank .memReg).pending = none → OnlyChanges [.mem] s t))

/-- A domain's generation advances when it enters reset, at most once per millisecond; a held reset is entered when it may be.
A watchdog of the command processor resets its domain: the generation rises by 1 and the contexts stay. Within 1 ms of the
last advance of its generation, its own or an outer domain’s, the domain is held in reset with its generation as it was; the
release after 1 ms advances it. A fourth reset within 10 s is a warm reset instead, which clears the contexts and keeps
memory, log and pruned cores. A core that leaves reset changes nothing else; a domain held stays in reset. Each clause that
says so has as its conclusion that exec answers a next state; it does for: cpWatchdogExpire, resetSpacingRelease,
domainResetComplete. -/
def Obligations.ResetDomains : Prop :=
  (∀ s : State, s.inReset .cp = false → s.hub.cpResets = [] → s.tooSoon .cp = false →
    Completes (exec .cpWatchdogExpire s) (fun t => t.inReset .cp = true ∧ (t.dom .cp).gen = (s.dom .cp).gen + 1 ∧
      (t.dom .cp).held = false ∧ t.hub.cpResets = [s.now] ∧ (∀ d, d ≠ Domain.cp → t.dom d = s.dom d) ∧ OnlyChanges [.hub] s t)) ∧
  (∀ (at_ : Nat) (s : State), s.inReset .cp = false → s.hub.cpResets = [] → (s.dom .cp).lastAt = some at_ → s.now < at_ + 1000 →
    Completes (exec .cpWatchdogExpire s) (fun t => t.inReset .cp = true ∧ (t.dom .cp).gen = (s.dom .cp).gen ∧
      (t.dom .cp).held = true ∧ (t.dom .cp).lastAt = some at_ ∧ OnlyChanges [.hub] s t)) ∧
  (∀ (a b d : Nat) (s : State), s.inReset .cp = false → s.hub.cpResets = [a, b, d] → s.now < a + 10000000 →
    s.now < b + 10000000 → s.now < d + 10000000 → s.tooSoon .warm = false →
    Completes (exec .cpWatchdogExpire s) (fun t => t.inReset .warm = true ∧ t.moduleGen = s.moduleGen + 1 ∧ t.ctxs = [] ∧
      t.rings = [] ∧ t.mem.hbm = s.mem.hbm ∧ t.cores.pruned = s.cores.pruned ∧ t.gov = s.gov ∧ t.hub.timeUs = s.hub.timeUs)) ∧
  (∀ (d : Domain) (s : State), d ≠ .cold → (s.dom d).held = true → s.tooSoon d = false →
    Completes (exec (.resetSpacingRelease d) s) (fun t => (t.dom d).gen = (s.dom d).gen + 1 ∧ (t.dom d).held = false ∧
      (t.dom d).lastAt = some s.now ∧ (∀ e, e ≠ d → t.dom e = s.dom e) ∧ t.rings = s.rings ∧ t.regs = s.regs ∧ t.out = s.out)) ∧
  (∀ s : State, (s.dom .cold).held = true → s.tooSoon .cold = false →
    Completes (exec (.resetSpacingRelease .cold) s) (fun t => t.moduleGen = s.moduleGen + 1 ∧ (t.dom .cold).held = false ∧
      (t.dom .cold).inReset = false ∧ OnlyChanges [.hub] s t)) ∧
  (∀ (d : Domain) (s : State), ((s.dom d).held = false ∨ s.tooSoon d = true) → exec (.resetSpacingRelease d) s = .next s) ∧
  (∀ (d : Domain) (at_ : Nat) (s : State), (s.dom d).lastAt = some at_ → s.now < at_ + 1000 → s.tooSoon d = true) ∧
  (∀ (k : CoreId) (s : State), (s.dom (.core k)).inReset = true → (s.dom (.core k)).held = false →
    exec (.domainResetComplete (.core k)) s = .next (s.updDom (.core k) (fun x => { x with inReset := false, outAt := some s.now }))) ∧
  (∀ (d : Domain) (s : State), (s.dom d).held = true → exec (.domainResetComplete d) s = .next s) ∧
  (∀ s : State, s.hub.tripped = true → exec (.domainResetComplete .warm) s = .next s)

/-- The MSS is reset by its watchdog or at once by a lockstep mismatch; a fourth time within 60 s, or no beat in 100 ms, loses
it. A running MSS enters reset, and if its domain was not reset before, its generation is advanced and its sessions gone,
while the log, the profiles and every context stay. A fourth reset within 60 s, and a beat still missing 100 ms after the MSS
left reset, make the module lost with MSS_FAILED, sent to the steward where the module is in a clearing. A message for a
running receiver is taken, a reply only where its generation is the receiver’s; one for an MSS in reset waits in the mailbox,
up to 64 of them; later ones wait at their sender. Each clause that says so has as its conclusion that exec answers a next
state; it does for: mssWatchdogExpire, mssLockstepMismatch, mssResumeTimeout, mssMailboxMessage. -/
def Obligations.MssResets : Prop :=
  (∀ s : State, s.mssRuns = true → s.tooSoon .mss = false → s.hub.mssResets = [] → s.hub.starting = .none →
    s.mss.update.state = .idle →
    Completes (exec .mssWatchdogExpire s) (fun t => t.inReset .mss = true ∧ (t.dom .mss).gen = (s.dom .mss).gen + 1 ∧
      t.mss.sessions = [] ∧ t.mss.log = s.mss.log ∧ t.mss.profiles = s.mss.profiles ∧ t.mss.counter = s.mss.counter ∧
      t.mss.security = s.mss.security ∧ t.hub.mssResets = [s.now] ∧ t.hub.mssLost = false ∧ OnlyChanges [.hub, .mss] s t)) ∧
  (∀ s : State, s.mssRuns = true →
    Completes (exec .mssWatchdogExpire s) (fun t => t.inReset .mss = true ∧ t.mssRuns = false ∧ t.ctxs = s.ctxs ∧
      t.hub.mssResets = s.hub.mssResets.filter (fun n => decide (s.now < n + 60000000)) ++ [s.now] ∧ t.mem = s.mem)) ∧
  (∀ s : State, exec .mssLockstepMismatch s = exec .mssWatchdogExpire s) ∧
  (∀ s : State, s.mssRuns = true →
    Completes (exec .mssLockstepMismatch s) (fun t => t.inReset .mss = true ∧ t.mssRuns = false ∧ t.ctxs = s.ctxs ∧ t.mem = s.mem)) ∧
  (∀ (a b d : Nat) (s : State), s.mssRuns = true → s.hub.mssResets = [a, b, d] → s.now < a + 60000000 →
    s.now < b + 60000000 → s.now < d + 60000000 → s.inClearing = true →
    Completes (exec .mssLockstepMismatch s) (fun t => t.hub.mssLost = true ∧ t.mssRuns = false ∧
      t.out.msgs = .mssFailed :: s.out.msgs ∧ t.ctxs = s.ctxs ∧ t.mem = s.mem)) ∧
  (∀ (at_ : Nat) (s : State), (s.dom .mss).outAt = some at_ → (s.dom .mss).inReset = false → s.hub.mssLost = false →
    at_ + 100000 ≤ s.now →
    Completes (exec .mssResumeTimeout s) (fun t => t.hub.mssLost = true ∧
      t.out.msgs = (if s.inClearing then .mssFailed :: s.out.msgs else s.out.msgs) ∧
      OnlyChanges [.hub, .rings, .cxl, .mss, .out] s t)) ∧
  (∀ (n : Nat) (s : State), s.mssRuns = true → s.hub.toMss = [] → s.hub.fromMss = [] → s.hub.postWait = [] →
    s.regs.mssHeld = [] →
    Completes (exec (.mssMailboxMessage true (.command n)) s) (fun t => t.hub.mssTook = some n ∧ t.hub.toMss = [] ∧ OnlyChanges [.hub] s t)) ∧
  (∀ (n : Nat) (s : State), s.inReset .cp = false → s.hub.toMss = [] → s.hub.fromMss = [] → s.hub.postWait = [] →
    s.regs.mssHeld = [] →
    Completes (exec (.mssMailboxMessage false (.command n)) s) (fun t => t.hub.cpTook = some n ∧ t.hub.fromMss = [] ∧
      OnlyChanges [.hub] s t)) ∧
  (∀ (n : Nat) (g : BitVec 8) (s : State), s.mssRuns = true → s.hub.toMss = [] → s.hub.fromMss = [] → s.hub.postWait = [] →
    s.regs.mssHeld = [] →
    Completes (exec (.mssMailboxMessage true (.reply n g)) s) (fun t =>
      t.hub.mssTook = (if g = (s.dom .mss).gen then some n else s.hub.mssTook) ∧ t.hub.toMss = [] ∧ OnlyChanges [.hub] s t)) ∧
  (∀ (m : MailMsg) (s : State), s.inReset .mss = true → s.inReset .cp = true → s.hub.toMss.length < 64 →
    exec (.mssMailboxMessage true m) s = .next { s with hub := { s.hub with toMss := s.hub.toMss ++ [.plain m] } }) ∧
  (∀ (m : MailMsg) (s : State), s.inReset .mss = true → s.inReset .cp = true → s.hub.toMss.length = 64 →
    exec (.mssMailboxMessage true m) s = .next { s with hub := { s.hub with postWait := s.hub.postWait ++ [(true, .plain m)] } })

/-- A peer past its timeout is reported to its steward, probed on three paths, and kept or lost by the answers. A transfer
within its timeout and the extensions its peer has been given changes nothing; past it, SUSPECT goes to the steward of the
peer's grove, which marks the peer suspect and probes it on every path. A probed module out of reset answers with its
progress. Answers keep the peer in the clearing and grant an extension; without progress after four of them the peer is
declared lost. A refetch past it goes to the lowest replica. A probe timeout, a self-fence and an MSS failure declare a member
lost, with a ROLLBACK order. An item past its life is dropped and counted. Each clause that says so has as its conclusion that
exec answers a next state; it does for: peerTimeout, suspectReceive, probeReceive, probeReplyReceive, probeTimeout,
moduleSelfFenceReceive, mssFailedReceive, queueLifeExpiry. -/
def Obligations.SuspectsAndProbes : Prop :=
  (∀ (c : CtxId) (peer : ModNo) (bytes elapsed : Nat) (loc : Option Loc) (s : State), (s.sinceResume c elapsed ≤ s.peerTimeoutUs bytes * (1 + AL.get 0 peer.val (s.ctx c).waitsOn) ∨ (s.ctx c).paused = true) →
    exec (.peerTimeout c peer bytes elapsed loc) s = .next s) ∧
  (∀ (c : CtxId) (peer : ModNo) (bytes elapsed m : Nat) (s : State), s.peerTimeoutUs bytes * (1 + AL.get 0 peer.val (s.ctx c).waitsOn) < s.sinceResume c elapsed →
    (s.ctx c).paused = false → s.stewardOf c (groveOf peer.val) (some peer.val) = some m →
    Completes (exec (.peerTimeout c peer bytes elapsed none) s) (fun t =>
      t.out.msgs = .suspect c m peer.val :: s.out.msgs ∧
      t.ctx c = { s.ctx c with waitsOn := AL.set peer.val (AL.get 0 peer.val (s.ctx c).waitsOn) (s.ctx c).waitsOn } ∧
      OtherCtxs c s t ∧ OnlyChanges [.ctxs, .out] s t)) ∧
  (∀ (c : CtxId) (peer : ModNo) (bytes elapsed g m : Nat) (i : Fin 3) (s : State), s.peerTimeoutUs bytes * (1 + AL.get 0 peer.val (s.ctx c).waitsOn) < s.sinceResume c elapsed →
    (s.ctx c).paused = false → s.mem.repairs.find? (fun e => e.1 == .live c i g) = some (.live c i g, false) →
    s.replica c (s.partShard c .live) = some m →
    Completes (exec (.peerTimeout c peer bytes elapsed (some (.live c i g))) s) (fun t =>
      t.out.msgs = .refetch c m ⟨s.partShard c .live, .live⟩ (AL.get {} i (s.ctx c).live).version g :: s.out.msgs ∧
      t.mem.hbm = s.mem.hbm ∧ OnlyChanges [.mem, .out] s t)) ∧
  (∀ (c : CtxId) (src peer : ModNo) (s : State), s.stewardFor c peer.val = true → (s.ctx c).lostMods.contains peer.val = false →
    s.isMember c src.val = true → AL.find? peer.val (s.ctx c).probes = none →
    Completes (exec (.suspectReceive c src peer) s) (fun t =>
      peer.val ∈ (t.ctx c).suspects ∧ AL.find? peer.val (t.ctx c).probes = some (s.probePaths c peer.val) ∧
      t.out.msgs = ((s.probePaths c peer.val).map (fun p => Msg.probe c peer.val p)).reverse ++ s.out.msgs ∧
      (t.ctx c).lostMods = (s.ctx c).lostMods ∧ OtherCtxs c s t ∧ OnlyChanges [.ctxs, .out] s t)) ∧
  (∀ (src : ModNo) (path : Nat) (s : State), s.inReset .warm = false →
    Completes (exec (.probeReceive src path) s) (fun t =>
      t.out.msgs = .probeReply src.val path s.progressReport :: s.out.msgs ∧ OnlyChanges [.out] s t)) ∧
  (∀ (src : ModNo) (path : Nat) (s : State), s.inReset .warm = true → exec (.probeReceive src path) s = .next s) ∧
  (∀ (c : CtxId) (peer : ModNo) (ps paths : List Nat) (progress : Bool) (s : State),
    AL.find? peer.val (s.ctx c).probes = some ps → paths ≠ [] → ps.all (fun p => paths.contains p) = true →
    (progress = true ∨ AL.get 0 peer.val (s.ctx c).extensions < 4) →
    Completes (exec (.probeReplyReceive c peer paths progress) s) (fun t =>
      AL.get 0 peer.val (t.ctx c).extensions = (if progress then 0 else AL.get 0 peer.val (s.ctx c).extensions) + 1 ∧
      peer.val ∉ (t.ctx c).suspects ∧ AL.find? peer.val (t.ctx c).probes = none ∧ (t.ctx c).lostMods = (s.ctx c).lostMods ∧
      (∀ k, AL.find? peer.val (s.ctx c).waitsOn = some k → AL.get 0 peer.val (t.ctx c).waitsOn = k + 1) ∧
      Msg.extend c peer.val ∈ t.out.msgs ∧ OtherCtxs c s t ∧ OnlyChanges [.rings, .ctxs, .cxl, .grove, .mss, .hub, .out] s t)) ∧
  (∀ (c : CtxId) (peer : ModNo) (ps paths : List Nat) (s : State), AL.find? peer.val (s.ctx c).probes = some ps → paths ≠ [] →
    4 ≤ AL.get 0 peer.val (s.ctx c).extensions → s.isMember c peer.val = true → s.grove.sapling = none →
    Completes (exec (.probeReplyReceive c peer paths false) s) (fun t => peer.val ∈ (t.ctx c).lostMods ∧
      (s.mem.targets = [] → t.mem.hbm = s.mem.hbm) ∧ t.ckpt.seed = s.ckpt.seed)) ∧
  (∀ (c : CtxId) (peer : ModNo) (s : State), (AL.find? peer.val (s.ctx c).probes).isSome = true → s.isMember c peer.val = true →
    (s.ctx c).lostMods.contains peer.val = false → s.grove.sapling = none →
    Completes (exec (.probeTimeout c peer) s) (fun t => peer.val ∈ (t.ctx c).lostMods ∧ AL.find? peer.val (t.ctx c).probes = none ∧
      (t.ctx c).committed = (s.ctx c).committed ∧
      ((s.ctx c).takeoverOf = [] →
        ({ s.ctx c with lostMods := (s.ctx c).lostMods ++ [peer.val] } : Ctx).takeoverSource peer.val ≠ none →
        (t.ctx c).epoch = (s.ctx c).epoch + 1 ∧ (t.ctx c).ackWait = true) ∧
      Msg.rollbackOrder c (s.ctx c).epoch ∈ t.out.msgs ∧ (s.mem.targets = [] → t.mem.hbm = s.mem.hbm) ∧ OtherCtxs c s t ∧
      t.regs = s.regs ∧ t.gov = s.gov ∧ t.guest = s.guest ∧ t.pending = s.pending)) ∧
  (∀ (c : CtxId) (peer : ModNo) (s : State), s.stewardFor c peer.val = true → s.isMember c peer.val = true →
    (s.ctx c).lostMods.contains peer.val = false → s.grove.sapling = none →
    Completes (exec (.moduleSelfFenceReceive c peer) s) (fun t => peer.val ∈ (t.ctx c).lostMods ∧ AL.find? peer.val (t.ctx c).probes = none ∧
      (t.ctx c).committed = (s.ctx c).committed ∧
      ((s.ctx c).takeoverOf = [] →
        ({ s.ctx c with lostMods := (s.ctx c).lostMods ++ [peer.val] } : Ctx).takeoverSource peer.val ≠ none →
        (t.ctx c).epoch = (s.ctx c).epoch + 1 ∧ (t.ctx c).ackWait = true) ∧
      Msg.rollbackOrder c (s.ctx c).epoch ∈ t.out.msgs ∧ (s.mem.targets = [] → t.mem.hbm = s.mem.hbm) ∧ OtherCtxs c s t ∧
      t.regs = s.regs ∧ t.gov = s.gov ∧ t.guest = s.guest ∧ t.pending = s.pending)) ∧
  (∀ (c : CtxId) (peer : ModNo) (s : State), s.stewardFor c peer.val = true → s.isMember c peer.val = true →
    (s.ctx c).lostMods.contains peer.val = false → s.grove.sapling = none →
    Completes (exec (.mssFailedReceive c peer) s) (fun t => peer.val ∈ (t.ctx c).lostMods ∧ AL.find? peer.val (t.ctx c).probes = none ∧
      (t.ctx c).committed = (s.ctx c).committed ∧
      ((s.ctx c).takeoverOf = [] →
        ({ s.ctx c with lostMods := (s.ctx c).lostMods ++ [peer.val] } : Ctx).takeoverSource peer.val ≠ none →
        (t.ctx c).epoch = (s.ctx c).epoch + 1 ∧ (t.ctx c).ackWait = true) ∧
      Msg.rollbackOrder c (s.ctx c).epoch ∈ t.out.msgs ∧ (s.mem.targets = [] → t.mem.hbm = s.mem.hbm) ∧ OtherCtxs c s t ∧
      t.regs = s.regs ∧ t.gov = s.gov ∧ t.guest = s.guest ∧ t.pending = s.pending)) ∧
  (∀ (c : CtxId) (peer : ModNo) (s : State), AL.find? peer.val (s.ctx c).probes = none →
    exec (.probeTimeout c peer) s = .next s) ∧
  (∀ (lane i : Nat) (p : PortId) (s : State), lane ≠ 5 → (s.port p).waiting.findIdx? (fun e => e.1 == lane) = some i →
    Completes (exec (.queueLifeExpiry lane p) s) (fun t => (t.port p).waiting = (s.port p).waiting.eraseIdx i ∧
      (t.port p).replay = (s.port p).replay ∧ (t.port p).silent = AL.upd 0 .age (· + 1) (s.port p).silent ∧ OtherPorts p s t ∧
      OnlyChanges [.link] s t)) ∧
  (∀ (lane i : Nat) (p : PortId) (s : State), lane ≠ 5 → (s.port p).waiting.findIdx? (fun e => e.1 == lane) = none →
    (s.port p).replay.findIdx? (fun f => f.vl == lane && f.kind == 1) = some i →
    Completes (exec (.queueLifeExpiry lane p) s) (fun t => (t.port p).replay = (s.port p).replay.eraseIdx i ∧
      (t.port p).silent = AL.upd 0 .age (· + 1) (s.port p).silent ∧ OtherPorts p s t ∧ OnlyChanges [.link] s t)) ∧
  (∀ (p : PortId) (s : State), (s.port p).vl5Wait ≠ [] →
    Completes (exec (.queueLifeExpiry 5 p) s) (fun t => (t.port p).vl5Wait = (s.port p).vl5Wait.drop 1 ∧
      (t.port p).replay = (s.port p).replay ∧ (t.port p).silent = AL.upd 0 .age (· + 1) (s.port p).silent ∧ OtherPorts p s t ∧
      OnlyChanges [.link] s t))

/-- Declarations apply in sequence order and only from the steward; a ROLLBACK order rolls back once per epoch; reports order
a swap. A declaration or order not from the steward is dropped and counted (only a member's report of lost state needs no
steward: it stops both rings until a RESTORE). The next declaration in sequence applies: a LOST subject joins the lost
modules, a cleared one leaves the suspects, a replaced one leaves the lost modules with its new generation in the table, an
admitted one ends its shadow run. One already applied changes nothing; one ahead waits. A ROLLBACK order that names the
present epoch discards every provisional step of a loaded context and moves the epoch on; one that names a passed epoch
changes nothing. A strike report and an EOL_NO_SPARE report make the steward order a planned swap with a hot spare, or hold it
until one is admitted. Each clause that says so has as its conclusion that exec answers a next state; it does for:
declarationReceive, rollbackOrderReceive, moduleStrikeReportReceive, eolNoSpareReceive. -/
def Obligations.OrdersOfTheSteward : Prop :=
  (∀ (c : CtxId) (k : DeclKind) (issuer : ModNo) (n : Nat) (subject physical : ModNo) (gen : BitVec 8) (level : Nat) (s : State),
    s.fromSteward c issuer.val (some subject.val) = false →
    exec (.declarationReceive c k issuer n subject physical gen level) s =
      .next { s with grove := { s.grove with badOrders := s.grove.badOrders + 1 } }) ∧
  (∀ (c : CtxId) (issuer : ModNo) (n : Nat) (subject physical : ModNo) (gen : BitVec 8) (level : Nat) (s : State),
    s.fromSteward c issuer.val (some subject.val) = true → s.grove.declWait = [] → n < 2 ^ 32 →
    n = AL.get 0 (groveOf issuer.val) s.grove.seqNos + 1 →
    s.grove.sapling = none →
    Completes (exec (.declarationReceive c .lost issuer n subject physical gen level) s) (fun t =>
      subject.val ∈ (t.ctx c).lostMods ∧ subject.val ∉ (t.ctx c).suspects ∧ (t.ctx c).committed = (s.ctx c).committed ∧
      AL.get 0 (groveOf issuer.val) t.grove.seqNos = n ∧ t.grove.ident = s.grove.ident ∧ OtherCtxs c s t ∧
      t.regs = s.regs ∧ t.mem.hbm = s.mem.hbm ∧ t.gov = s.gov ∧ t.guest = s.guest ∧ t.pending = s.pending)) ∧
  (∀ (c : CtxId) (issuer : ModNo) (n : Nat) (subject physical : ModNo) (gen : BitVec 8) (level : Nat) (s : State),
    s.fromSteward c issuer.val (some subject.val) = true → s.grove.declWait = [] → n < 2 ^ 32 →
    n = AL.get 0 (groveOf issuer.val) s.grove.seqNos + 1 → 
    Completes (exec (.declarationReceive c .suspectCleared issuer n subject physical gen level) s) (fun t =>
      subject.val ∉ (t.ctx c).suspects ∧ AL.find? subject.val (t.ctx c).probes = none ∧
      (∀ k, AL.find? subject.val (s.ctx c).waitsOn = some k → AL.get 0 subject.val (t.ctx c).waitsOn = k + 1) ∧
      (t.ctx c).lostMods = (s.ctx c).lostMods ∧ AL.get 0 (groveOf issuer.val) t.grove.seqNos = n ∧ OtherCtxs c s t ∧
      OnlyChanges [.rings, .ctxs, .cxl, .grove, .mss, .hub] s t)) ∧
  (∀ (c : CtxId) (issuer : ModNo) (n : Nat) (subject physical : ModNo) (gen : BitVec 8) (level : Nat) (s : State),
    s.fromSteward c issuer.val (some subject.val) = true → s.grove.declWait = [] → n < 2 ^ 32 →
    n = AL.get 0 (groveOf issuer.val) s.grove.seqNos + 1 → subject.val ≠ s.ident →
    Completes (exec (.declarationReceive c .replaced issuer n subject physical gen level) s) (fun t =>
      subject.val ∉ (t.ctx c).lostMods ∧ AL.find? subject.val (t.ctx c).takeoverOf = none ∧
      AL.find? subject.val t.link.gens = some gen ∧ (t.ctx c).committed = (s.ctx c).committed ∧
      AL.get 0 (groveOf issuer.val) t.grove.seqNos = n ∧ t.grove.ident = s.grove.ident ∧
      t.regs = s.regs ∧ t.mem = s.mem ∧ t.cores = s.cores)) ∧
  (∀ (c : CtxId) (issuer : ModNo) (n : Nat) (subject physical : ModNo) (gen : BitVec 8) (level : Nat) (s : State),
    s.fromSteward c issuer.val (some subject.val) = true → s.grove.declWait = [] → n < 2 ^ 32 →
    n = AL.get 0 (groveOf issuer.val) s.grove.seqNos + 1 → physical.val ≠ s.phys →
    s.isSteward c = false →
    Completes (exec (.declarationReceive c .admitted issuer n subject physical gen level) s) (fun t =>
      t.grove.shadows = s.grove.shadows.filter (fun (e : CtxId × Shadow) => e.2.sapling != subject.val) ∧
      (t.ctx c).committed = (s.ctx c).committed ∧ AL.get 0 (groveOf issuer.val) t.grove.seqNos = n ∧
      t.grove.ident = s.grove.ident ∧ t.regs = s.regs ∧ t.mem = s.mem ∧ t.cores = s.cores)) ∧
  (∀ (c : CtxId) (k : DeclKind) (issuer : ModNo) (subject physical : ModNo) (gen : BitVec 8) (level : Nat) (s : State),
    s.fromSteward c issuer.val (some subject.val) = true → AL.get 0 (groveOf issuer.val) s.grove.seqNos < 2 ^ 32 →
    exec (.declarationReceive c k issuer (AL.get 0 (groveOf issuer.val) s.grove.seqNos) subject physical gen level) s = .next s) ∧
  (∀ (c : CtxId) (k : DeclKind) (issuer : ModNo) (n : Nat) (subject physical : ModNo) (gen : BitVec 8) (level : Nat) (s : State),
    s.fromSteward c issuer.val (some subject.val) = true → AL.get 0 (groveOf issuer.val) s.grove.seqNos + 1 < n →
    n < 2 ^ 31 →
    exec (.declarationReceive c k issuer n subject physical gen level) s = .next { s with grove := { s.grove with
      declWait := s.grove.declWait ++ [⟨c, k, issuer.val, n, subject.val, physical.val, gen, level⟩] } }) ∧
  (∀ (c : CtxId) (issuer : ModNo) (e : BitVec 16) (s : State), s.fromSteward c issuer.val none = false →
    exec (.rollbackOrderReceive c issuer { epoch := e }) s =
      .next { s with grove := { s.grove with badOrders := s.grove.badOrders + 1 } }) ∧
  (∀ (c : CtxId) (issuer : ModNo) (s : State), s.fromSteward c issuer.val none = true → (s.ctx c).loaded = true →
    Completes (exec (.rollbackOrderReceive c issuer { epoch := (s.ctx c).epoch }) s) (fun t =>
      (t.ctx c).epoch = (s.ctx c).epoch + 1 ∧ (t.ctx c).ackWait = true ∧ (t.ctx c).committed = (s.ctx c).committed ∧
      (t.ctx c).steps.map (·.number) = (s.ctx c).steps.map (·.number) ∧
      ((s.ctx c).ackWait = false → (t.ctx c).steps.all (fun u => decide (u.state = .discarded)) = true) ∧
      (t.ctx c).prog = (s.ctx c).prog ∧ (s.mem.targets = [] → t.mem = s.mem) ∧ OtherCtxs c s t ∧
      OnlyChanges [.rings, .ctxs, .cxl, .cores, .mss, .hub, .mem, .out] s t)) ∧
  (∀ (c : CtxId) (issuer : ModNo) (e : BitVec 16) (s : State), s.fromSteward c issuer.val none = true →
    0 < ((s.ctx c).epoch - e).toNat → ((s.ctx c).epoch - e).toNat < 2 ^ 15 →
    exec (.rollbackOrderReceive c issuer { epoch := e }) s = .next s) ∧
  (∀ (c : CtxId) (issuer : ModNo) (e : BitVec 16) (s : State), (s.ctx c).loaded = true → s.epochPast c e = false →
    issuer.val ≠ s.ident → (s.clearingMods c).contains issuer.val = true →
    Completes (exec (.rollbackOrderReceive c issuer { epoch := e, stateLost := true }) s) (fun t =>
      (t.ctx c).needRestore = true ∧ (t.ctx c).epoch = (s.ctx c).epoch + 1 ∧ (t.ctx c).committed = (s.ctx c).committed ∧
      (t.ctx c).steps = [] ∧ (t.ring (setOf c)).step.stop.isSome = true ∧ (t.ring (setOf c)).service.stop.isSome = true ∧
      ((s.ring (setOf c)).service.stop = none → (t.ring (setOf c)).service.stop = some .stepPeerStopped) ∧ OtherCtxs c s t ∧
      t.regs = s.regs ∧ t.gov = s.gov ∧ t.guest = s.guest ∧ t.pending = s.pending)) ∧
  (∀ (c : CtxId) (issuer : ModNo) (e : BitVec 16) (s : State), ((s.ctx c).loaded = false ∨ s.epochPast c e = true ∨
    issuer.val = s.ident ∨ (s.clearingMods c).contains issuer.val = false) →
    exec (.rollbackOrderReceive c issuer { epoch := e, stateLost := true }) s = .next s) ∧
  (∀ (c : CtxId) (m : ModNo) (sp : Nat) (s : State), s.isSteward c = true → groveOf m.val = groveOf s.ident →
    s.hotSpare c = some sp →
    Completes (exec (.moduleStrikeReportReceive c m) s) (fun t =>
      (t.ctx c).swapAfter = some (m.val, (s.ctx c).committed + (s.ctx c).steps.length + 2) ∧
      t.out.msgs = .swapOrder c m.val sp ((s.ctx c).committed + (s.ctx c).steps.length + 2) :: s.out.msgs ∧
      m.val ∉ t.grove.swapWait ∧ OtherCtxs c s t ∧ OnlyChanges [.rings, .ctxs, .cxl, .grove, .mss, .hub, .out] s t)) ∧
  (∀ (c : CtxId) (m : ModNo) (s : State), s.isSteward c = true → groveOf m.val = groveOf s.ident → s.hotSpare c = none →
    Completes (exec (.moduleStrikeReportReceive c m) s) (fun t => m.val ∈ t.grove.swapWait ∧ OnlyChanges [.grove] s t)) ∧
  (∀ (c : CtxId) (m : ModNo) (sp : Nat) (s : State), s.isSteward c = true → groveOf m.val = groveOf s.ident →
    s.hotSpare c = some sp →
    Completes (exec (.eolNoSpareReceive c m) s) (fun t =>
      (t.ctx c).swapAfter = some (m.val, (s.ctx c).committed + (s.ctx c).steps.length + 2) ∧
      t.out.msgs = .swapOrder c m.val sp ((s.ctx c).committed + (s.ctx c).steps.length + 2) :: s.out.msgs ∧
      m.val ∉ t.grove.swapWait ∧ OtherCtxs c s t ∧ OnlyChanges [.rings, .ctxs, .cxl, .grove, .mss, .hub, .out] s t)) ∧
  (∀ (c : CtxId) (m : ModNo) (s : State), s.isSteward c = true → groveOf m.val = groveOf s.ident → s.hotSpare c = none →
    Completes (exec (.eolNoSpareReceive c m) s) (fun t => m.val ∈ t.grove.swapWait ∧ OnlyChanges [.grove] s t))

/-- A spare that has verified its copy answers for the lost identity at the committed version; a planned swap stops admission.
A takeover record replaces an earlier one of its step; the buddy's program image is kept beside them. A hot spare takes the
steward's order and asks the buddy for the state. Copies that have the CRC lists of their source, at first or when copied
again, restore the committed version, the epoch and the discarded steps, and rebind the identity; the acknowledgement is
contributed. Copies that differ twice are fetched from a replica of each shard if both are alive; with none of the lost shard
the state is lost. A planned swap ordered by the steward marks the step after whose commit admission stops; another's order is
dropped and counted. A route update gives the identity's entry the port towards the spare. Each clause that says so has as its
conclusion that exec answers a next state; it does for: takeoverRecordReceive, takeoverOrderReceive, plannedSwapStart,
takeoverCopyComplete, routeUpdateReceive. -/
def Obligations.TakeoversAndSwaps : Prop :=
  (∀ (c : CtxId) (src : ModNo) (step attempt : Nat) (desc : List Byte) (upd : UpdateRec) (c0 c1 p2 : Nat) (b : Bool)
    (crcs : List Nat) (s : State), s.buddy c = some src.val →
    Completes (exec (.takeoverRecordReceive c src step attempt (.step desc) upd c0 c1 p2 b crcs) s) (fun t =>
      (t.ctx c).takeovers = (s.ctx c).takeovers.filter (fun e => e.step != step) ++ [⟨step, attempt, desc, upd, c0, c1, p2, b, crcs⟩] ∧
      (t.ctx c).committed = (s.ctx c).committed ∧ (t.ctx c).live = (s.ctx c).live ∧ OtherCtxs c s t ∧ OnlyChanges [.ctxs] s t)) ∧
  (∀ (c : CtxId) (src : ModNo) (step attempt : Nat) (p : Program) (upd : UpdateRec) (c0 c1 p2 : Nat) (b : Bool)
    (crcs : List Nat) (s : State), s.buddy c = some src.val →
    exec (.takeoverRecordReceive c src step attempt (.image p) upd c0 c1 p2 b crcs) s =
      .next (s.updCtx c (fun x => { x with buddyImage := some p }))) ∧
  (∀ (c : CtxId) (issuer lost a b : ModNo) (clr : Nat) (s : State), s.fromSteward c issuer.val (some lost.val) = true →
    s.mayTakeOver lost.val = true → (s.ctx c).loaded = false →
    Completes (exec (.takeoverOrderReceive c issuer lost ⟨a, b⟩ clr) s) (fun t =>
      (t.ctx c).takeoverOf = [(lost.val, some s.phys)] ∧ (t.ctx c).takeoverClr = clr ∧
      t.out.msgs = (if b = a then [] else [.takeoverRequest c b.val]) ++ .takeoverRequest c a.val :: s.out.msgs ∧ t.grove = s.grove ∧ OtherCtxs c s t ∧
      OnlyChanges [.rings, .ctxs, .cxl, .mss, .hub, .out] s t)) ∧
  (∀ (c : CtxId) (issuer lost : ModNo) (src : CopySource) (clr : Nat) (s : State),
    s.fromSteward c issuer.val (some lost.val) = true →
    s.mayTakeOver lost.val = false → exec (.takeoverOrderReceive c issuer lost src clr) s = .next s) ∧
  (∀ (c : CtxId) (w admitted : ModNo) (step : Nat) (o : SwapOrder) (s : State), s.fromSteward c o.issuer.val (some w.val) = false →
    exec (.plannedSwapStart c w admitted step o) s =
      .next { s with grove := { s.grove with badOrders := s.grove.badOrders + 1 } }) ∧
  (∀ (c : CtxId) (w admitted : ModNo) (step : Nat) (o : SwapOrder) (s : State), s.fromSteward c o.issuer.val (some w.val) = true →
    admitted.val ≠ s.phys → (s.ctx c).loaded = true →
    Completes (exec (.plannedSwapStart c w admitted step o) s) (fun t => (t.ctx c).swapAfter = some (w.val, step) ∧
      (w.val = s.ident → (t.ctx c).spareCopy.isSome = true) ∧
      (t.ctx c).steps = (s.ctx c).steps ∧ (t.ctx c).committed = (s.ctx c).committed ∧ OtherCtxs c s t ∧
      OnlyChanges [.rings, .ctxs, .cxl, .mss, .hub] s t)) ∧
  (∀ (c : CtxId) (w admitted : ModNo) (step : Nat) (o : SwapOrder) (s : State), s.fromSteward c o.issuer.val (some w.val) = true →
    admitted.val = s.phys → s.mayTakeOver w.val = true →
    Completes (exec (.plannedSwapStart c w admitted step o) s) (fun t =>
      (t.ctx c).takeoverOf = [(w.val, some s.phys)] ∧ (t.ctx c).takeoverClr = o.clearing ∧
      t.out.msgs = .takeoverRequest c w.val :: s.out.msgs ∧ OtherCtxs c s t ∧
      OnlyChanges [.rings, .ctxs, .cxl, .mss, .hub, .out] s t)) ∧
  (∀ (c : CtxId) (lost : ModNo) (ver : Nat) (live mirror l m : SlotData) (p : Program) (lists : Option CopyLists)
    (again : SlotData × SlotData) (c0 c1 p2 : Nat) (e : TakeoverPoint) (recs : List TakeoverRec) (s : State),
    (s.ctx c).takeoverOf = [(lost.val, some s.phys)] → (s.ctx c).loaded = false → (s.ctx c).swapAfter = none →
    ((l, m) = (live, mirror) ∨ copiesAgree p false lists live mirror = false ∧ (l, m) = again) →
    copiesAgree p false lists l m = true →
    Completes (exec (.takeoverCopyComplete c ver live mirror p lists again c0 c1 p2 e recs) s) (fun t =>
      t.ident = lost.val ∧ t.grove.spare = false ∧ (t.ctx c).committed = ver ∧ ((t.ctx c).liveSlot ver).state = .committed ∧
      ((t.ctx c).liveSlot ver).data = l ∧ ((t.ctx c).mirSlot ver).data = m ∧ (t.ctx c).epoch = e.epoch ∧
      AL.get 0 (groveOf lost.val) t.grove.seqNos = e.seqNo ∧
      (t.ctx c).steps.map (fun u => (u.number, u.state)) =
        (recs.filter (fun r => decide (ver < r.step))).map (fun r => (r.step, StepState.discarded)) ∧
      (∀ n, e.ckpt = some n →
        Msg.contribute c (.ckptDone n) (if ((s.ctx c).aliveReplica p lost.val).isNone then 0 else 3) ∈ t.out.msgs) ∧
      (t.ctx c).keep = [] ∧ (t.ctx c).snapshot = none ∧ (t.ctx c).ackWait = true ∧ t.ckpt.stripes = [] ∧
      Msg.contribute c .rollbackAck 0 ∈ t.out.msgs ∧ Msg.takeoverReady c lost.val ∈ t.out.msgs ∧ OtherCtxs c s t ∧
      t.mem = s.mem ∧ t.gov = s.gov ∧ t.ckpt.seed = s.ckpt.seed ∧ t.pending = s.pending)) ∧
  (∀ (c : CtxId) (lost : ModNo) (ver : Nat) (live mirror : SlotData) (p : Program) (lists : Option CopyLists)
    (again : SlotData × SlotData) (c0 c1 p2 b r q : Nat) (e : TakeoverPoint) (recs : List TakeoverRec) (s : State),
    (s.ctx c).takeoverOf = [(lost.val, some s.phys)] → (s.ctx c).loaded = false → (s.ctx c).swapAfter = none →
    copiesAgree p false lists live mirror = false → copiesAgree p false lists again.1 again.2 = false →
    (s.ctx c).aliveReplica p lost.val = some r → buddyOf p lost.val = some b → (s.ctx c).aliveReplica p b = some q →
    Completes (exec (.takeoverCopyComplete c ver live mirror p lists again c0 c1 p2 e recs) s) (fun t =>
      t.out.msgs = .takeoverRequest c q :: .takeoverRequest c r :: s.out.msgs ∧ OnlyChanges [.out] s t)) ∧
  (∀ (c : CtxId) (lost : ModNo) (ver : Nat) (live mirror : SlotData) (p : Program) (lists : Option CopyLists)
    (again : SlotData × SlotData) (c0 c1 p2 : Nat) (e : TakeoverPoint) (recs : List TakeoverRec) (s : State),
    (s.ctx c).takeoverOf = [(lost.val, some s.phys)] → (s.ctx c).loaded = false → (s.ctx c).swapAfter = none →
    copiesAgree p false lists live mirror = false → copiesAgree p false lists again.1 again.2 = false →
    (s.ctx c).aliveReplica p lost.val = none →
    Completes (exec (.takeoverCopyComplete c ver live mirror p lists again c0 c1 p2 e recs) s) (fun t =>
      (t.ctx c).takeoverOf = [] ∧ (t.ctx c).needRestore = true ∧ t.grove = s.grove ∧ OtherCtxs c s t)) ∧
  (∀ (c : CtxId) (issuer ident spare : ModNo) (gw : List (Nat × Nat)) (k : Nat) (q : PortId) (s : State),
    s.isSteward c = false → s.fromSteward c issuer.val none = true → s.tableOf c = some k → spare.val ≠ s.phys →
    groveOf ident.val ≠ groveOf s.phys → s.portTo spare.val = some q →
    Completes (exec (.routeUpdateReceive c issuer ident spare gw) s) (fun t =>
      t.reg (aRtEntry k ident.val) = s.reg (aRtEntry k ident.val) / 64 * 64 + q.val ∧
      (∀ d, d < 4096 → d ≠ ident.val → t.reg (aRtEntry k d) = s.reg (aRtEntry k d)) ∧ OnlyChanges [.regs, .ctxs] s t))

/-- Samples and the hourly evaluation report worn units; a sapling runs on the inputs of the module it shadows and is judged
by its records. A sample of an indicator its unit has becomes the monitor's last value and, but for the refresh margin, joins
the hour's sum; a pseudo-channel's report rate takes in the reports collected here; no other monitor changes. An evaluation
within the hour changes nothing. With one monitored port whose prediction lies below THRESHOLD_DAYS the evaluation marks it
reported, and where AUTO is 1 has the command processor fence the port at once if no step is provisional, else puts it down
for the next step boundary; with AUTO 0 the port stays. A sapling outside a clearing that implements the job's ACR holds the
version it copied; another leaves its state alone and reports ACR_UNSUPPORTED. The module shadowed and the steward note it;
the steward turns away one that is not to shadow that module. The inputs of the next step start it; slices and the clip factor
stand in for the reductions; a rollback notice discards from its step on. An equal record counts one and commits the sapling's
own step; an unequal one is re-executed from its inputs and its step named. A re-execution equal to W starts the count again;
a mismatch of the sapling's own at its limit rejects it and clears the context; a third module that agrees with the sapling
counts as an equal record. Each clause that says so has as its conclusion that exec answers a next state; it does for:
wearSample, eolEvaluation, saplingStart, saplingFeedReceive, saplingStepCompare, saplingReexecuteComplete. -/
def Obligations.WearAndSaplings : Prop :=
  (∀ (u : WearUnit) (i : Indicator) (v : Nat) (s : State), (indicatorsOf u).contains i = true → s.mssRuns = true → i ≠ .eccRate →
    Completes (exec (.wearSample u i v) s) (fun t => ∃ w, AL.find? (u, i) t.mss.wear = some w ∧ w.last = v ∧ w.first.isSome = true ∧
      (i ≠ .refreshMargin → w.sum = (AL.get ⟨none, 0, 0, 0, [], false, false⟩ (u, i) s.mss.wear).sum + v) ∧
      (∀ k, k ≠ (u, i) → AL.find? k t.mss.wear = AL.find? k s.mss.wear) ∧ t.mss.log = s.mss.log ∧ OnlyChanges [.mss] s t)) ∧
  (∀ (d : Die) (ch v : Nat) (s : State), s.mssRuns = true →
    Completes (exec (.wearSample (.channel d ch) .eccRate v) s) (fun t => ∃ w, AL.find? (.channel d ch, .eccRate) t.mss.wear = some w ∧
      w.last = v + 6 * AL.get 0 (d.val, ch) s.mem.corrected ∧ AL.find? (d.val, ch) t.mem.corrected = none ∧
      (∀ k, k ≠ (.channel d ch, .eccRate) → AL.find? k t.mss.wear = AL.find? k s.mss.wear) ∧ t.mss.log = s.mss.log ∧
      t.mem.hbm = s.mem.hbm ∧ OnlyChanges [.mss, .mem] s t)) ∧
  (∀ (u : WearUnit) (i : Indicator) (v : Nat) (s : State), (indicatorsOf u).contains i = false →
    exec (.wearSample u i v) s = .next s) ∧
  (∀ s : State, s.now < s.mss.eolAt + 3600000000 → exec .eolEvaluation s = .next s) ∧
  (∀ (p : PortId) (w : WearSt) (s : State), s.mssRuns = true → (s.regs.bank .mssEol).pending = none →
    s.mss.eolAt + 3600000000 ≤ s.now →
    s.mss.wear = [((.port p, .portBer), w)] → w.told = false → w.acted = false → s.hub.toMss = [] → s.hub.fromMss = [] → s.hub.postWait = [] → s.regs.mssHeld = [] → 
    s.inReset .cp = false → bitOf (s.reg aEolPol) 16 = true →
    (predict .portBer s.now (closeHour s.now (bitsOf (s.reg aEolPol) 15 8) ((.port p, .portBer), w)).2).below
      (bitsOf (s.reg aEolPol) 7 0) = true → (s.port p).state ≠ 5 → (∀ c : CtxId, (s.ctx c).steps = []) → s.hub.eolDue = [] →
    Completes (exec .eolEvaluation s) (fun t => (t.port p).state = 5 ∧ t.mss.eolAt = s.now ∧
      t.mss.wear.all (fun e => e.2.told && e.2.acted) = true ∧ t.mem.hbm = s.mem.hbm ∧ t.cores = s.cores ∧ t.gov = s.gov)) ∧
  (∀ (c : CtxId) (p : PortId) (w : WearSt) (s : State), s.mssRuns = true → (s.regs.bank .mssEol).pending = none →
    s.mss.eolAt + 3600000000 ≤ s.now →
    s.mss.wear = [((.port p, .portBer), w)] → w.told = false → w.acted = false → s.hub.toMss = [] → s.hub.fromMss = [] → s.hub.postWait = [] → s.regs.mssHeld = [] → 
    s.inReset .cp = false → bitOf (s.reg aEolPol) 16 = true →
    (predict .portBer s.now (closeHour s.now (bitsOf (s.reg aEolPol) 15 8) ((.port p, .portBer), w)).2).below
      (bitsOf (s.reg aEolPol) 7 0) = true → (s.ctx c).steps ≠ [] →
    Completes (exec .eolEvaluation s) (fun t => t.port p = s.port p ∧ .port p ∈ t.hub.eolDue ∧ t.mss.eolAt = s.now ∧
      OnlyChanges [.rings, .cxl, .mss, .hub] s t)) ∧
  (∀ (p : PortId) (w : WearSt) (s : State), s.mssRuns = true → (s.regs.bank .mssEol).pending = none →
    s.mss.eolAt + 3600000000 ≤ s.now →
    s.mss.wear = [((.port p, .portBer), w)] → w.told = false → bitOf (s.reg aEolPol) 16 = false →
    (predict .portBer s.now (closeHour s.now (bitsOf (s.reg aEolPol) 15 8) ((.port p, .portBer), w)).2).below
      (bitsOf (s.reg aEolPol) 7 0) = true → s.hub.eolDue = [] →
    Completes (exec .eolEvaluation s) (fun t => t.port p = s.port p ∧ t.mss.eolAt = s.now ∧
      t.mss.wear.all (fun e => e.2.told) = true ∧ OnlyChanges [.rings, .cxl, .mss, .hub] s t)) ∧
  (∀ s : State, s.mssRuns = true → (s.regs.bank .mssEol).pending = none →
    s.mss.eolAt + 3600000000 ≤ s.now → s.mss.wear = [] → s.hub.eolDue = [] →
    Completes (exec .eolEvaluation s) (fun t => t.mss.eolAt = s.now ∧ t.mss.wear = [] ∧ OnlyChanges [.mss] s t)) ∧
  (∀ (c : CtxId) (sap w : ModNo) (b : Bool) (v acr : Nat) (p : Program) (d : SlotData) (s : State), sap.val = s.phys →
    s.inClearing = false → (s.ctx c).loaded = false → s.acrOk acr = true → (s.regs.bank .mssSap).pending = none →
    Completes (exec (.saplingStart c sap ⟨w, b⟩ v acr p d) s) (fun t => (t.ctx c).committed = v ∧ (t.ctx c).prog = some p ∧
      ((t.ctx c).liveSlot v).state = .committed ∧ ((t.ctx c).liveSlot v).data = d ∧
      t.grove.sapling = some ⟨c, w, v, acr, bitsOf (s.reg aSapCfg) 15 0, bitsOf (s.reg aSapCfg) 19 16, 0, 0, false, none, [], []⟩ ∧
      OtherCtxs c s t ∧ OnlyChanges [.ctxs, .grove] s t)) ∧
  (∀ (c : CtxId) (sap w : ModNo) (b : Bool) (v acr : Nat) (p : Program) (d : SlotData) (s : State), sap.val = s.phys →
    s.inClearing = false → (s.ctx c).loaded = false → s.acrOk acr = false →
    Completes (exec (.saplingStart c sap ⟨w, b⟩ v acr p d) s) (fun t => OnlyChanges [.rings, .cxl, .mss, .hub] s t)) ∧
  (∀ (c : CtxId) (sap w : ModNo) (b : Bool) (v acr : Nat) (p : Program) (d : SlotData) (s : State), sap.val ≠ s.phys →
    (s.isSteward c = true → s.levelBelow sap.val acr = false ∧ s.mayShadow c sap.val ⟨w, b⟩ = true) →
    (w.val = s.ident ∨ s.isSteward c = true) → (w.val = s.ident → (s.ctx c).steps = []) →
    exec (.saplingStart c sap ⟨w, b⟩ v acr p d) s = .next { s with grove := { s.grove with
      shadows := s.grove.shadows.filter (fun (q : CtxId × Shadow) => !(decide (q.1 = c) && q.2.sapling == sap.val)) ++
        [(c, ⟨sap.val, w.val, 0, bitsOf (s.reg aSapCfg) 15 0, 0, bitsOf (s.reg aSapCfg) 19 16, b⟩)] } }) ∧
  (∀ (c : CtxId) (sap : ModNo) (w : ShadowPlan) (v acr : Nat) (p : Program) (d : SlotData) (s : State), sap.val ≠ s.phys →
    s.isSteward c = true → s.levelBelow sap.val acr = false → s.mayShadow c sap.val w = false →
    exec (.saplingStart c sap w v acr p d) s = .next s) ∧
  (∀ (c : CtxId) (g : Sapling) (p : Program) (n : Nat) (desc : List Byte) (batch : List (List Byte)) (upd : UpdateRec) (s : State),
    s.grove.sapling = some g → g.ctx = c → g.admitted = false → (s.ctx c).prog = some p →
    n = (s.ctx c).committed + (s.ctx c).steps.length + 1 → n ≤ (s.ctx c).committed + 16 →
    Completes (exec (.saplingFeedReceive c (.stepInputs n desc batch upd)) s) (fun t =>
      (t.ctx c).steps.map (·.number) = (s.ctx c).steps.map (·.number) ++ [n] ∧ (t.ctx c).committed = (s.ctx c).committed ∧
      (t.ctx c).lastUpd = some upd ∧ OtherCtxs c s t ∧ OnlyChanges [.ctxs, .cores] s t)) ∧
  (∀ (c : CtxId) (g : Sapling) (p : Program) (slice tensor first : Nat) (vals : List Int) (u : Step) (s : State),
    s.grove.sapling = some g → g.ctx = c → g.admitted = false → (s.ctx c).prog = some p → (s.ctx c).steps = [u] →
    Completes (exec (.saplingFeedReceive c (.slice u.number slice tensor first vals)) s) (fun t =>
      ((t.ctx c).steps.map (fun x => (AL.find? slice x.slices).map (fun l => (l.tensor, l.first, l.vals)))) =
        [some (tensor, first, vals)] ∧ OtherCtxs c s t ∧ OnlyChanges [.ctxs] s t)) ∧
  (∀ (c : CtxId) (g : Sapling) (p : Program) (k : Option Word) (u : Step) (s : State),
    s.grove.sapling = some g → g.ctx = c → g.admitted = false → (s.ctx c).prog = some p → (s.ctx c).steps = [u] →
    Completes (exec (.saplingFeedReceive c (.clip u.number k)) s) (fun t =>
      ((t.ctx c).steps.map (fun x => (x.clip, x.nonfinite, x.clean))) = [(k, k.isNone, plainGrads p)] ∧ OtherCtxs c s t ∧
      OnlyChanges [.ctxs] s t)) ∧
  (∀ (c : CtxId) (g : Sapling) (p : Program) (n : Nat) (s : State), s.grove.sapling = some g → g.ctx = c → g.admitted = false →
    (s.ctx c).prog = some p →
    Completes (exec (.saplingFeedReceive c (.rollback n)) s) (fun t =>
      (t.ctx c).steps.map (·.number) = (s.ctx c).steps.map (·.number) ∧ (t.ctx c).committed = (s.ctx c).committed ∧
      (∀ u ∈ (s.ctx c).steps, u.number < n → u.started = true → u ∈ (t.ctx c).steps) ∧ (t.ctx c).prog = some p ∧
      (s.mem.targets = [] → t.mem = s.mem) ∧ OtherCtxs c s t ∧ OnlyChanges [.ctxs, .cores, .mem] s t)) ∧
  (∀ (c : CtxId) (g : Sapling) (u : Step) (n : Nat) (bs : List Byte) (s : State), s.grove.sapling = some g → g.ctx = c →
    g.admitted = false → g.reexec = none → (s.ctx c).steps = [u] → u.number = n → u.state = .checking →
    bs = kiythCompared (s.kiyth c u false) →
    Completes (exec (.saplingStepCompare c n (.ofW bs)) s) (fun t => (t.ctx c).committed = n ∧ (t.ctx c).steps = [] ∧
      t.grove.sapling = some { g with equal := g.equal + 1 } ∧
      (g.needed ≤ g.equal + 1 → t.out.msgs = .saplingVerdict c true :: s.out.msgs) ∧ t.mem.hbm = s.mem.hbm ∧ OtherCtxs c s t ∧
      OnlyChanges [.ctxs, .cores, .mem, .grove, .out] s t)) ∧
  (∀ (c : CtxId) (g : Sapling) (u : Step) (n : Nat) (bs : List Byte) (s : State), s.grove.sapling = some g → g.ctx = c →
    g.admitted = false → g.reexec = none → (s.ctx c).steps = [u] → u.number = n → u.state = .checking →
    bs ≠ kiythCompared (s.kiyth c u false) →
    Completes (exec (.saplingStepCompare c n (.ofW bs)) s) (fun t =>
      t.grove.sapling = some { g with reexec := some n, first := kiythCompared (s.kiyth c u false), theirs := bs } ∧
      t.out.msgs = .saplingReexecute c n :: s.out.msgs ∧ (t.ctx c).committed = (s.ctx c).committed ∧
      (t.ctx c).steps.map (fun x => (x.number, x.slices, x.clip, x.nonfinite, x.clean)) =
        [(n, u.slices, u.clip, u.nonfinite, u.clean)] ∧ (s.mem.targets = [] → t.mem = s.mem) ∧ OtherCtxs c s t ∧
      OnlyChanges [.ctxs, .cores, .mem, .grove, .out] s t)) ∧
  (∀ (c : CtxId) (m : ModNo) (n : Nat) (e : Shadow) (s : State), s.isSteward c = true → s.shadowOf c m.val = some e →
    e.equal + 1 < e.needed →
    Completes (exec (.saplingStepCompare c n (.verdict m true)) s) (fun t =>
      t.shadowOf c m.val = some { e with equal := e.equal + 1 } ∧ OnlyChanges [.grove] s t)) ∧
  (∀ (c : CtxId) (m : ModNo) (n : Nat) (s : State), exec (.saplingStepCompare c n (.verdict m false)) s = .next s) ∧
  (∀ (c : CtxId) (g : Sapling) (u : Step) (n tensor : Nat) (third : Option Bool) (s : State), s.grove.sapling = some g →
    g.ctx = c → g.reexec = some n → (s.ctx c).steps = [u] → u.number = n → u.state = .checking →
    kiythCompared (s.kiyth c u false) = g.theirs →
    Completes (exec (.saplingReexecuteComplete c n (.ended third) tensor) s) (fun t => (t.ctx c).committed = n ∧
      t.grove.sapling = some { g with equal := 0, reexec := none, first := [], theirs := [] } ∧ t.mem.hbm = s.mem.hbm ∧ OtherCtxs c s t ∧
      OnlyChanges [.ctxs, .cores, .mem, .grove] s t)) ∧
  (∀ (c : CtxId) (m : ModNo) (n tensor : Nat) (e : Shadow) (s : State), s.isSteward c = true → s.shadowOf c m.val = some e →
    Completes (exec (.saplingReexecuteComplete c n (.verdict m .equalsW) tensor) s) (fun t =>
      t.shadowOf c m.val = some { e with equal := 0 } ∧ OnlyChanges [.grove] s t)) ∧
  (∀ (c : CtxId) (m : ModNo) (n tensor : Nat) (e : Shadow) (s : State), s.isSteward c = true → s.shadowOf c m.val = some e →
    e.limit ≤ e.mismatch + 1 →
    Completes (exec (.saplingReexecuteComplete c n (.verdict m (.equalsFirst (some false))) tensor) s) (fun t =>
      t.shadowOf c m.val = none ∧ OnlyChanges [.grove] s t)) ∧
  (∀ (c : CtxId) (g : Sapling) (u : Step) (n tensor : Nat) (third : Option Bool) (s : State), s.grove.sapling = some g →
    g.ctx = c → g.reexec = some n → (s.ctx c).steps = [u] → u.number = n → u.state = .checking →
    kiythCompared (s.kiyth c u false) ≠ g.theirs → (s.hotSpare c).isSome = true → third = some true →
    Completes (exec (.saplingReexecuteComplete c n (.ended third) tensor) s) (fun t => (t.ctx c).committed = n ∧
      (∃ g', t.grove.sapling = some g' ∧ g'.equal = g.equal + 1 ∧ g'.reexec = none ∧ g'.mismatch = g.mismatch) ∧
      t.mem.hbm = s.mem.hbm ∧ OtherCtxs c s t ∧ OnlyChanges [.ctxs, .cores, .mem, .grove, .out] s t)) ∧
  (∀ (c : CtxId) (g : Sapling) (u : Step) (n tensor : Nat) (third : Option Bool) (s : State), s.grove.sapling = some g →
    g.ctx = c → g.reexec = some n → (s.ctx c).steps = [u] → u.number = n → u.state = .checking →
    kiythCompared (s.kiyth c u false) ≠ g.theirs → (third ≠ some true ∨ s.hotSpare c = none) → g.limit ≤ g.mismatch + 1 →
    Completes (exec (.saplingReexecuteComplete c n (.ended third) tensor) s) (fun t => t.ctx c = {} ∧
      t.grove.sapling = none ∧ t.out.msgs = .saplingVerdict c false :: s.out.msgs ∧ OtherCtxs c s t ∧
      OnlyChanges [.rings, .ctxs, .cxl, .grove, .mss, .hub, .out] s t))

/-- A due checkpoint starts or is postponed by the busy vote, is copied and frozen, drained by the writer of record, and
completed by the vote. A reduced flag of 0 starts the quick copy of the due version; 1 postpones it and leaves the snapshot.
The end of the copy freezes the snapshot with its digest; a module that is no writer of record contributes 1 for both
destinations, the writer starts its drains. A seedbank drain goes through its commands in turn, retries a failed one twice and
is abandoned at the third failure; its commit block makes the image valid. A holder reserves stripe rows while it has room,
refuses otherwise, and accepts a unit only at its place in the row. Three positions without a grant abandon the grove drain;
the last acknowledgement ends it. The completion vote marks the checkpoint per destination and ends the drain. Each clause
that says so has as its conclusion that exec answers a next state; it does for: checkpointBusyReduced, quickCopyComplete,
seedbankCommandComplete, stripeReservationReceive, stripeUnitReceive, stripeReservationReplyReceive, stripeAckReceive,
checkpointCompletionReduced, stripeRegionReleaseReceive, stripeRebuildOrder. -/
def Obligations.CheckpointsRun : Prop :=
  (∀ (c : CtxId) (n : Nat) (rest : List Nat) (s : State), (s.ctx c).ckptDue = n :: rest → (s.ctx c).quick = none →
    Completes (exec (.checkpointBusyReduced c false) s) (fun t =>
      (t.ctx c).quick.map (fun q => (q.step, q.slot, q.data)) = some (n, slotIx (s.ctx c) n, (AL.get {} (slotIx (s.ctx c) n) (s.ctx c).live).data) ∧
      (t.ctx c).ckptDue = rest ∧ (t.ctx c).postponed = false ∧ (t.ctx c).snapshot = none ∧ (t.ctx c).live = (s.ctx c).live ∧
      OtherCtxs c s t ∧ OnlyChanges [.ctxs] s t)) ∧
  (∀ (c : CtxId) (n : Nat) (rest : List Nat) (s : State), (s.ctx c).ckptDue = n :: rest →
    Completes (exec (.checkpointBusyReduced c true) s) (fun t => (t.ctx c).ckptDue = rest ∧ (t.ctx c).postponed = true ∧
      (t.ctx c).quick = (s.ctx c).quick ∧ (t.ctx c).snapshot = (s.ctx c).snapshot ∧ OtherCtxs c s t ∧
      OnlyChanges [.rings, .ctxs, .cxl, .mss, .hub] s t)) ∧
  (∀ (c : CtxId) (q : QuickCopy) (p : Program) (s : State), (s.ctx c).quick = some q → (s.ctx c).prog = some p →
    s.mem.upsets = [] → 
    Completes (exec (.quickCopyComplete c) s) (fun t =>
      (t.ctx c).snapshot = some ⟨q.step, q.data, shardDigest p s.ident q.step q.data, false⟩ ∧ (t.ctx c).quick = none ∧
      (writerOf p (s.ctx c).lostMods (shardOf p s.ident) = some s.ident → (t.ctx c).drain.isSome = true) ∧
      (writerOf p (s.ctx c).lostMods (shardOf p s.ident) ≠ some s.ident →
        t.out.msgs = .contribute c (.ckptDone q.step) 3 :: s.out.msgs ∧ (t.ctx c).drain = (s.ctx c).drain) ∧
      (t.ctx c).committed = (s.ctx c).committed ∧ t.mem.hbm = s.mem.hbm ∧ OtherCtxs c s t ∧
      OnlyChanges [.rings, .ctxs, .cxl, .mss, .hub, .mem, .out] s t)) ∧
  (∀ (c : CtxId) (d : Drain) (i : Nat) (p : Program) (f : Frozen) (s : State), (s.ctx c).drain = some d →
    (s.ctx c).prog = some p → (s.ctx c).snapshot = some f → d.sDone = none → d.sSlot = some i → d.sErrors < 2 →
    (d.sStage = 1 → s.mem.upsets = []) →
    Completes (exec (.seedbankCommandComplete c false) s) (fun t => (t.ctx c).drain = some { d with sErrors := d.sErrors + 1 } ∧
      OtherCtxs c s t ∧ OnlyChanges [.ctxs] s t)) ∧
  (∀ (c : CtxId) (d : Drain) (i : Nat) (p : Program) (f : Frozen) (s : State), (s.ctx c).drain = some d →
    (s.ctx c).prog = some p → (s.ctx c).snapshot = some f → d.sDone = none → d.sSlot = some i → 2 ≤ d.sErrors →
    (d.sStage = 1 → s.mem.upsets = []) →
    Completes (exec (.seedbankCommandComplete c false) s) (fun t => (t.ctx c).drain.map (·.sDone) = some (some false) ∧
      (t.ctx c).snapshot = some f ∧ t.ckpt = s.ckpt ∧ OtherCtxs c s t ∧ OnlyChanges [.rings, .ctxs, .cxl, .mss, .hub, .out] s t)) ∧
  (∀ (c : CtxId) (d : Drain) (i : Nat) (p : Program) (f : Frozen) (s : State), (s.ctx c).drain = some d →
    (s.ctx c).prog = some p → (s.ctx c).snapshot = some f → d.sDone = none → d.sSlot = some i → d.sStage < 3 →
    (d.sStage = 1 → s.mem.upsets = []) →
    Completes (exec (.seedbankCommandComplete c true) s) (fun t =>
      (t.ctx c).drain = some { d with sStage := d.sStage + 1, sErrors := 0 } ∧
      (d.sStage = 0 → AL.find? i t.ckpt.seed = none) ∧ (∀ j, j ≠ i → AL.find? j t.ckpt.seed = AL.find? j s.ckpt.seed) ∧
      t.mem.hbm = s.mem.hbm ∧ (d.sStage ≠ 1 → t.mem = s.mem) ∧ OtherCtxs c s t ∧ OnlyChanges [.ctxs, .ckpt, .mem] s t)) ∧
  (∀ (c : CtxId) (d : Drain) (i : Nat) (p : Program) (f : Frozen) (s : State), (s.ctx c).drain = some d →
    (s.ctx c).prog = some p → (s.ctx c).snapshot = some f → d.sDone = none → d.sSlot = some i → 3 ≤ d.sStage →
    s.mss.idKey = true →
    Completes (exec (.seedbankCommandComplete c true) s) (fun t => (t.ctx c).drain.map (·.sDone) = some (some true) ∧
      (AL.find? i t.ckpt.seed).map (fun e => (e.ctx, e.step, e.image, e.valid)) =
        some (c, f.step, shardImage p s.ident f.step f.data, true) ∧
      (∀ j, j ≠ i → AL.find? j t.ckpt.seed = AL.find? j s.ckpt.seed) ∧ OtherCtxs c s t ∧
      OnlyChanges [.hub, .rings, .ctxs, .cxl, .ckpt, .mss, .out] s t)) ∧
  (∀ (w : ModNo) (k : CtxId) (set rows : Nat) (s : State), s.hub.power ≠ .dormant → groveOf w.val = groveOf s.ident →
    s.rowsElse (seatOf w.val) k.val set + rows ≤ s.stripeUnits →
    Completes (exec (.stripeReservationReceive w k set rows) s) (fun t =>
      (AL.find? (seatOf w.val, k.val) t.ckpt.stripes).map (fun r => AL.find? set r.rows) = some (some rows) ∧
      (∀ e, e ≠ (seatOf w.val, k.val) → AL.find? e t.ckpt.stripes = AL.find? e s.ckpt.stripes) ∧
      t.out.msgs = .stripeAnswer w.val k.val true :: s.out.msgs ∧ t.ckpt.seed = s.ckpt.seed ∧ OnlyChanges [.ckpt, .out] s t)) ∧
  (∀ (w : ModNo) (k : CtxId) (set rows : Nat) (s : State), s.hub.power ≠ .dormant → groveOf w.val = groveOf s.ident →
    s.stripeUnits < s.rowsElse (seatOf w.val) k.val set + rows →
    Completes (exec (.stripeReservationReceive w k set rows) s) (fun t =>
      t.out.msgs = .stripeAnswer w.val k.val false :: s.out.msgs ∧ OnlyChanges [.out] s t)) ∧
  (∀ (src : ModNo) (k : CtxId) (set row unit : Nat) (bytes : List Byte) (r : StripeRegion) (s : State),
    groveOf src.val = groveOf s.ident → AL.find? (seatOf src.val, k.val) s.ckpt.stripes = some r → row < AL.get 0 set r.rows →
    unit < 32 → unitSeat (seatOf src.val) row unit = seatOf s.ident →
    Completes (exec (.stripeUnitReceive src k set (seatOf src.val) row unit bytes true) s) (fun t =>
      (AL.find? (seatOf src.val, k.val) t.ckpt.stripes).map (fun x => AL.find? (set, row, unit) x.sets) = some (some (bytes, true)) ∧
      t.out.msgs = .stripeAck src.val k.val row unit (crc64 bytes) :: s.out.msgs ∧ t.ckpt.seed = s.ckpt.seed ∧
      t.mem.hbm = s.mem.hbm ∧ OnlyChanges [.ckpt, .mem, .out] s t)) ∧
  (∀ (src : ModNo) (k : CtxId) (set seat row unit : Nat) (bytes : List Byte) (ok : Bool) (s : State),
    unitSeat seat row unit ≠ seatOf s.ident ∨ seatOf src.val ≠ seat →
    exec (.stripeUnitReceive src k set seat row unit bytes ok) s = .next s) ∧
  (∀ (c : CtxId) (answers : List (Nat × Bool)) (d : Drain) (p : Program) (f : Frozen) (s : State), (s.ctx c).drain = some d →
    (s.ctx c).prog = some p → (s.ctx c).snapshot = some f → d.gDone = none → d.gWait = [] → s.mem.upsets = [] → 
    2 < ((List.range 32).filter (fun q => !answers.any (fun a => a.1 == q && a.2))).length →
    Completes (exec (.stripeReservationReplyReceive c answers) s) (fun t => (t.ctx c).drain.map (·.gDone) = some (some false) ∧
      (t.ctx c).snapshot = some f ∧ t.mem.hbm = s.mem.hbm ∧ OtherCtxs c s t ∧
      OnlyChanges [.rings, .ctxs, .cxl, .mss, .hub, .mem, .out] s t)) ∧
  (∀ (c : CtxId) (answers : List (Nat × Bool)) (d : Drain) (p : Program) (f : Frozen) (s : State), (s.ctx c).drain = some d →
    (s.ctx c).prog = some p → (s.ctx c).snapshot = some f → d.gDone = none → d.gWait = [] → s.mem.upsets = [] → 0 < d.gRows →
    (List.range 32).filter (fun q => !answers.any (fun a => a.1 == q && a.2)) = [] →
    Completes (exec (.stripeReservationReplyReceive c answers) s) (fun t =>
      (t.ctx c).drain.map (fun e => (e.gBad, e.gWait.length, e.gDone)) = some ([], 32 * d.gRows, none) ∧
      t.out.msgs.length = s.out.msgs.length + 32 * d.gRows ∧ t.mem.hbm = s.mem.hbm ∧ OtherCtxs c s t ∧
      OnlyChanges [.ctxs, .mem, .out] s t)) ∧
  (∀ (c : CtxId) (pos row unit : Nat) (d : Drain) (p : Program) (f : Frozen) (s : State), (s.ctx c).drain = some d →
    (s.ctx c).prog = some p → (s.ctx c).snapshot = some f → d.gDone = none → d.gWait = [(row, unit)] → d.gBad.length ≤ 2 →
    unitSeat (seatOf s.ident) row unit = pos → s.mss.idKey = true →
    Completes (exec (.stripeAckReceive c pos row unit true) s) (fun t =>
      (t.ctx c).drain.map (fun e => (e.gDone, e.gWait)) = some (some true, []) ∧ OtherCtxs c s t ∧
      OnlyChanges [.hub, .rings, .ctxs, .cxl, .mss, .out] s t)) ∧
  (∀ (c : CtxId) (step : Nat) (b g : Bool) (s : State), step ≤ (s.ctx c).committed → (s.ctx c).quick = none →
    Completes (exec (.checkpointCompletionReduced c step b g) s) (fun t =>
      (t.ctx c).newestS = (if b then some step else (s.ctx c).newestS) ∧
      (t.ctx c).newestG = (if g then some step else (s.ctx c).newestG) ∧ (t.ctx c).drain = none ∧
      (∀ e ∈ (t.ctx c).ckptNamed, step < e.1) ∧ (t.ctx c).committed = (s.ctx c).committed ∧ OtherCtxs c s t ∧
      OnlyChanges [.rings, .ctxs, .cxl, .mss, .hub] s t)) ∧
  (∀ (w : ModNo) (k : CtxId) (s : State), groveOf w.val = groveOf s.ident →
    Completes (exec (.stripeRegionReleaseReceive w k) s) (fun t =>
      AL.find? (seatOf w.val, k.val) t.ckpt.stripes = none ∧
      (∀ e, e ≠ (seatOf w.val, k.val) → AL.find? e t.ckpt.stripes = AL.find? e s.ckpt.stripes) ∧
      t.ckpt.seed = s.ckpt.seed ∧ OnlyChanges [.ckpt] s t)) ∧
  (∀ (issuer : ModNo) (s : State), groveOf issuer.val = groveOf s.ident →
    Completes (exec (.stripeRebuildOrder issuer []) s) (fun t => t.ckpt.stripes = [] ∧ t.ckpt.seed = s.ckpt.seed ∧
      OnlyChanges [.ckpt] s t)) ∧
  (∀ (issuer : ModNo) (e : RebuildUnit) (b : List Nat) (s : State), groveOf issuer.val = groveOf s.ident →
    rebuildUnit (e.avail.map (fun u => (u.1, u.2.map BitVec.toNat))) e.unit = some b → e.row < s.stripeUnits →
    Completes (exec (.stripeRebuildOrder issuer [e]) s) (fun t =>
      (AL.find? (e.seat, e.wctx) t.ckpt.stripes).map (fun r => AL.find? (e.set, e.row, e.unit) r.sets) =
        some (some (b.map (BitVec.ofNat 8), true)) ∧ t.ckpt.seed = s.ckpt.seed ∧ OnlyChanges [.ckpt] s t))

/-- Any two units of a stripe row can be lost. For 30 data units of one length, the row of their 32 units with any two of them
missing, data or parity, gives the 30 data units back; and each unit of the row is rebuilt as it was. -/
def Obligations.StripesRecoverTwo : Prop :=
  ∀ (n a b : Nat) (ds : List UnitBytes), ds.length = 30 → (∀ u ∈ ds, u.length = n ∧ ∀ x ∈ u, x < 256) → a < 32 → b < 32 →
    let row := rowUnits ds 0
    let avail := ((List.range 32).filter (fun j => j != a && j != b)).map (fun j => (j, row.getD j []))
    recoverData avail = some ds ∧ (∀ j, j < 32 → rebuildUnit avail j = some (row.getD j []))

/-- A restore reads the checked version into a free slot, and commits it by vote or leaves the context stopped. A RESTORE that
may take effect, of an image this module holds or reads from stripes or the host, notes the first failing check; with none it
stands in the lowest free slot, and otherwise the slots are as before and a vote of 1 goes out. An image another module serves
is asked for block by block. A block of an awaited image is kept. The buddy's copy fills the mirror slot and the vote goes
out; a copy whose leaves fail votes 1. A reduced 0 makes the restored version the committed one, with a new epoch, nothing
kept and no restore needed; any other vote stops the step ring and leaves the committed version. Each clause that says so has
as its conclusion that exec answers a next state; it does for: restore, seedbankRestoreBlockReceive, restoreMirrorCopyReceive,
restoreVoteReduced. -/
def Obligations.RestoresComplete : Prop :=
  (∀ (c : CtxId) (q : QDesc) (p : Program) (i : Fin 3) (r0 : RestoreInput) (s : State), s.headOf c .step .restore = some q →
    (s.ctx c).prog = some p → (s.ctx c).restoreSlot = some i → (s.ctx c).mayRestore = true →
    (dSource q.bytes ≠ 0 ∨ dSourceId q.bytes = s.ident ∨ r0.sourceOk = false) →
    Completes (exec (.restore c (.data r0)) s) (fun t =>
      let r := if dSource q.bytes = 0 ∧ dSourceId q.bytes = s.ident then s.ownSeed p (dStep q.bytes) r0 else r0
      let cause := s.restoreCause p (dStep q.bytes) (dSource q.bytes) r
      (t.ctx c).restoring = some ⟨dStep q.bytes, i, cause, false, cause.isSome || (buddyOf p s.ident).isNone⟩ ∧
      (cause = none → (AL.get {} i (t.ctx c).live).data = r.image.data ∧ (AL.get {} i (t.ctx c).live).version = dStep q.bytes) ∧
      (cause ≠ none → (t.ctx c).live = (s.ctx c).live ∧ t.out.msgs.head? = some (.contribute c .restoreVote 1)) ∧
      (t.ctx c).committed = (s.ctx c).committed ∧ (t.ring (setOf c)).step.consumer = (s.ring (setOf c)).step.consumer + 1 ∧
      OtherCtxs c s t ∧ OtherRings (setOf c) s t ∧ OnlyChanges [.hub, .rings, .ctxs, .cxl, .ckpt, .mss, .out] s t)) ∧
  (∀ (c : CtxId) (q : QDesc) (p : Program) (i : Fin 3) (r : RestoreInput) (s : State), s.headOf c .step .restore = some q →
    (s.ctx c).prog = some p → (s.ctx c).restoreSlot = some i → (s.ctx c).mayRestore = true → dSource q.bytes = 0 →
    dSourceId q.bytes ≠ s.ident → r.sourceOk = true → s.seedBlocks c = [] → 0 < imageBlocks p r.image.data →
    Completes (exec (.restore c (.data r)) s) (fun t =>
      t.out.msgs = ((List.range (imageBlocks p r.image.data)).map (fun j => Msg.seedBlockRequest c (dSourceId q.bytes) j)).reverse ++
        s.out.msgs ∧ OnlyChanges [.out] s t)) ∧
  (∀ (c : CtxId) (input : Fetch RestoreInput) (s : State), (s.ctx c).mayRestore = false →
    exec (.restore c input) s = .next s) ∧
  (∀ (c : CtxId) (src : ModNo) (ix : Nat) (bytes : List Byte) (q : QDesc) (s : State), s.headOf c .step .restore = some q →
    dSource q.bytes = 0 → dSourceId q.bytes = src.val →
    Completes (exec (.seedbankRestoreBlockReceive c src ix bytes) s) (fun t =>
      AL.find? ix (t.seedBlocks c) = some bytes ∧ t.ckpt.seed = s.ckpt.seed ∧ t.ckpt.stripes = s.ckpt.stripes ∧
      OnlyChanges [.ckpt] s t)) ∧
  (∀ (c : CtxId) (d : SlotData) (ok : Bool) (r : Restoring) (s : State), (s.ctx c).restoring = some r → r.voted = false →
    r.mirrorIn = false →
    Completes (exec (.restoreMirrorCopyReceive c d ok) s) (fun t => (AL.get {} r.slot (t.ctx c).mirror).data = d ∧
      (AL.get {} r.slot (t.ctx c).mirror).version = r.step ∧
      t.out.msgs = .contribute c .restoreVote (if ok && r.cause.isNone then 0 else 1) :: s.out.msgs ∧
      (t.ctx c).live = (s.ctx c).live ∧ (t.ctx c).committed = (s.ctx c).committed ∧ t.mem.hbm = s.mem.hbm ∧ OtherCtxs c s t ∧
      OnlyChanges [.ctxs, .mem, .out] s t)) ∧
  (∀ (c : CtxId) (r : Restoring) (f : Flow) (s : State), (s.ctx c).restoring = some r → s.flowOf c .step .restore = some f →
    r.voted = true →
    Completes (exec (.restoreVoteReduced c 0) s) (fun t => (t.ctx c).committed = r.step ∧
      ((t.ctx c).liveSlot r.step).state = .committed ∧ ((t.ctx c).liveSlot r.step).data = (AL.get {} r.slot (s.ctx c).live).data ∧
      ((t.ctx c).mirSlot r.step).state = .committed ∧ (t.ctx c).epoch = (s.ctx c).epoch + 1 ∧ (t.ctx c).keep = [] ∧
      (t.ctx c).restoring = none ∧ (t.ctx c).needRestore = false ∧ OtherCtxs c s t ∧ OnlyChanges [.rings, .ctxs, .cxl] s t)) ∧
  (∀ (c : CtxId) (r : Restoring) (f : Flow) (mask : Word) (s : State), (s.ctx c).restoring = some r →
    s.flowOf c .step .restore = some f → r.voted = true → mask ≠ 0 →
    Completes (exec (.restoreVoteReduced c mask) s) (fun t =>
      (t.ring (setOf c)).step.stop = some (r.cause.getD .restorePeerFailed) ∧ (t.ring (setOf c)).step.consumer = f.index ∧
      (t.ctx c).restoring = none ∧ (AL.get {} r.slot (t.ctx c).live).data = {} ∧
      (AL.get {} r.slot (t.ctx c).mirror).data = {} ∧ (t.ctx c).committed = (s.ctx c).committed ∧ (t.ctx c).needRestore = (s.ctx c).needRestore ∧
      OtherCtxs c s t ∧ OnlyChanges [.rings, .ctxs, .cxl] s t))

/-- After a restore of step N the committed version is N and only step N + 1 is executed next. The vote that commits a restore
of step N sets the committed version to N. With the committed version N and no provisional step, the STEP that may take effect
is executed exactly if its number is N + 1: it is then the one provisional step, and a STEP of any other number starts
nothing. Each clause that says so has as its conclusion that exec answers a next state; it does for: restoreVoteReduced, step.
-/
def Obligations.RestoredVersion : Prop :=
  (∀ (c : CtxId) (r : Restoring) (f : Flow) (s : State), (s.ctx c).restoring = some r → s.flowOf c .step .restore = some f →
    r.voted = true → Completes (exec (.restoreVoteReduced c 0) s) (fun t => (t.ctx c).committed = r.step)) ∧
  (∀ (c : CtxId) (q : QDesc) (b : List (List Byte)) (n : Nat) (s : State), (s.ctx c).committed = n → (s.ctx c).steps = [] →
    s.headOf c .step .step = some q → s.admits c = true →
    Completes (exec (.step c (.data b)) s) (fun t =>
      (t.ctx c).steps.map (·.number) = if dStep q.bytes = n + 1 then [n + 1] else []))

/-- A flit in order is taken and acknowledged, a bad one answered with NAK; ports go down, train, compare beacons and move
traffic back. A flit with a good CRC and the expected number advances it by 1 modulo 4,096, drops what it acknowledges from
the replay buffer and returns its credits; a data flit on an ACTIVE port owes its lane one credit more; a bad one is discarded
and the first sends a NAK. An idle flit carries the port's own numbers, a beacon flit the beacon. A cause past its limit takes
a working port DOWN for the hold-off; one within it changes nothing. Loss of light takes a working port down and gives it the
lowest spare channel, the old one marked failed; with none left the port is fenced. The third stage timeout fences the port,
an earlier one tries again. A beacon that agrees with the plan makes the port ACTIVE, one of another plan puts it in
QUARANTINE. The last lane's marker ends the detour. Where packets wait at a port, more may leave by other ports than these
clauses, which assume none, say. Each clause that says so has as its conclusion that exec answers a next state; it does for:
flitReceive, idleFlitTimer, linkPortDown, laserLossOfLight, portHoldOffExpire, portTrainingStageComplete, bringUpStageTimeout,
beaconTimer, beaconReceive, markerReceive, berReport. -/
def Obligations.PortsComeAndGo : Prop :=
  (∀ (p : PortId) (f : Flit) (s : State), 2 ≤ (s.port p).state → (s.port p).state < 5 → crc32 (flitBytes f) = f.crc →
    f.nak = false → f.seq = (s.port p).rxNext → f.vl ≠ 7 → (s.port p).sinceIdle < 63 → s.quiet = true →
    Completes (exec (.flitReceive p f false) s) (fun t => (t.port p).rxNext = ((s.port p).rxNext + 1) % 4096 ∧
      (t.port p).replay = (s.port p).replay.drop (ackedCount f.ackSeq (s.port p).replay) ∧ (t.port p).nakked = false ∧
      creditsOf (t.port p) f.crVl = min 2047 (creditsOf (s.port p) f.crVl + f.crCount) ∧
      (f.kind = 1 → (s.port p).state = 4 → AL.get 0 f.vl (t.port p).owed = AL.get 0 f.vl (s.port p).owed + 1) ∧
      (t.port p).state = (s.port p).state ∧ OtherPorts p s t ∧ OnlyChanges [.link] s t)) ∧
  (∀ (p : PortId) (f : Flit) (bad : Bool) (s : State), 2 ≤ (s.port p).state → (s.port p).state < 5 →
    (bad = true ∨ crc32 (flitBytes f) ≠ f.crc) → (s.port p).nakked = false →
    Completes (exec (.flitReceive p f bad) s) (fun t => (∃ g, t.out.flits = (p, g) :: s.out.flits ∧ g.nak = true ∧
        g.seq = (s.port p).txSeq) ∧ (t.port p).nakked = true ∧ (t.port p).rxNext = (s.port p).rxNext ∧ OtherPorts p s t ∧
      OnlyChanges [.link, .out] s t)) ∧
  (∀ (p : PortId) (s : State), 2 ≤ (s.port p).state → (s.port p).state ≤ 4 →
    Completes (exec (.idleFlitTimer p) s) (fun t => (∃ g, t.out.flits = (p, g) :: s.out.flits ∧ g.kind = 0 ∧
        g.seq = (s.port p).txSeq ∧ g.ackSeq = ((s.port p).rxNext + 4095) % 4096) ∧
      (t.port p).txSeq = ((s.port p).txSeq + 1) % 4096 ∧ (t.port p).state = (s.port p).state ∧ OtherPorts p s t ∧
      OnlyChanges [.link, .out] s t)) ∧
  (∀ (p : PortId) (cause : DownCause) (s : State), downNow cause = true → 2 ≤ (s.port p).state → (s.port p).state ≤ 4 →
    s.quiet = true →
    Completes (exec (.linkPortDown p cause) s) (fun t => (t.port p).state = 0 ∧ (t.port p).holdOff = true ∧
      (t.port p).detour = true ∧ (t.port p).replay = (s.port p).replay ∧ OtherPorts p s t ∧
      OnlyChanges [.rings, .cxl, .link, .mss, .hub, .out] s t)) ∧
  (∀ (p : PortId) (cause : DownCause) (s : State), downNow cause = false → exec (.linkPortDown p cause) s = .next s) ∧
  (∀ (ld : Fin 2) (ch : Fin 24) (p : PortId) (k : Nat) (s : State), linkDieOf p = ld.val → s.laserSt ld.val ch.val = .feeds p →
    s.laserOf p = ch.val → (List.range 24).find? (fun j => decide (s.laserSt ld.val j = .spare)) = some k →
    2 ≤ (s.port p).state → (s.port p).state ≤ 4 → (s.port p).holdOff = false → s.dark p = false → s.quiet = true →
    Completes (exec (.laserLossOfLight ld ch) s) (fun t => t.laserOf p = k ∧ t.laserSt ld.val k = .feeds p ∧
      t.laserSt ld.val ch.val = .failed ∧ (t.port p).state = 0 ∧ (t.port p).holdOff = true ∧ OtherPorts p s t ∧
      OnlyChanges [.rings, .cxl, .link, .mss, .hub, .out] s t)) ∧
  (∀ (ld : Fin 2) (ch : Fin 24) (p : PortId) (s : State), linkDieOf p = ld.val → s.laserSt ld.val ch.val = .feeds p →
    s.laserOf p = ch.val → (List.range 24).find? (fun j => decide (s.laserSt ld.val j = .spare)) = none →
    (s.port p).state ≠ 5 → s.dark p = false → s.quiet = true →
    Completes (exec (.laserLossOfLight ld ch) s) (fun t => (t.port p).state = 5 ∧ (t.port p).lit = false ∧
      t.laserSt ld.val ch.val = .failed ∧ OtherPorts p s t ∧ OnlyChanges [.rings, .cxl, .link, .mss, .hub, .out] s t)) ∧
  (∀ (p : PortId) (s : State), (s.port p).holdOff = true →
    Completes (exec (.portHoldOffExpire p) s) (fun t => t.inReset (.port p) = true ∧ (t.port p).holdOff = false ∧
      OtherPorts p s t ∧ OnlyChanges [.hub, .link] s t)) ∧
  (∀ (p : PortId) (stage : BringUpStage) (s : State), (s.port p).state = 1 → (s.port p).stage = stageBefore stage →
    Completes (exec (.portTrainingStageComplete p stage) s) (fun t => (t.port p).stage = some stage ∧
      (t.port p).state = (if stage = .fec then 2 else 1) ∧ (t.port p).lit = true ∧ (stage = .fec → t.out.beacons.length = s.out.beacons.length + 1) ∧
      OtherPorts p s t ∧ OnlyChanges [.link, .out] s t)) ∧
  (∀ (p : PortId) (s : State), (s.port p).state = 1 ∨ (s.port p).state = 2 → (s.port p).attempts < 2 →
    Completes (exec (.bringUpStageTimeout p) s) (fun t => (t.port p).attempts = (s.port p).attempts + 1 ∧ (t.port p).state = 1 ∧
      (t.port p).stage = none ∧ OtherPorts p s t ∧ OnlyChanges [.link] s t)) ∧
  (∀ (p : PortId) (s : State), (s.port p).state = 1 ∨ (s.port p).state = 2 → 2 ≤ (s.port p).attempts → s.quiet = true →
    Completes (exec (.bringUpStageTimeout p) s) (fun t => (t.port p).attempts = 3 ∧ (t.port p).state = 5 ∧ (t.port p).lit = false ∧
      OtherPorts p s t ∧ OnlyChanges [.rings, .cxl, .link, .mss, .hub, .out] s t)) ∧
  (∀ (p : PortId) (s : State), 2 ≤ (s.port p).state → (s.port p).state ≤ 4 →
    Completes (exec (.beaconTimer p) s) (fun t => t.out.beacons = (p, s.ownBeacon p) :: s.out.beacons ∧
      (∃ g, t.out.flits = (p, g) :: s.out.flits ∧ g.kind = 2 ∧ g.vl = 6 ∧ g.body = beaconBytes (s.ownBeacon p)) ∧
      (t.port p).state = (s.port p).state ∧ OtherPorts p s t ∧ OnlyChanges [.link, .out] s t)) ∧
  (∀ (p : PortId) (b : Beacon) (s : State), (s.port p).state = 2 ∨ (s.port p).state = 3 →
    b.planId = s.reg aPlanIdLo + 2 ^ 32 * s.reg aPlanIdHi → bitsOf (s.reg aLinkPol) 15 8 ≤ b.level → b.phys = s.planPhys p →
    b.port = s.planPort p → s.replacedBy p = none →
    Completes (exec (.beaconReceive p b) s) (fun t => (t.port p).state = 4 ∧ (t.port p).peer = b.phys ∧ (t.port p).attempts = 0 ∧
      (t.port p).rxNext = 0 ∧ AL.find? b.ident t.link.gens = some b.gen ∧ t.link.announced = true ∧
      t.regs = s.regs ∧ t.mem = s.mem ∧ t.ctxs = s.ctxs ∧ t.grove = s.grove ∧ t.gov = s.gov)) ∧
  (∀ (p : PortId) (b : Beacon) (s : State), (s.port p).state = 2 → b.planId ≠ s.reg aPlanIdLo + 2 ^ 32 * s.reg aPlanIdHi →
    s.crossedWith p b = none →
    Completes (exec (.beaconReceive p b) s) (fun t => (t.port p).state = 3 ∧ (t.port p).beacon = some b ∧
      AL.find? b.ident t.link.gens = some b.gen ∧ OtherPorts p s t ∧ OnlyChanges [.rings, .cxl, .link, .mss, .hub] s t)) ∧
  (∀ (p : PortId) (lane : Nat) (s : State), (s.port p).state = 4 → (s.port p).detour = true → lane < 7 →
    (List.range 7).all (fun l => l == lane || (s.port p).markers.contains l) = true → s.quiet = true →
    Completes (exec (.markerReceive p lane) s) (fun t => (t.port p).detour = false ∧ (t.port p).detourBy = none ∧
      (t.port p).markers = [] ∧ OtherPorts p s t ∧ OnlyChanges [.link] s t)) ∧
  (∀ (p : PortId) (ber : Nat) (s : State), s.mssRuns = false →
    exec (.berReport p ber) s = .next (s.updPort p (fun x => { x with ber := ber }))) ∧
  (∀ (p : PortId) (ber : Nat) (s : State), s.mssRuns = true → Completes (exec (.berReport p ber) s) (fun t => (t.port p).ber = ber ∧
      (AL.find? (.port p, .portBer) t.mss.wear).map (·.last) = some ber ∧ OtherPorts p s t ∧ OnlyChanges [.link, .mss] s t))

/-- A packet is delivered, passed on or dropped by the rows of the receive table; a steward combines each sender once. A
packet of five hops is dropped and counted, one whose generation is not the table's, or for a context with another epoch, is
dropped silently and counted. A packet of the grove for this module, on its type's lane, is delivered; one of no clearing from
elsewhere, one of a clearing this module does not hold, and transit outside VL5 are dropped, counted by reason. A packet for
another module of a held clearing leaves through its egress port with one hop more and its credits taken. A drop notice fails
the Link CRC class of the step at work. A generation notice replaces one entry of the table. A new window serves what waits,
within the cap. A steward that has every sender combines and returns the result; a sender counted already changes nothing.
Each clause that says so has as its conclusion that exec answers a next state; it does for: packetReceive, dropNoticeReceive,
generationNoticeReceive, transitCapWindow, controlTreeContribution. -/
def Obligations.PacketsAndTheTree : Prop :=
  (∀ (p : PortId) (lane : Nat) (h : PacketHdr) (s : State), (s.port p).state = 4 → 5 ≤ h.hops →
    Completes (exec (.packetReceive p lane h) s) (fun t =>
      AL.get 0 Status.fabHopLimit (t.port p).drops = AL.get 0 Status.fabHopLimit (s.port p).drops + 1 ∧
      t.link.gens = s.link.gens ∧ OtherPorts p s t ∧ OnlyChanges [.link] s t)) ∧
  (∀ (p : PortId) (lane : Nat) (h : PacketHdr) (g : BitVec 8) (s : State), (s.port p).state = 4 → h.hops < 5 →
    AL.find? h.src s.link.gens = some g → g ≠ h.srcGen →
    Completes (exec (.packetReceive p lane h) s) (fun t => 
      AL.get 0 SilentDrop.generation (t.port p).silent = AL.get 0 SilentDrop.generation (s.port p).silent + 1 ∧
      t.link.fates = (h, .drop) :: s.link.fates ∧ t.link.gens = s.link.gens ∧ OtherPorts p s t ∧ OnlyChanges [.link] s t)) ∧
  (∀ (p : PortId) (lane : Nat) (h : PacketHdr) (s : State), (s.port p).state = 4 → h.hops < 5 →
    (AL.find? h.src s.link.gens = none ∨ AL.find? h.src s.link.gens = some h.srcGen) → h.dest = s.ident → h.clearing = 0 →
    groveOf h.src = groveOf s.ident → lane = 3 ∨ lane = 4 ∨ lane = 6 → typeLane h.type = some lane → h.reply = false →
    Completes (exec (.packetReceive p lane h) s) (fun t => t.link.fates = (h, .deliver none h.type) :: s.link.fates ∧
      AL.find? h.src t.link.gens = some h.srcGen ∧ t.link.ports = s.link.ports ∧ OnlyChanges [.hub, .link] s t)) ∧
  (∀ (p : PortId) (lane k : Nat) (h : PacketHdr) (s : State), (s.port p).state = 4 → h.hops < 5 → AL.find? h.src s.link.gens = none →
    h.dest = s.ident → h.clearing ≠ 0 → s.tableOfClearing h.clearing = some k → s.routeValid k h.src = true →
    (s.ctx (Fin.ofNat 16 (s.tableCtx k))).epoch ≠ h.epoch →
    Completes (exec (.packetReceive p lane h) s) (fun t => t.link.fates = (h, .drop) :: s.link.fates ∧
      AL.get 0 SilentDrop.epoch (t.port p).silent = AL.get 0 SilentDrop.epoch (s.port p).silent + 1 ∧
      (t.ctx (Fin.ofNat 16 (s.tableCtx k))).epochDrops = (s.ctx (Fin.ofNat 16 (s.tableCtx k))).epochDrops + 1 ∧
      OtherPorts p s t ∧ OtherCtxs (Fin.ofNat 16 (s.tableCtx k)) s t ∧ OnlyChanges [.ctxs, .link] s t)) ∧
  (∀ (p : PortId) (lane : Nat) (h : PacketHdr) (s : State), (s.port p).state = 4 → h.hops < 5 → AL.find? h.src s.link.gens = none →
    h.dest = s.ident → h.clearing = 0 → groveOf h.src ≠ groveOf s.ident →
    Completes (exec (.packetReceive p lane h) s) (fun t => t.link.fates = (h, .drop) :: s.link.fates ∧
      AL.get 0 Status.fabGroveDenied (t.port p).drops = AL.get 0 Status.fabGroveDenied (s.port p).drops + 1 ∧
      OtherPorts p s t ∧ OnlyChanges [.link, .out] s t)) ∧
  (∀ (p : PortId) (lane : Nat) (h : PacketHdr) (s : State), (s.port p).state = 4 → h.hops < 5 → AL.find? h.src s.link.gens = none →
    h.dest = s.ident → h.clearing ≠ 0 → s.tableOfClearing h.clearing = none →
    Completes (exec (.packetReceive p lane h) s) (fun t => t.link.fates = (h, .drop) :: s.link.fates ∧
      AL.get 0 Status.fabClearingDenied (t.port p).drops = AL.get 0 Status.fabClearingDenied (s.port p).drops + 1 ∧
      OtherPorts p s t ∧ OnlyChanges [.link, .out] s t)) ∧
  (∀ (p : PortId) (lane k q : Nat) (h : PacketHdr) (s : State), (s.port p).state = 4 → h.hops < 5 →
    AL.find? h.src s.link.gens = none → h.dest ≠ s.ident → h.clearing ≠ 0 → s.tableOfClearing h.clearing = some k →
    s.egress k h.dest lane = some q → q < 40 → s.outLane lane h = lane → s.hasRoom q lane h = true → lane ≠ 5 → s.quiet = true →
    Completes (exec (.packetReceive p lane h) s) (fun t => t.out.packets = (q, { h with hops := h.hops + 1 }) :: s.out.packets ∧
      creditsOf (t.port (Fin.ofNat 40 q)) lane = creditsOf (s.port (Fin.ofNat 40 q)) lane - packetFlits h.length ∧
      t.link.fates = (h, .forward q false) :: s.link.fates ∧ OtherPorts (Fin.ofNat 40 q) s t ∧ OnlyChanges [.link, .out] s t)) ∧
  (∀ (p : PortId) (lane : Nat) (h : PacketHdr) (s : State), (s.port p).state = 4 → h.hops < 5 → AL.find? h.src s.link.gens = none →
    h.dest ≠ s.ident → h.clearing ≠ 0 → s.tableOfClearing h.clearing = none → lane ≠ 5 →
    Completes (exec (.packetReceive p lane h) s) (fun t => t.link.fates = (h, .drop) :: s.link.fates ∧
      AL.get 0 Status.transitDenied (t.port p).drops = AL.get 0 Status.transitDenied (s.port p).drops + 1 ∧
      t.out.packets = s.out.packets ∧ OtherPorts p s t ∧ OnlyChanges [.link, .out] s t)) ∧
  (∀ (p : PortId) (lane : Nat) (h : PacketHdr) (s : State), (s.port p).state ≠ 4 → lane ≠ 6 →
    exec (.packetReceive p lane h) s = .next s) ∧
  (∀ (c : CtxId) (src : ModNo) (reason : Nat) (u : Step) (s : State), (s.ctx c).steps = [u] → u.voted = none →
    (s.ctx c).working = some u →
    Completes (exec (.dropNoticeReceive c src reason) s) (fun t =>
      (t.ctx c).steps.map (fun x => (x.number, x.failed &&& 8)) = [(u.number, 8)] ∧ (t.ctx c).committed = (s.ctx c).committed ∧
      OtherCtxs c s t ∧ OnlyChanges [.rings, .ctxs, .cxl, .mss, .hub, .out] s t)) ∧
  (∀ (c : CtxId) (src : ModNo) (reason : Nat) (s : State), (s.ctx c).steps = [] →
    Completes (exec (.dropNoticeReceive c src reason) s) (fun t => OnlyChanges [.rings, .cxl, .mss, .hub] s t)) ∧
  (∀ (src : ModNo) (g : BitVec 8) (s : State), Completes (exec (.generationNoticeReceive src g) s) (fun t =>
      AL.find? src.val t.link.gens = some g ∧ (∀ m, m ≠ src.val → AL.find? m t.link.gens = AL.find? m s.link.gens) ∧
      t.link.ports = s.link.ports ∧ OnlyChanges [.link] s t)) ∧
  (∀ (p : PortId) (s : State), Completes (exec (.transitCapWindow p) s) (fun t =>
      (t.port p).vl5Sent ≤ 1000 * bitsOf (s.reg aLinkPol) 22 16 ∧
      (∃ k, (t.port p).vl5Wait = (s.port p).vl5Wait.drop k) ∧ OtherPorts p s t ∧ OnlyChanges [.link, .out] s t)) ∧
  (∀ (c : CtxId) (k : ControlKind) (src : ModNo) (st : Bool) (mask : Word) (s : State), s.isSteward c = false →
    exec (.controlTreeContribution c k src st mask) s = .next s) ∧
  (∀ (c : CtxId) (k : ControlKind) (src : ModNo) (mask old : Word) (who : List Nat) (s : State), s.isSteward c = true →
    AL.get ([], if combinesByAnd k then 0xFFFFFFFF else 0) k (s.ctx c).control = (who, old) → who.contains src.val = false → (s.awaited c).2 = [] →
    (s.awaited c).1.all (fun m => (who ++ [src.val]).contains m) = true →
    Completes (exec (.controlTreeContribution c k src false mask) s) (fun t =>
      t.out.msgs = .distribute c k (if combinesByAnd k then old &&& mask else old ||| mask) :: s.out.msgs ∧
      AL.find? k (t.ctx c).control = none ∧ OtherCtxs c s t ∧ OnlyChanges [.ctxs, .out] s t)) ∧
  (∀ (c : CtxId) (k : ControlKind) (src : ModNo) (mask old : Word) (who : List Nat) (s : State), s.isSteward c = true →
    AL.get ([], if combinesByAnd k then 0xFFFFFFFF else 0) k (s.ctx c).control = (who, old) → who.contains src.val = false →
    (s.awaited c).1.all (fun m => (who ++ [src.val]).contains m) = false →
    Completes (exec (.controlTreeContribution c k src false mask) s) (fun t =>
      AL.find? k (t.ctx c).control = some (who ++ [src.val], if combinesByAnd k then old &&& mask else old ||| mask) ∧
      OtherCtxs c s t ∧ OnlyChanges [.ctxs] s t)) ∧
  (∀ (c : CtxId) (k : ControlKind) (src : ModNo) (mask old : Word) (who : List Nat) (s : State), s.isSteward c = true →
    AL.get ([], if combinesByAnd k then 0xFFFFFFFF else 0) k (s.ctx c).control = (who, old) →
    who.contains (4096 + groveOf src.val) = false →
    (s.awaited c).1.all (fun m => (who ++ [4096 + groveOf src.val]).contains m) = false →
    Completes (exec (.controlTreeContribution c k src true mask) s) (fun t =>
      AL.find? k (t.ctx c).control = some (who ++ [4096 + groveOf src.val], if combinesByAnd k then old &&& mask else old ||| mask) ∧
      OtherCtxs c s t ∧ OnlyChanges [.ctxs] s t)) ∧
  (∀ (c : CtxId) (k : ControlKind) (src : ModNo) (mask old : Word) (who : List Nat) (s : State),
    AL.find? k (s.ctx c).control = some (who, old) → who.contains src.val = true →
    exec (.controlTreeContribution c k src false mask) s = .next s)

/-- Each ceiling moves by one step on its own condition; the brake caps every die; a trip fences the module; a guest request
outside its window is a violation. A sample is the sensor's latest value and moves no ceiling. Power above LIMIT_W lowers
every power ceiling a step; the hundredth evaluation in a row below 0.95 of it raises every one; in between none moves; a
pending commit of the power bank applies first. A junction at 100 °C and a stack at 90 °C lower their die's ceiling alone; a
millisecond with every stack below 88 °C raises it. The brake value of a die is the highest step whose prediction is at most
BRAKE_W. With the brake asserted no die's ceiling lies above its brake value, and its release lifts that. A junction at 105 °C
or a stack at 95 °C fences the module and resets it with HBM kept (its generation waits where it advanced within the last 1
ms); it leaves reset only once all have cooled, with its clock and supply present. A guest write in a window changes only the
bytes behind it; a guest request outside every window, or to a page not translated for it, changes no memory and resets the
guest domain; the third failed reset fences it. Each clause that says so has as its conclusion that exec answers a next state;
it does for: sensorSample, powerLoopEvaluation, bankSafePointApply, junctionThrottle, stackThrottle, brakeValueCompute,
pwrBrakeAssert, pwrBrakeRelease, thermalTrip, thermalTripRelease, guestRequest, guestTimeout. -/
def Obligations.GovernorAndGuest : Prop :=
  (∀ (x : Sensor) (v : Int) (s : State), s.mssRuns = true → Completes (exec (.sensorSample x v) s) (fun t =>
      AL.find? x t.mss.sensors = some (s.sampled x v) ∧ t.gov.power = s.gov.power ∧ t.gov.junction = s.gov.junction ∧
      t.gov.stack = s.gov.stack ∧ t.gov.brakeVal = s.gov.brakeVal ∧ t.gov.brakeAt = s.gov.brakeAt ∧ OnlyChanges [.mss, .gov] s t)) ∧
  (∀ (avg : Nat) (s : State), (s.regs.bank .pwr).pending = none → Completes (exec (.powerLoopEvaluation avg) s) (fun t =>
      t.gov.power = (if bitsOf (s.reg aPwrLimit) 11 0 < avg then s.gov.power.map (fun c => max 7 (c - 1))
        else if 100 * avg < 95 * bitsOf (s.reg aPwrLimit) 11 0 ∧ 99 ≤ s.gov.belowFor then s.gov.power.map (fun c => min 28 (c + 1))
        else s.gov.power) ∧
      t.gov.junction = s.gov.junction ∧ t.gov.stack = s.gov.stack ∧ t.gov.brakeVal = s.gov.brakeVal ∧
      t.gov.brakeAt = s.gov.brakeAt ∧ OnlyChanges [.gov] s t)) ∧
  (∀ (avg : Nat) (s u : State), exec (.bankSafePointApply .pwr 0) s = .next u → (u.regs.bank .pwr).pending = none →
    exec (.powerLoopEvaluation avg) s = exec (.powerLoopEvaluation avg) u) ∧
  (∀ (d : Die) (temp : Int) (s : State), 800 ≤ temp → Completes (exec (.junctionThrottle d temp) s) (fun t =>
      t.gov.junction = s.gov.junction.modify d.val (fun c => max 7 (c - 1)) ∧ t.gov.power = s.gov.power ∧
      t.gov.stack = s.gov.stack ∧ t.gov.brakeVal = s.gov.brakeVal ∧ t.hub.bist.running = false ∧
      OnlyChanges [.hub, .rings, .cxl, .mss, .gov] s t)) ∧
  (∀ (d : Die) (temp : Int) (s : State), 784 ≤ temp → temp < 800 → Completes (exec (.junctionThrottle d temp) s) (fun t =>
      t.gov.junction = s.gov.junction ∧ t.gov.power = s.gov.power ∧ t.gov.stack = s.gov.stack ∧ OnlyChanges [.gov] s t)) ∧
  (∀ (d : Die) (temps : List Int) (s : State), (∃ x ∈ temps, 90 ≤ x) → Completes (exec (.stackThrottle d temps) s) (fun t =>
      t.gov.stack = s.gov.stack.modify d.val (fun c => max 7 (c - 1)) ∧ t.gov.power = s.gov.power ∧
      t.gov.junction = s.gov.junction ∧ t.gov.brakeVal = s.gov.brakeVal ∧ OnlyChanges [.gov] s t)) ∧
  (∀ (d : Die) (temps : List Int) (s : State), (∀ x ∈ temps, x < 90) → (∃ x ∈ temps, 88 ≤ x) →
    Completes (exec (.stackThrottle d temps) s) (fun t => t.gov.stack = s.gov.stack ∧ t.gov.power = s.gov.power ∧
      t.gov.junction = s.gov.junction ∧ OnlyChanges [.gov] s t)) ∧
  (∀ (d : Die) (temps : List Int) (s : State), (∀ x ∈ temps, x < 88) → 9 ≤ s.gov.coolS.getD d.val 0 →
    Completes (exec (.stackThrottle d temps) s) (fun t => t.gov.stack = s.gov.stack.modify d.val (fun c => min 28 (c + 1)) ∧
      t.gov.power = s.gov.power ∧ t.gov.junction = s.gov.junction ∧ OnlyChanges [.gov] s t)) ∧
  (∀ (pred : List (List Nat)) (d : Nat) (s : State), d < 4 → Completes (exec (.brakeValueCompute pred) s) (fun t =>
      7 ≤ t.gov.brakeVal.getD d 0 ∧ t.gov.brakeVal.getD d 0 ≤ 28 ∧
      (7 < t.gov.brakeVal.getD d 0 → ∃ w, (pred.getD d [])[t.gov.brakeVal.getD d 0 - 7]? = some w ∧
        w ≤ bitsOf (s.reg aPwrLimit) 23 12) ∧
      (∀ k w, t.gov.brakeVal.getD d 0 < k → k ≤ 28 → (pred.getD d [])[k - 7]? = some w → bitsOf (s.reg aPwrLimit) 23 12 < w) ∧
      t.gov.power = s.gov.power ∧ t.gov.brakeAt = s.gov.brakeAt ∧ OnlyChanges [.gov] s t)) ∧
  (∀ s : State, s.gov.brakeAt = none → Completes (exec .pwrBrakeAssert s) (fun t => t.gov.brakeAt = some s.now ∧
      (∀ d, t.ceiling d ≤ s.gov.brakeVal.getD d 7) ∧ t.gov.power = s.gov.power ∧ t.hub.bist.running = false ∧
      OnlyChanges [.hub, .rings, .cxl, .mss, .gov] s t)) ∧
  (∀ (at_ : Nat) (s : State), s.gov.brakeAt = some at_ → Completes (exec .pwrBrakeRelease s) (fun t => t.gov = { s.gov with brakeAt := none } ∧
      t.mss.log.getLast?.map (fun e => (e.status, e.detail)) = some (.powerBrake, [s.now - at_]) ∧ OnlyChanges [.mss, .gov] s t)) ∧
  (∀ (x : Sensor) (temp : Int) (s : State),
    (∃ i, x = .junction i ∧ 840 ≤ temp) ∨ (∃ i, x = .stackTemp i ∧ 95 ≤ temp) → Completes (exec (.thermalTrip x temp) s) (fun t =>
      t.hub.tripped = true ∧ t.inReset .warm = true ∧
      t.moduleGen = (if (s.dom .warm).lastAt.any (fun k => decide (s.now < k + 1000)) then s.moduleGen else s.moduleGen + 1) ∧ t.ctxs = [] ∧ t.mem.hbm = s.mem.hbm ∧
      t.gov.power = s.gov.power ∧ t.cores.pruned = s.cores.pruned ∧ t.pending = s.pending)) ∧
  (∀ (x : Sensor) (temp : Int) (s : State), (∀ i, x = .junction i → temp < 840) → (∀ i, x = .stackTemp i → temp < 95) →
    exec (.thermalTrip x temp) s = .next s) ∧
  (∀ (js ss : List Int) (s : State), s.hub.tripped = true → s.hub.refclk = true → s.hub.mainPower = true →
    (∀ x ∈ js, x ≤ 680) → (∀ x ∈ ss, x ≤ 80) →
    Completes (exec (.thermalTripRelease js ss) s) (fun t => t.hub.tripped = false ∧ (t.dom .warm).inReset = false ∧
      (t.dom .warm).gen = (s.dom .warm).gen ∧ t.mem.hbm = s.mem.hbm ∧ t.gov = s.gov)) ∧
  (∀ (js ss : List Int) (s : State), (∃ x ∈ js, 680 < x) ∨ (∃ x ∈ ss, 80 < x) → exec (.thermalTripRelease js ss) s = .next s) ∧
  (∀ (addr dva : Nat) (bytes : List Byte) (n : Nat) (c : CtxId) (as : List Nat) (s : State),
    s.hedgeWindow addr bytes.length true = some (c, dva) → (s.ctx c).translateAll dva 2 bytes.length = some as →
    Completes (exec (.guestRequest addr true bytes n) s) (fun t =>
      (∀ a, a ∉ as → hbmRead t.mem.hbm a = hbmRead s.mem.hbm a) ∧ (as.Nodup → as.map (hbmRead t.mem.hbm) = bytes) ∧
      OnlyChanges [.mem] s t)) ∧
  (∀ (addr dva n : Nat) (c : CtxId) (as : List Nat) (s : State),
    s.hedgeWindow addr n false = some (c, dva) → (s.ctx c).translateAll dva 1 n = some as →
    Completes (exec (.guestRequest addr false [] n) s) (fun t =>
      t.guest.lastRead = some (as.map (hbmRead s.mem.hbm)) ∧ OnlyChanges [.guest] s t)) ∧
  (∀ (addr n : Nat) (write : Bool) (bytes : List Byte) (s : State),
    s.hedgeWindow addr (if write then bytes.length else n) write = none ∨
      (∃ c dva, s.hedgeWindow addr (if write then bytes.length else n) write = some (c, dva) ∧
        (s.ctx c).translateAll dva (if write then 2 else 1) (if write then bytes.length else n) = none) →
    Completes (exec (.guestRequest addr write bytes n) s) (fun t => t.inReset .guest = true ∧ (t.dom .guest).inReset = true ∧
      t.mss.log.getLast?.map (fun e => (e.status, e.detail)) = some (.hedgeViolation, [addr]) ∧ OnlyChanges [.hub, .mss, .guest] s t)) ∧
  (∀ s : State, s.guest.fenced = false → s.guest.attempts < 2 → Completes (exec .guestTimeout s) (fun t =>
      t.guest.attempts = s.guest.attempts + 1 ∧ t.guest.fenced = false ∧ (t.dom .guest).inReset = true ∧
      OnlyChanges [.hub, .guest] s t)) ∧
  (∀ s : State, s.guest.fenced = false → 2 ≤ s.guest.attempts → Completes (exec .guestTimeout s) (fun t =>
      t.guest.fenced = true ∧ OnlyChanges [.rings, .cxl, .mss, .hub, .guest] s t))

/-- Resets by pin, supply and clock keep what the manual keeps; a start ends in Ready; power states and logic BIST run or are
refused. An assertion of 10 µs or more is a cold reset into SECURE with the flash kept, one under 1 µs is ignored; its release
starts the module from a good slot. A loss of main power loses HBM and keeps the MSS; its return is a cold start. A lost
reference clock holds the module in warm reset until it is back. An unlocked PLL resets its die, or the module. A full start
with no failures ends in Ready with HBM zeroed; a failed die ends it. Lane errors take a spare; a lost link resets its dies;
the hub's to a link die, a second loss before training, or a second within 10 s, the module. A GO while busy, or to the
reserved target, is refused; otherwise the state is entered; a wake asked for meanwhile follows. REFUSED clears by a write of
1. A BIST GO under R437 erases and runs in TEST; one refused by one condition sets CAUSE; a finished run compares each
selected die. Each clause that says so has as its conclusion that exec answers a next state; it does for: modResetNAssert,
modResetNRelease, mainPowerLoss, mainPowerReturn, refclkLost, refclkReturn, pllUnlock, startupComplete, trellisLaneErrors,
trellisLinkLoss, pwrStateGo, powerStateTransitionComplete, pwrStateRefusedClear, bistGo, bistRunComplete. -/
def Obligations.PackageAndPower : Prop :=
  (∀ (ns : Nat) (s : State), 10000 ≤ ns → Completes (exec (.modResetNAssert ns) s) (fun t => t.hub.modReset = true ∧ t.ctxs = [] ∧
      t.rings = [] ∧ t.mem.hbm = [] ∧ t.mss.security = .secure ∧ t.mss.pufLocked = false ∧ t.mss.log = s.mss.log ∧
      t.mss.counter = s.mss.counter ∧ t.mss.slotA = s.mss.slotA ∧ t.cores.pruned = s.cores.pruned ∧ t.moduleGen = s.moduleGen + 1 ∧
      t.hub.coldCount = s.hub.coldCount + 1 ∧ t.hub.timeUs = 0 ∧ t.regs = {} ∧ t.pending = s.pending)) ∧
  (∀ (ns : Nat) (s : State), ns < 1000 → exec (.modResetNAssert ns) s = .next s) ∧
  (∀ (ns : Nat) (s : State), 1000 ≤ ns → ns < 10000 → Completes (exec (.modResetNAssert ns) s) (fun t =>
      t.hub.modReset = true ∨ OnlyChanges [.hub] s t)) ∧
  (∀ (sel : Fin 4) (s : State), s.hub.modReset = true → s.hub.mainPower = true →
    s.slotPasses (if s.mss.activeB then s.mss.slotB else s.mss.slotA) true = true →
    Completes (exec (.modResetNRelease sel) s) (fun t => t.hub.modReset = false ∧ t.hub.starting = .full ∧ t.hub.profileSel = sel ∧
      t.mss.activeB = s.mss.activeB ∧ t.mem = s.mem ∧ t.ctxs = s.ctxs ∧ t.cores = s.cores)) ∧
  (∀ s : State, s.hub.mainPower = true → Completes (exec .mainPowerLoss s) (fun t => t.hub.mainPower = false ∧ t.mem.hbm = [] ∧
      t.ctxs = [] ∧ t.rings = [] ∧ t.mss = s.mss ∧ t.gov = s.gov ∧ t.cores.pruned = s.cores.pruned ∧ t.hub.firstReady = false)) ∧
  (∀ s : State, s.hub.mainPower = false → Completes (exec .mainPowerReturn s) (fun t => t.hub.mainPower = true ∧ t.ctxs = [] ∧
      t.mss.security = .secure ∧ t.mss.counter = s.mss.counter ∧ t.hub.coldCount = s.hub.coldCount + 1 ∧
      t.cores.pruned = s.cores.pruned ∧ t.ckpt.seed = s.ckpt.seed)) ∧
  (∀ s : State, s.hub.refclk = true → Completes (exec .refclkLost s) (fun t => t.hub.refclk = false ∧ t.inReset .warm = true ∧
      t.ctxs = [] ∧ t.mem.hbm = s.mem.hbm ∧ t.cores.pruned = s.cores.pruned)) ∧
  (∀ s : State, s.hub.refclk = false → s.hub.tripped = false → s.hub.mainPower = true →
    Completes (exec .refclkReturn s) (fun t => t.hub.refclk = true ∧ (t.dom .warm).inReset = false ∧
      t.mem.hbm = s.mem.hbm ∧ t.ctxs = s.ctxs)) ∧
  (∀ (d : Die) (p : Pll) (s : State), p = .arith d ∨ p = .hbm d → s.hub.dieResets = [] → s.mem.targets = [] →
    Completes (exec (.pllUnlock p) s) (fun t => t.inReset (.die d) = true ∧ p ∈ t.hub.pllsDown ∧ t.hub.dieResets = [s.now] ∧
      t.regs = s.regs ∧ t.mem.hbm = s.mem.hbm)) ∧
  (∀ (p : Pll) (s : State), p = .trellis ∨ p = .serdes 0 ∨ p = .serdes 1 ∨ p = .hub →
    Completes (exec (.pllUnlock p) s) (fun t => t.inReset .warm = true ∧ t.ctxs = [] ∧ t.mem.hbm = s.mem.hbm)) ∧
  (∀ s : State, s.hub.starting = .full → s.hub.dead = false → s.hub.modReset = false → s.inReset .warm = false →
    Completes (exec (.startupComplete {}) s) (fun t => t.hub.power = .ready ∧ t.hub.starting = .none ∧ t.hub.firstReady = true ∧
      t.mem.hbm = [] ∧ t.mss.bootResets = 0 ∧ t.cores.pruned = s.cores.pruned ∧ t.ctxs = s.ctxs)) ∧
  (∀ (d : Nat) (ds : List Nat) (f : StartFailures) (s : State), s.hub.starting = .full → s.hub.dead = false →
    s.hub.modReset = false → s.inReset .warm = false → f.dieFails = d :: ds →
    Completes (exec (.startupComplete f) s) (fun t => t.hub.dead = true ∧ t.hub.starting = .none ∧ t.hub.power = s.hub.power ∧
      OnlyChanges [.hub, .rings, .cxl, .mss, .out] s t)) ∧
  (∀ (l : TrellisLink) (g n : Nat) (w : Bool) (s : State), n ≤ 16 → exec (.trellisLaneErrors l g n w) s = .next s) ∧
  (∀ (l : TrellisLink) (g n : Nat) (w : Bool) (s : State), 16 < n → (AL.get {} l s.hub.trellis).lost = false →
    (AL.get {} l s.hub.trellis).half = false → AL.get 0 g (AL.get {} l s.hub.trellis).used < 2 →
    Completes (exec (.trellisLaneErrors l g n w) s) (fun t =>
      AL.get 0 g (AL.get {} l t.hub.trellis).used = AL.get 0 g (AL.get {} l s.hub.trellis).used + 1 ∧
      (AL.get {} l t.hub.trellis).half = false ∧ t.hub.domains = s.hub.domains ∧ OnlyChanges [.hub, .mss] s t)) ∧
  (∀ (a b : Die) (s : State), s.hub.dieResets = [] → s.mem.targets = [] → (AL.get {} (.dieToDie a b) s.hub.trellis).lost = false →
    Completes (exec (.trellisLinkLoss (.dieToDie a b)) s) (fun t =>
      (AL.get {} (.dieToDie a b) t.hub.trellis).lost = true ∧ t.inReset (.die a) = true ∧ t.inReset (.die b) = true ∧
      t.regs = s.regs ∧ t.mem.hbm = s.mem.hbm)) ∧
  (∀ (d : Die) (l : TrellisLink) (s : State), l = .dieToLink d ∨ l = .hubToDie d → s.hub.dieResets = [] → s.mem.targets = [] →
    (AL.get {} l s.hub.trellis).lost = false →
    Completes (exec (.trellisLinkLoss l) s) (fun t => (AL.get {} l t.hub.trellis).lost = true ∧ t.inReset (.die d) = true ∧
      t.regs = s.regs ∧ t.mem.hbm = s.mem.hbm)) ∧
  (∀ (l : TrellisLink) (s : State), (∃ k, l = .hubToLink k) ∨ (AL.get {} l s.hub.trellis).lost = true ∨
      (∃ x ∈ s.hub.dieResets, s.now < x + 10000000) →
    Completes (exec (.trellisLinkLoss l) s) (fun t => t.inReset .warm = true ∧ t.ctxs = [] ∧ t.mem.hbm = s.mem.hbm)) ∧
  (∀ (w : Word) (s : State), bitOf w.toNat 2 = true → bitOf w.toNat 7 = false →
    bitsOf w.toNat 1 0 = 3 ∨ (s.hub.power = .ready ∧ bitsOf w.toNat 1 0 ≠ 0 ∧ s.powerBusy (bitsOf w.toNat 1 0) = true) →
    Completes (exec (.pwrStateGo w) s) (fun t => t.hub.refused = true ∧ t.hub.power = s.hub.power ∧
      t.hub.target = bitsOf w.toNat 1 0 ∧ OnlyChanges [.hub, .mss] s t)) ∧
  (∀ (w : Word) (s : State), bitOf w.toNat 2 = true → s.hub.power = .ready → bitsOf w.toNat 1 0 = 1 → s.powerBusy 1 = false →
    s.mem.targets = [] →
    Completes (exec (.pwrStateGo w) s) (fun t => t.hub.power = .entering ∧ t.hub.goingTo = 1 ∧ (∀ d : Die, t.inReset (.die d) = true) ∧
      t.mem.hbm = s.mem.hbm ∧ t.link.ports = s.link.ports ∧ OnlyChanges [.hub, .cores, .ctxs] s t)) ∧
  (∀ (w : Word) (s : State), bitOf w.toNat 2 = false → Completes (exec (.pwrStateGo w) s) (fun t =>
      t.hub.target = bitsOf w.toNat 1 0 ∧ t.hub.power = s.hub.power ∧ OnlyChanges [.hub] s t)) ∧
  (∀ s : State, s.hub.power = .entering → s.hub.wakeNext = true → s.hub.goingTo = 1 →
    Completes (exec .powerStateTransitionComplete s) (fun t => t.hub.power = .waking ∧ t.hub.wakeNext = false ∧ OnlyChanges [.hub] s t)) ∧
  (∀ s : State, s.hub.power = .entering → s.hub.wakeNext = false → Completes (exec .powerStateTransitionComplete s) (fun t =>
      t.hub.power = (if s.hub.goingTo = 2 then .dormant else .asleep) ∧ OnlyChanges [.hub] s t)) ∧
  (∀ s : State, s.hub.power = .waking → s.hub.starting = .none → s.hub.dead = false → s.inReset .warm = false →
    Completes (exec .powerStateTransitionComplete s) (fun t => t.hub.power = .ready ∧ (∀ d : Die, (t.dom (.die d)).inReset = false) ∧
      OnlyChanges [.hub] s t)) ∧
  (∀ s : State, Completes (exec .pwrStateRefusedClear s) (fun t => t.hub.refused = false ∧ t.hub.power = s.hub.power ∧
      OnlyChanges [.hub] s t)) ∧
  (∀ (w : Word) (s : State), s.hub.power = .dormant → exec (.bistGo w) s = .next s) ∧
  (∀ (w : Word) (s : State), s.hub.power ≠ .dormant → (bitOf w.toNat 31 = false ∨ bitsOf w.toNat 6 0 = 0) →
    Completes (exec (.bistGo w) s) (fun t =>
      t.hub.bist = { s.hub.bist with dies := bitsOf w.toNat 6 0, clock := bitsOf w.toNat 12 8, vdd := bitsOf w.toNat 25 16 } ∧
      OnlyChanges [.hub] s t)) ∧
  (∀ (w : Word) (s : State), s.hub.power ≠ .dormant → bitOf w.toNat 31 = true → bitsOf w.toNat 6 0 ≠ 0 → s.anyLoaded = false → s.inClearing = false →
    s.hub.bist.running = false → s.mss.profile ≠ none → 24 ≤ bitsOf w.toNat 12 8 → bitsOf w.toNat 12 8 ≤ 30 →
    700 ≤ bitsOf w.toNat 25 16 → bitsOf w.toNat 25 16 ≤ 800 → bitsOf w.toNat 25 16 % 10 = 0 → s.mss.security = .secure →
    Completes (exec (.bistGo w) s) (fun t => t.hub.bist.running = true ∧ t.hub.bist.cause = 0 ∧ t.mss.security = .test ∧
      t.mss.idKey = false ∧ t.mss.pufLocked = true ∧ t.mss.sessions = [] ∧ t.mem.hbm = [] ∧ t.mss.counter = s.mss.counter)) ∧
  (∀ (w : Word) (s : State), s.hub.power ≠ .dormant → bitOf w.toNat 31 = true → bitsOf w.toNat 6 0 ≠ 0 → s.anyLoaded = true →
    s.mss.profile ≠ none → 24 ≤ bitsOf w.toNat 12 8 → bitsOf w.toNat 12 8 ≤ 30 →
    700 ≤ bitsOf w.toNat 25 16 → bitsOf w.toNat 25 16 ≤ 800 → bitsOf w.toNat 25 16 % 10 = 0 →
    Completes (exec (.bistGo w) s) (fun t => t.hub.bist.running = s.hub.bist.running ∧ t.hub.bist.cause = 1 ∧
      OnlyChanges [.hub] s t)) ∧
  (∀ (misr : List (BitVec 64)) (s : State), s.hub.bist.running = true → s.hub.bist.done = 0 →
    s.hub.bist.pass = 0 → s.hub.bist.misr.length = 7 →
    Completes (exec (.bistRunComplete misr) s) (fun t => t.hub.bist.running = false ∧
      (∀ i, i < 7 → bitOf t.hub.bist.done i = bitOf s.hub.bist.run.1 i ∧
        bitOf t.hub.bist.pass i = (bitOf s.hub.bist.run.1 i &&
          decide ((s.mss.profile.bind (fun p => p.bistSigs[i]?)) = some (misr.getD i 0))) ∧
        t.hub.bist.misr.getD i 0 = (if bitOf s.hub.bist.run.1 i then misr.getD i 0 else s.hub.bist.misr.getD i 0)) ∧ t.mss.security = s.mss.security ∧ OnlyChanges [.hub, .mss] s t)) ∧
  (∀ (misr : List (BitVec 64)) (s : State), s.hub.bist.running = false → exec (.bistRunComplete misr) s = .next s)

/-- The OEM, debug, monitoring and firmware commands have the effect the manual gives them and answer, or are refused. While
the MSS serves: a profile selection waits for the job boundary, and at it the profile is taken over or refused whole; the log
is read as it stands; the security version rises to the active build's. A map-out takes the lowest reserve channel for a
logical channel and fences a reserve channel; the command processor waits for neither while it runs, and takes the order after
its reset. A listed core returns only tested, with no program loaded. A debug token that verifies outside a job erases and
opens DEBUG, one that does not is refused, and its nonce is used up. The PLDM commands answer from the state. An update goes
from request to a written slot in order: the bundle goes to the inactive slot alone, the profile in use cannot be written, an
old version is refused; activation swaps the slots and resets, in no clearing. Each clause that says so has as its conclusion
that exec answers a next state; it does for: selectProfile, profileSelectApply, readLog, commitSecurityVersion, mapOutChannel,
releasePrunedCore, startMargining, debugUnlock, debugNonceRead, debugTokenPresent, clearLog, setTid, getTid, getPldmTypes,
getPdrRepositoryInfo, getPdr, getFirmwareParameters, getStatus, queryDeviceIdentifiers, getPldmCommands, getPldmVersion,
getSensorReading, getStateSensorReadings, setEventReceiver, eventMessageBufferSize, pollForPlatformEventMessage,
requestUpdate, passComponentTable, updateComponent, firmwareDataResponse, transferComplete, verifyComplete, applyComplete,
activateFirmware, cancelUpdateComponent, cancelUpdate. -/
def Obligations.ManagementCommands : Prop :=
  (∀ (slot : Fin 4) (s : State), s.mssServes = true → Completes (exec (.selectProfile slot) s) (fun t =>
      t.mss.selecting = some slot ∧ t.mss.profile = s.mss.profile ∧ t.mss.activeSlot = s.mss.activeSlot ∧ OnlyChanges [.mss] s t)) ∧
  (∀ s : State, s.mss.selecting = none → exec .profileSelectApply s = .next s) ∧
  (∀ s : State, s.mss.selecting.isSome = true → s.anyLoaded = true → exec .profileSelectApply s = .next s) ∧
  (∀ (slot : Fin 4) (s : State), s.mss.selecting = some slot → s.anyLoaded = false → s.mssRuns = true →
    s.profileValid slot = none → (profileBanks.all (fun b => (s.regs.bank b).pending.isNone)) = true →
    Completes (exec .profileSelectApply s) (fun t => t.mss.selecting = none ∧ t.mss.profile = s.mss.profile ∧
      t.mss.activeSlot = s.mss.activeSlot ∧ t.regs.active = s.regs.active ∧ t.regs.staged = s.regs.staged ∧
      OnlyChanges [.regs, .rings, .cxl, .mss, .hub] s t)) ∧
  (∀ (slot : Fin 4) (p : Profile) (s : State), s.mss.selecting = some slot → s.anyLoaded = false → s.mssRuns = true →
    s.profileValid slot = some p → (profileBanks.all (fun b => (s.regs.bank b).pending.isNone)) = true →
    Completes (exec .profileSelectApply s) (fun t => t.mss.selecting = none ∧ t.mss.profile = some p ∧ t.mss.activeSlot = slot ∧
      t.reg aPwrLimit = p.limitW % 4096 + 4096 * (p.brakeW % 4096) ∧ t.gov = s.gov ∧ t.pending = s.pending)) ∧
  (∀ (first count : Nat) (s : State), s.mssServes = true → Completes (exec (.readLog first count) s) (fun t =>
      t.mss.response = some ⟨"ReadLog", 0, none, [s.mss.log.length, s.mss.logLost.toNat], s.signature, [],
        (s.mss.log.drop first).take count⟩ ∧ t.mss.log = s.mss.log ∧ OnlyChanges [.mss, .hub] s t)) ∧
  (∀ s : State, s.mssServes = true → s.mss.pufLocked = false → Completes (exec (.commitSecurityVersion true) s) (fun t =>
      t.mss.counter = (if s.mss.counter < BitVec.ofNat 32 ((s.bundle.map (·.secVer)).getD 0) then
        BitVec.ofNat 32 ((s.bundle.map (·.secVer)).getD 0) else s.mss.counter) ∧ t.mss.activeB = s.mss.activeB ∧ OnlyChanges [.mss] s t)) ∧
  (∀ s : State, s.mssServes = true → Completes (exec (.commitSecurityVersion false) s) (fun t =>
      t.mss.counter = s.mss.counter ∧ t.mss.slotA = s.mss.slotA ∧ t.mss.slotB = s.mss.slotB ∧ OnlyChanges [.mss] s t)) ∧
  (∀ (d : Die) (ch : Nat) (s : State), s.mssServes = true → ch < 160 → (d.val, ch) ∉ s.mem.fenced → s.logicalFor (d.val, ch) = none →
    s.inReset .cp = false → s.hub.toMss = [] → s.hub.fromMss = [] →
    s.hub.postWait = [] → s.regs.mssHeld = [] → 
    Completes (exec (.mapOutChannel d ch) s) (fun t => t.mem.fenced = s.mem.fenced ++ [(d.val, ch)] ∧ t.mem.hbm = s.mem.hbm ∧
      t.mem.chmap = s.mem.chmap ∧ t.mss.response.map (·.code) = some 0 ∧ OnlyChanges [.mem, .mss, .rings, .cxl, .hub] s t)) ∧
  (∀ (d : Die) (ch : Nat) (l q : Chan) (s : State), s.mssServes = true → ch < 160 → (d.val, ch) ∉ s.mem.fenced →
    s.logicalFor (d.val, ch) = some l → s.mem.mapouts = [] → s.replacement l.1 = some q → s.inReset .cp = false → s.hub.toMss = [] → s.hub.fromMss = [] →
    s.hub.postWait = [] → s.regs.mssHeld = [] → 
    Completes (exec (.mapOutChannel d ch) s) (fun t => t.mem.mapouts = [⟨l.1, l.2, q, true, false⟩] ∧ t.mem.hbm = s.mem.hbm ∧
      t.mem.chmap = s.mem.chmap ∧ t.mem.fenced = s.mem.fenced ∧ t.mss.response.map (·.code) = some 0 ∧
      OnlyChanges [.mem, .mss, .rings, .cxl, .hub] s t)) ∧
  (∀ (d : Die) (ch : Nat) (s : State), s.mssServes = true → ch < 160 → (d.val, ch) ∉ s.mem.fenced → s.logicalFor (d.val, ch) = none →
    s.inReset .cp = true → s.hub.toMss = [] → s.hub.fromMss = [] → s.hub.postWait = [] → s.regs.mssHeld = [] →
    Completes (exec (.mapOutChannel d ch) s) (fun t => t.hub.fromMss = [.mapOut d ch] ∧ t.mem = s.mem ∧
      OnlyChanges [.hub, .mss] s t)) ∧
  (∀ (k : CoreId) (s : State), s.mssServes = true → s.anyLoaded = false → k ∈ s.cores.pruned → (s.core k).passedFull = true →
    s.mss.pufLocked = false → s.inReset .cp = false → s.hub.toMss = [] → s.hub.fromMss = [] →
    s.hub.postWait = [] → s.regs.mssHeld = [] → 
    Completes (exec (.releasePrunedCore k) s) (fun t => t.cores.pruned = s.cores.pruned.filter (fun j => j != k) ∧
      (t.core k).status = (if s.activeRoom k && s.atBoundary then .active else .spare) ∧ t.mss.response.map (·.code) = some 0 ∧ OtherCores k s t ∧ OnlyChanges [.cores, .mss] s t)) ∧
  (∀ (k : CoreId) (s : State), s.mssServes = true → s.anyLoaded = true ∨ k ∉ s.cores.pruned ∨ (s.core k).passedFull = false ∨
      s.mss.pufLocked = true →
    Completes (exec (.releasePrunedCore k) s) (fun t => t.cores = s.cores ∧ OnlyChanges [.mss] s t)) ∧
  (∀ (d : Die) (ch : Nat) (s : State), s.mssServes = true → ch < 160 → s.anyLoaded = false → (d.val, ch) ∉ s.mem.margining →
    Completes (exec (.startMargining d ch) s) (fun t => (d.val, ch) ∈ t.mem.margining ∧
      t.inReset (.hbm (Fin.ofNat 20 (5 * d.val + ch % 5))) = true ∧ t.mem.hbm = s.mem.hbm ∧ OnlyChanges [.hub, .mem, .mss] s t)) ∧
  (∀ s : State, s.mssServes = true → Completes (exec (.debugUnlock none) s) (fun t => (∃ v, v < 2 ^ 256 ∧
        t.mss.nonces = s.mss.nonces ++ [⟨v, false⟩] ∧ t.mss.response.map (·.vals) = some [v]) ∧ t.mss.security = s.mss.security ∧
      OnlyChanges [.hub, .mss] s t)) ∧
  (∀ (k : Fin 8) (s : State), k ≠ 7 → s.mssRuns = true →
    Completes (exec (.debugNonceRead k) s) (fun t => (∃ v, v < 2 ^ 256 ∧ t.mss.nonces = s.mss.nonces ++ [⟨v, false⟩] ∧
        t.mss.response.map (·.vals) = some [v]) ∧ t.mss.security = s.mss.security ∧ OnlyChanges [.hub, .mss] s t)) ∧
  (∀ (k : DebugToken) (s : State), s.mssServes = true →
    s.anyLoaded = false → s.inClearing = false → onlyLogClear k = false →
    Completes (exec (.debugUnlock (some k)) s) (fun t =>
      (s.tokenOk k = true → s.mss.security = .secure → t.mss.security = .debug ∧ t.mss.idKey = false ∧ t.mss.pufLocked = true ∧
        t.mss.dies = k.dies % 256 ∧ t.mss.level = k.level % 4 ∧ t.mem.hbm = [] ∧ t.mss.sessions = []) ∧
      (s.tokenOk k = false → t.mss.security = s.mss.security ∧ t.mss.dies = s.mss.dies ∧ t.mem = s.mem ∧
        t.mss.response.map (·.status) = some (some .debugTokenInvalid)) ∧
      (∀ n ∈ t.mss.nonces, n.value = k.nonce → n.presented = true))) ∧
  (∀ (k : DebugToken) (s : State), s.mssRuns = true →
    s.anyLoaded = false → s.inClearing = false → onlyLogClear k = false →
    Completes (exec (.debugTokenPresent k) s) (fun t =>
      (s.tokenOk k = true → s.mss.security = .secure → t.mss.security = .debug ∧ t.mss.idKey = false ∧ t.mss.pufLocked = true ∧
        t.mss.dies = k.dies % 256 ∧ t.mss.level = k.level % 4 ∧ t.mem.hbm = [] ∧ t.mss.sessions = []) ∧
      (s.tokenOk k = false → t.mss.security = s.mss.security ∧ t.mss.dies = s.mss.dies ∧ t.mem = s.mem ∧
        t.mss.response.map (·.status) = some (some .debugTokenInvalid)) ∧
      (∀ n ∈ t.mss.nonces, n.value = k.nonce → n.presented = true))) ∧
  (∀ (k : DebugToken) (s : State), s.mssServes = true → Completes (exec (.clearLog k) s) (fun t =>
      (s.tokenOk k = true → k.logClear = true → t.mss.log = [] ∧ t.mss.logLost = 0) ∧
      (s.tokenOk k = false → t.mss.log ≠ [] ∧ t.mss.response.map (·.code) = some 1) ∧ t.mss.security = s.mss.security ∧
      OnlyChanges [.mss] s t)) ∧
  (∀ (n : Nat) (s : State), s.mssRuns = true → Completes (exec (.setTid n) s) (fun t => t.mss.tid = n % 256 ∧ OnlyChanges [.mss] s t)) ∧
  (∀ s : State, s.mssRuns = true → Completes (exec .getTid s) (fun t =>
      t.mss.response.map (fun r => (r.code, r.vals)) = some (0, [s.mss.tid]) ∧ t.mss.log = s.mss.log ∧ OnlyChanges [.mss] s t)) ∧
  (∀ s : State, s.mssRuns = true → Completes (exec .getPldmTypes s) (fun t =>
      t.mss.response.map (fun r => (r.code, r.vals)) = some (0, if s.hub.recovery then [0, 5] else [0, 2, 5, 0x3F]) ∧ t.mss.log = s.mss.log ∧ OnlyChanges [.mss] s t)) ∧
  (∀ s : State, s.mssServes = true → Completes (exec .getPdrRepositoryInfo s) (fun t =>
      t.mss.response.map (fun r => (r.code, r.vals)) = some (0, [158]) ∧ t.mss.log = s.mss.log ∧ OnlyChanges [.mss] s t)) ∧
  (∀ (h : Nat) (e : Nat × Sensor) (s : State), s.mssServes = true → h ≤ 158 → sensorIds[if h = 0 then 0 else h - 1]? = some e →
    Completes (exec (.getPdr h) s) (fun t => t.mss.response.map (fun r => (r.code, r.vals)) =
      some (0, [if h < 158 then max h 1 + 1 else 0, e.1]) ∧ t.mss.log = s.mss.log ∧ OnlyChanges [.mss] s t)) ∧
  (∀ (h : Nat) (s : State), s.mssServes = true → 158 < h → Completes (exec (.getPdr h) s) (fun t =>
      t.mss.response.map (·.code) = some 1 ∧ OnlyChanges [.mss] s t)) ∧
  (∀ s : State, s.mssRuns = true → Completes (exec .getFirmwareParameters s) (fun t =>
      t.mss.response.map (fun r => (r.code, r.vals)) = some (0, slotVals (if s.mss.activeB then s.mss.slotB else s.mss.slotA) ++ slotVals s.inactive ++
        [s.mss.counter.toNat]) ∧ t.mss.log = s.mss.log ∧ OnlyChanges [.mss] s t)) ∧
  (∀ s : State, s.mssRuns = true → Completes (exec .getStatus s) (fun t =>
      t.mss.response.map (fun r => (r.code, r.vals)) = some (0, [fwStateNo s.mss.update.state, s.mss.update.got, s.mss.update.size]) ∧ t.mss.log = s.mss.log ∧ OnlyChanges [.mss] s t)) ∧
  (∀ s : State, s.mssRuns = true → Completes (exec .queryDeviceIdentifiers s) (fun t =>
      t.mss.response.map (fun r => (r.code, r.vals)) = some (0, [Config.serial]) ∧ t.mss.log = s.mss.log ∧ OnlyChanges [.mss] s t)) ∧
  (∀ (ty : Nat) (s : State), s.mssServes = true → ty = 0 ∨ ty = 2 ∨ ty = 5 ∨ ty = 0x3F →
    Completes (exec (.getPldmCommands ty) s) (fun t => t.mss.response.map (fun r => (r.code, r.names)) = some (0, pldmCommands ty) ∧
      OnlyChanges [.mss] s t) ∧
    Completes (exec (.getPldmVersion ty) s) (fun t => t.mss.response.map (·.code) = some 0 ∧ OnlyChanges [.hub, .mss] s t)) ∧
  (∀ (ty : Nat) (s : State), s.mssRuns = true → ty ≠ 0 → ty ≠ 2 → ty ≠ 5 → ty ≠ 0x3F →
    Completes (exec (.getPldmCommands ty) s) (fun t => t.mss.response.map (·.code) = some 1 ∧ OnlyChanges [.mss] s t) ∧
    Completes (exec (.getPldmVersion ty) s) (fun t => t.mss.response.map (·.code) = some 1 ∧ OnlyChanges [.mss] s t)) ∧
  (∀ (x : Nat × Sensor) (v : Int) (s : State), s.mssServes = true →
    List.find? (fun (e : Nat × Sensor) => e.1 == x.1) sensorIds = some x → AL.find? x.2 s.mss.sensors = some v →
    Completes (exec (.getSensorReading x.1) s) (fun t =>
      t.mss.response.map (fun r => (r.code, r.vals)) = some (0, [readingWord v]) ∧ OnlyChanges [.mss] s t)) ∧
  (∀ (id : Nat) (s : State), s.mssServes = true → (∀ e ∈ sensorIds, e.1 ≠ id) →
    Completes (exec (.getSensorReading id) s) (fun t => t.mss.response.map (·.code) = some 1 ∧ OnlyChanges [.mss] s t)) ∧
  (∀ (id : Nat) (s : State), s.mssServes = true → Completes (exec (.getStateSensorReadings id) s) (fun t =>
      t.mss.response.map (·.code) = some 1 ∧ OnlyChanges [.mss] s t)) ∧
  (∀ (e n : Nat) (s : State), s.mssServes = true →
    Completes (exec (.setEventReceiver e) s) (fun t => t.mss.receiver = some e ∧ OnlyChanges [.mss] s t) ∧
    Completes (exec (.eventMessageBufferSize n) s) (fun t => t.mss.evBuffer = n ∧ OnlyChanges [.mss] s t)) ∧
  (∀ (a : Nat) (s : State), s.mssServes = true →
    Completes (exec (.pollForPlatformEventMessage (some a)) s) (fun t => t.mss.platform = s.mss.platform.drop 1 ∧
      t.mss.response.map (·.entries) = some ((s.mss.platform.drop 1).take 1) ∧ OnlyChanges [.mss] s t) ∧
    Completes (exec (.pollForPlatformEventMessage none) s) (fun t => t.mss.platform = s.mss.platform ∧
      t.mss.response.map (·.entries) = some (s.mss.platform.take 1) ∧ OnlyChanges [.mss] s t)) ∧
  (∀ s : State, s.mssRuns = true → s.mss.update.state = .idle → Completes (exec .requestUpdate s) (fun t =>
      t.mss.update = { state := .learn } ∧ OnlyChanges [.mss] s t)) ∧
  (∀ (ids : List Nat) (s : State), s.mssRuns = true → s.mss.update.state = .learn → (∀ i ∈ ids, i = 1 ∨ (0x10 ≤ i ∧ i ≤ 0x13)) →
    Completes (exec (.passComponentTable ids) s) (fun t => t.mss.update.state = .ready ∧ t.mss.update.passed = ids ∧
      OnlyChanges [.mss] s t)) ∧
  (∀ (n : Nat) (s : State), s.mssRuns = true → s.mss.update.state = .ready → 1 ∈ s.mss.update.passed → s.mss.pufLocked = false →
    Completes (exec (.updateComponent .bundle n) s) (fun t => t.mss.update.state = .download ∧ t.mss.update.size = n ∧
      t.inactive = { s.inactive with valid := false } ∧
      (if t.mss.activeB then t.mss.slotB else t.mss.slotA) = (if s.mss.activeB then s.mss.slotB else s.mss.slotA) ∧
      t.mss.activeB = s.mss.activeB ∧
      t.out.chunks = (if 0 < n then [(0, min 4096 n)] else []) ++ s.out.chunks ∧ OnlyChanges [.mss, .out] s t)) ∧
  (∀ (k : Fin 4) (n : Nat) (s : State), s.mssRuns = true → s.mss.update.state = .ready → 0x10 + k.val ∈ s.mss.update.passed →
    s.profileInUse k = true →
    Completes (exec (.updateComponent (.profile k) n) s) (fun t => t.mss.response.map (·.status) = some (some .profileInUse) ∧
      t.mss.update = s.mss.update ∧ t.mss.profiles = s.mss.profiles ∧ OnlyChanges [.mss] s t)) ∧
  (∀ (n : Nat) (s : State), s.mssRuns = true → s.mss.update.state = .download → Completes (exec (.firmwareDataResponse n) s) (fun t =>
      t.mss.update = { s.mss.update with got := min s.mss.update.size (s.mss.update.got + min n 4096) } ∧
      t.out.chunks = (if t.mss.update.got < s.mss.update.size then
        [(t.mss.update.got, min 4096 (s.mss.update.size - t.mss.update.got))] else []) ++ s.out.chunks ∧ OnlyChanges [.mss, .out] s t)) ∧
  (∀ s : State, s.mssRuns = true → s.mss.update.state = .download → s.mss.update.size ≤ s.mss.update.got →
    Completes (exec .transferComplete s) (fun t => t.mss.update = { s.mss.update with state := .verify } ∧ OnlyChanges [.mss] s t)) ∧
  (∀ (b : Bundle) (s : State), s.mssRuns = true → s.mss.update.state = .verify → s.mss.update.comp = some .bundle →
    Completes (exec (.verifyComplete (.bundle b)) s) (fun t =>
      let bad : Option Status := if !b.sigOk || !(((s.mss.profile.map (fun q => q.acrs)).getD []).all (fun a => b.acrs.contains a)) then some .fwVerifyFailed else if b.secVer < s.mss.counter.toNat then some .fwRollbackRefused else none
      t.mss.response.map (·.status) = some bad ∧ t.mss.update.state = (if bad.isSome then .ready else .apply) ∧
      t.mss.slotA = s.mss.slotA ∧ t.mss.slotB = s.mss.slotB ∧ OnlyChanges [.mss] s t)) ∧
  (∀ (k : Fin 4) (p : Profile) (s : State), s.mssRuns = true → s.mss.update.state = .verify → s.mss.update.comp = some (.profile k) →
    Completes (exec (.verifyComplete (.profile k p)) s) (fun t =>
      let bad : Option Status := if !p.sigOk then some .fwVerifyFailed else if p.secVer < ((AL.find? k s.mss.profiles).map (·.secVer)).getD 0 then some .fwRollbackRefused else none
      t.mss.response.map (·.status) = some bad ∧ t.mss.update.state = (if bad.isSome then .ready else .apply) ∧
      t.mss.profiles = s.mss.profiles ∧ OnlyChanges [.mss] s t)) ∧
  (∀ (k : Fin 4) (p : Profile) (s : State), s.mssRuns = true → s.mss.update.state = .apply → s.mss.update.comp = some (.profile k) →
    s.mss.update.staged = some (.profile k p) →
    Completes (exec .applyComplete s) (fun t => AL.find? k t.mss.profiles = some p ∧
      (∀ j, j ≠ k → AL.find? j t.mss.profiles = AL.find? j s.mss.profiles) ∧ t.mss.profile = s.mss.profile ∧
      t.mss.slotA = s.mss.slotA ∧ t.mss.slotB = s.mss.slotB ∧ OnlyChanges [.mss] s t)) ∧
  (∀ (b : Bundle) (s : State), s.mssRuns = true → s.mss.update.state = .apply → s.mss.update.comp = some .bundle →
    s.mss.update.staged = some (.bundle b) → s.mss.pufLocked = false →
    Completes (exec .applyComplete s) (fun t => t.inactive = ⟨some b, true⟩ ∧
      (if t.mss.activeB then t.mss.slotB else t.mss.slotA) = (if s.mss.activeB then s.mss.slotB else s.mss.slotA) ∧
      t.mss.activeB = s.mss.activeB ∧ t.mss.update.applied = s.mss.update.applied ++ [.bundle] ∧ OnlyChanges [.mss] s t)) ∧
  (∀ s : State, s.mssRuns = true → s.mss.update.state = .ready → s.mss.update.applied ≠ [] → s.inClearing = true →
    Completes (exec .activateFirmware s) (fun t => t.mss.response.map (·.status) = some (some .fwActivateBusy) ∧
      t.mss.activeB = s.mss.activeB ∧ t.mss.update = s.mss.update ∧ OnlyChanges [.mss] s t)) ∧
  (∀ s : State, s.mssRuns = true → s.mss.update.state = .ready → .bundle ∈ s.mss.update.applied → s.inClearing = false →
    s.inactive.valid = true →
    Completes (exec .activateFirmware s) (fun t => t.mss.activeB = (!s.mss.activeB) ∧ t.mss.slotA = s.mss.slotA ∧
      t.mss.slotB = s.mss.slotB ∧ t.inReset .warm = true ∧ t.inReset .mss = true ∧ t.mem.hbm = [] ∧ t.ctxs = [])) ∧
  (∀ s : State, s.mssRuns = true → s.mss.update.state = .ready → s.mss.update.applied ≠ [] → .bundle ∉ s.mss.update.applied →
    s.inClearing = false →
    Completes (exec .activateFirmware s) (fun t => t.mss.response.map (·.code) = some 0 ∧ t.mss.update = {} ∧
      t.mss.activeB = s.mss.activeB ∧ OnlyChanges [.mss] s t)) ∧
  (∀ s : State, s.mssRuns = true → s.mss.update.comp.isSome = true → Completes (exec .cancelUpdateComponent s) (fun t =>
      t.mss.update.state = .ready ∧ t.mss.update.comp = none ∧ t.mss.slotA = s.mss.slotA ∧ t.mss.slotB = s.mss.slotB ∧
      OnlyChanges [.mss] s t)) ∧
  (∀ s : State, s.mssRuns = true → s.mss.update.state ≠ .idle → Completes (exec .cancelUpdate s) (fun t => t.mss.update = {} ∧
      t.mss.slotA = s.mss.slotA ∧ t.mss.slotB = s.mss.slotB ∧ OnlyChanges [.mss] s t))

/-- SPDM agrees in order, signs only in SECURE, and keys an IDE stream only within a session on its port. A version starts a
transport afresh; capabilities follow it and algorithms follow those. Digests, certificates and measurements answer in every
security state, and outside SECURE with an empty signature field; the measurement of the state tells it; a challenge and a key
exchange fail there. In SECURE a key exchange opens a session while the transport has room; it is established by a good FINISH
and ended by END_SESSION or a bad FINISH. A key is programmed, put into use and taken out of use only in an established
session on the port's own DOE. A request is not answered where the MSS does not serve or, in Dormant, on a transport other
than MCTP. Each clause that says so has as its conclusion that exec answers a next state; it does for: getVersion,
getCapabilities, negotiateAlgorithms, getDigests, getCertificate, getMeasurements, challenge, keyExchange, finish, heartbeat,
keyUpdate, endSession, keyProg, query, kSetGo, kSetStop. -/
def Obligations.SessionsAndKeys : Prop :=
  (∀ (p : SpdmPath) (i slot off len k nonce : Nat) (ok : Bool) (s : State), s.mssServes = false ∨ s.pathOn p = false →
    exec (.getVersion p) s = .next s ∧ exec (.getCapabilities p) s = .next s ∧ exec (.negotiateAlgorithms p ok) s = .next s ∧
    exec (.getDigests p) s = .next s ∧ exec (.getCertificate p slot off len) s = .next s ∧
    exec (.getMeasurements p k) s = .next s ∧ exec (.challenge p slot nonce) s = .next s ∧
    exec (.keyExchange p) s = .next s ∧ (s.sessionPath i = p → exec (.finish i ok) s = .next s ∧
    exec (.heartbeat i) s = .next s ∧ exec (.keyUpdate i) s = .next s ∧ exec (.endSession i) s = .next s)) ∧
  (∀ (p : SpdmPath) (s : State), s.mssServes = true → s.pathOn p = true → Completes (exec (.getVersion p) s) (fun t =>
      t.conn p = { version := true } ∧ (∀ q, q ≠ p → t.conn q = s.conn q) ∧ t.mss.response.map (·.vals) = some [0x13] ∧
      t.mss.sessions = s.mss.sessions ∧ OnlyChanges [.mss] s t)) ∧
  (∀ (p : SpdmPath) (s : State), s.mssServes = true → s.pathOn p = true → (s.conn p).version = true → Completes (exec (.getCapabilities p) s) (fun t =>
      (t.conn p).caps = true ∧ t.mss.response.map (·.code) = some 0 ∧ OnlyChanges [.mss] s t)) ∧
  (∀ (p : SpdmPath) (s : State), s.mssServes = true → s.pathOn p = true → (s.conn p).version = false → Completes (exec (.getCapabilities p) s) (fun t =>
      t.mss.conns = s.mss.conns ∧ t.mss.response.map (·.code) = some 1 ∧ OnlyChanges [.mss] s t)) ∧
  (∀ (p : SpdmPath) (ok : Bool) (s : State), s.mssServes = true → s.pathOn p = true → (s.conn p).caps = true →
    Completes (exec (.negotiateAlgorithms p ok) s) (fun t => (t.conn p).algs = (ok || (s.conn p).algs) ∧
      t.mss.response.map (·.code) = some (if ok then 0 else 1) ∧ OnlyChanges [.mss] s t)) ∧
  (∀ (p : SpdmPath) (s : State), s.mssServes = true → s.pathOn p = true → s.agreed p = true →
    Completes (exec (.getDigests p) s) (fun t => t.mss.response.map (fun r => (r.code, r.vals)) = some (0, [1]) ∧
      (s.mss.security ≠ .secure → t.mss.response.map (·.bytes) = some []) ∧ t.mss.security = s.mss.security ∧
      OnlyChanges [.hub, .mss] s t)) ∧
  (∀ (p : SpdmPath) (off len : Nat) (s : State), s.mssServes = true → s.pathOn p = true → s.agreed p = true →
    Completes (exec (.getCertificate p 0 off len) s) (fun t =>
      t.mss.response.map (fun r => (r.code, r.vals)) = some (0, [0, off, min len 4096]) ∧
      (s.mss.security ≠ .secure → t.mss.response.map (·.bytes) = some []) ∧ t.mss.security = s.mss.security ∧
      OnlyChanges [.hub, .mss] s t)) ∧
  (∀ (p : SpdmPath) (slot off len : Nat) (s : State), s.mssServes = true → s.pathOn p = true → slot ≠ 0 →
    Completes (exec (.getCertificate p slot off len) s) (fun t => t.mss.response.map (fun r => (r.code, r.bytes)) = some (1, []) ∧
      OnlyChanges [.mss] s t)) ∧
  (∀ (p : SpdmPath) (k : Nat) (s : State), s.mssServes = true → s.pathOn p = true → s.agreed p = true → k ≤ 7 →
    Completes (exec (.getMeasurements p k) s) (fun t => t.mss.response.map (·.code) = some 0 ∧
      (s.mss.security ≠ .secure → t.mss.response.map (·.bytes) = some []) ∧ t.mss.security = s.mss.security ∧
      OnlyChanges [.hub, .mss] s t)) ∧
  (∀ (p : SpdmPath) (s : State), s.mssServes = true → s.pathOn p = true → s.agreed p = true → Completes (exec (.getMeasurements p 6) s) (fun t =>
      t.mss.response.map (·.vals) = some [6, secCode s.mss.security, s.hub.coldCount, 0] ∧
      t.mss.response.map (·.code) = some 0 ∧ OnlyChanges [.hub, .mss] s t)) ∧
  (∀ (p : SpdmPath) (nonce : Nat) (s : State), s.mssServes = true → s.pathOn p = true → s.agreed p = true → s.mss.security = .secure →
    s.mss.idKey = true →
    Completes (exec (.challenge p 0 nonce) s) (fun t => t.mss.response.map (fun r => (r.code, r.vals)) = some (0, [0, nonce]) ∧
      OnlyChanges [.hub, .mss] s t)) ∧
  (∀ (p : SpdmPath) (slot nonce : Nat) (s : State), s.mssServes = true → s.pathOn p = true → s.mss.security ≠ .secure →
    Completes (exec (.challenge p slot nonce) s) (fun t => t.mss.response.map (fun r => (r.code, r.bytes)) = some (1, []) ∧
      t.mss.sessions = s.mss.sessions ∧ OnlyChanges [.mss] s t) ∧
    Completes (exec (.keyExchange p) s) (fun t => t.mss.response.map (fun r => (r.code, r.bytes)) = some (1, []) ∧
      t.mss.sessions = s.mss.sessions ∧ OnlyChanges [.mss] s t)) ∧
  (∀ (p : SpdmPath) (s : State), s.mssServes = true → s.pathOn p = true → s.agreed p = true → s.mss.security = .secure → s.mss.idKey = true →
    s.mss.sessions = [] →
    Completes (exec (.keyExchange p) s) (fun t => t.mss.sessions = [(0, ⟨p, false, 0⟩)] ∧ t.mss.response.map (·.vals) = some [0] ∧
      OnlyChanges [.hub, .mss] s t)) ∧
  (∀ (p : SpdmPath) (s : State), s.mssServes = true → s.pathOn p = true → sessionRoom p ≤ s.sessionsOn p → Completes (exec (.keyExchange p) s) (fun t =>
      t.mss.sessions = s.mss.sessions ∧ t.mss.response.map (·.code) = some 1 ∧ OnlyChanges [.mss] s t)) ∧
  (∀ (i : Nat) (x : Session) (ok : Bool) (s : State), s.mssServes = true → s.pathOn (s.sessionPath i) = true → AL.find? i s.mss.sessions = some x → x.finished = false →
    Completes (exec (.finish i ok) s) (fun t => AL.find? i t.mss.sessions = (if ok then some { x with finished := true } else none) ∧
      (∀ j, j ≠ i → AL.find? j t.mss.sessions = AL.find? j s.mss.sessions) ∧ OnlyChanges [.mss] s t)) ∧
  (∀ (i : Nat) (x : Session) (s : State), s.mssServes = true → s.pathOn (s.sessionPath i) = true → s.session i = some x →
    Completes (exec (.heartbeat i) s) (fun t => t.mss.response.map (·.code) = some 0 ∧ t.mss.sessions = s.mss.sessions ∧
      OnlyChanges [.mss] s t) ∧
    Completes (exec (.keyUpdate i) s) (fun t => AL.find? i t.mss.sessions = some { x with keyGen := x.keyGen + 1 } ∧
      (∀ j, j ≠ i → AL.find? j t.mss.sessions = AL.find? j s.mss.sessions) ∧ OnlyChanges [.mss] s t) ∧
    Completes (exec (.endSession i) s) (fun t => AL.find? i t.mss.sessions = none ∧
      (∀ j, j ≠ i → AL.find? j t.mss.sessions = AL.find? j s.mss.sessions) ∧ OnlyChanges [.mss] s t)) ∧
  (∀ (i : Nat) (p : HostPort) (st : IdeStream) (ks key : Nat) (s : State), s.mssServes = true → s.pathOn (s.sessionPath i) = true → s.ideSession i p = true →
    Completes (exec (.keyProg i p st ks key) s) (fun t => AL.find? (p, st, ks) t.mss.ideKeys = some key ∧
      t.mss.ideOn = s.mss.ideOn ∧ OnlyChanges [.mss] s t) ∧
    Completes (exec (.query i p) s) (fun t => t.mss.response.map (·.vals) =
        some [(AL.find? (p, .io) s.mss.ideOn).isSome.toNat, (AL.find? (p, .cachemem) s.mss.ideOn).isSome.toNat] ∧
      t.mss.ideOn = s.mss.ideOn ∧ OnlyChanges [.mss] s t)) ∧
  (∀ (i : Nat) (p : HostPort) (st : IdeStream) (ks : Nat) (s : State), s.mssServes = true → s.pathOn (s.sessionPath i) = true → s.ideSession i p = true →
    (AL.find? (p, st, ks) s.mss.ideKeys).isSome = true →
    Completes (exec (.kSetGo i p st ks) s) (fun t => AL.find? (p, st) t.mss.ideOn = some ks ∧
      (∀ e, e ≠ (p, st) → AL.find? e t.mss.ideOn = AL.find? e s.mss.ideOn) ∧ OnlyChanges [.mss] s t)) ∧
  (∀ (i : Nat) (p : HostPort) (st : IdeStream) (ks : Nat) (s : State), s.mssServes = true → s.pathOn (s.sessionPath i) = true → s.ideSession i p = true →
    AL.find? (p, st) s.mss.ideOn = some ks →
    Completes (exec (.kSetStop i p st ks) s) (fun t => AL.find? (p, st) t.mss.ideOn = none ∧
      (∀ e, e ≠ (p, st) → AL.find? e t.mss.ideOn = AL.find? e s.mss.ideOn) ∧ OnlyChanges [.mss] s t)) ∧
  (∀ (i : Nat) (p : HostPort) (st : IdeStream) (ks key : Nat) (s : State), s.mssServes = true → s.pathOn (s.sessionPath i) = true → s.ideSession i p = false →
    Completes (exec (.keyProg i p st ks key) s) (fun t => t.mss.ideKeys = s.mss.ideKeys ∧ t.mss.ideOn = s.mss.ideOn ∧
      t.mss.response.map (·.code) = some 1 ∧ OnlyChanges [.mss] s t) ∧
    Completes (exec (.kSetGo i p st ks) s) (fun t => t.mss.ideKeys = s.mss.ideKeys ∧ t.mss.ideOn = s.mss.ideOn ∧
      t.mss.response.map (·.code) = some 1 ∧ OnlyChanges [.mss] s t) ∧
    Completes (exec (.kSetStop i p st ks) s) (fun t => t.mss.ideKeys = s.mss.ideKeys ∧ t.mss.ideOn = s.mss.ideOn ∧
      t.mss.response.map (·.code) = some 1 ∧ OnlyChanges [.mss] s t))

/-- A register write is staged, discarded or held; a commit takes a snapshot that applies unit by unit at safe points, or is
refused. A whole write of a staged register changes the staged bits of its staging copy alone; one with some byte enables
clear is counted and discarded; one to the staged view, or to a module that does not serve, changes nothing. A write of COMMIT
with GO is the commit, with GO and DISCARD nothing. GO takes the snapshot: pending while some unit waits, applied at once
where no unit changes, refused where a rule on values fails; a pending commit it replaces sets SUPERSEDED. At a unit's safe
point its values apply in one step, or a failing rule on state refuses; outside it nothing changes. DISCARD reloads the
staging copy and leaves the pending snapshot. SUPERSEDED is cleared by its own write. HUB_TIME_LO latches the upper half.
While the MSS is in reset its writes queue, then 16 are held, the rest are counted. A write of MSS_PROFILE_CTL keeps SELECT
and requests with GO. In Dormant only the registers of the PWR block take a write; the banks of the MSS are reached through
its mailbox. Each clause that says so has as its conclusion that exec answers a next state; it does for: registerWrite,
bankCommitGo, bankSafePointApply, bankCommitDiscard, bstatSupersededClear, hubTimeLoRead, profileGo, mssRegisterWrite. -/
def Obligations.RegistersAndBanks : Prop :=
  (∀ (p : HostPort) (a : Nat) (v : Word) (i : RegInfo) (s : State), (s.cxlPort p).up = true → (s.cxlPort p).perst = false →
    s.barServes a = true → offsetOf a < 0x100000 → blockOf a ≠ 10 → regInfo a = some i →
    Completes (exec (.registerWrite p a v 15) s) (fun t =>
      t.regs.stg a = (v &&& BitVec.ofNat 32 i.mask) ||| (s.regs.stg a &&& ~~~(BitVec.ofNat 32 i.mask)) ∧
      t.readReg (a + 0x100000) = t.regs.stg a ∧ t.readReg a = s.readReg a ∧
      (∀ b, b ≠ a → t.regs.stg b = s.regs.stg b) ∧ t.regs.active = s.regs.active ∧ t.regs.banks = s.regs.banks ∧
      t.regs.partials = s.regs.partials ∧ OnlyChanges [.regs] s t)) ∧
  (∀ (p : HostPort) (a : Nat) (v : Word) (be : Nat) (s : State), (s.cxlPort p).up = true → (s.cxlPort p).perst = false →
    s.barServes a = true → be < 15 →
    Completes (exec (.registerWrite p a v be) s) (fun t => t.regs.partials = min 65535 (s.regs.partials + 1) ∧
      t.regs.active = s.regs.active ∧ t.regs.staged = s.regs.staged ∧ t.regs.banks = s.regs.banks ∧
      OnlyChanges [.regs] s t)) ∧
  (∀ (p : HostPort) (a : Nat) (v : Word) (s : State), 0x100000 ≤ offsetOf a → exec (.registerWrite p a v 15) s = .next s) ∧
  (∀ (p : HostPort) (a : Nat) (v : Word) (be : Nat) (s : State),
    (s.cxlPort p).up = false ∨ (s.cxlPort p).perst = true ∨ s.barServes a = false → exec (.registerWrite p a v be) s = .next s) ∧
  (∀ (p : HostPort) (b : Bank) (v : Word) (s : State), (s.cxlPort p).up = true → (s.cxlPort p).perst = false →
    s.barServes (bankBase b) = true → b ∉ [Bank.mssEol, .mssSap] → v.toNat % 4 = 1 →
    exec (.registerWrite p (bankBase b) v 15) s = exec (.bankCommitGo b (v.toNat / 65536)) s) ∧
  (∀ (p : HostPort) (b : Bank) (v : Word) (s : State), b ∉ [Bank.mssEol, .mssSap] → v.toNat % 4 = 3 →
    exec (.registerWrite p (bankBase b) v 15) s = .next s) ∧
  (∀ (b : Bank) (tag a : Nat) (v : Word) (s : State), s.hub.power = .dormant →
    exec (.mssRegisterWrite a v) s = .next s ∧ exec (.profileGo v) s = .next s ∧ (blockOf (bankBase b) ≠ 12 →
      exec (.bankCommitGo b tag) s = .next s ∧ exec (.bankCommitDiscard b) s = .next s ∧
      exec (.bstatSupersededClear b) s = .next s)) ∧
  (∀ (b : Bank) (tag : Nat) (s : State), b ∈ [Bank.mssEol, .mssSap] →
    exec (.bankCommitGo b tag) s = exec (.mssRegisterWrite (bankBase b) (BitVec.ofNat 32 (65536 * tag + 1))) s) ∧
  (∀ (b : Bank) (tag : Nat) (s : State), s.bankReached b = true →
    ((valueRules b (s.under (s.regs.snapshot b)) (s.regs.known b)).all (fun r => !r.1)) = true →
    s.unitsOf (s.regs.snapshot b) = [] →
    Completes (exec (.bankCommitGo b tag) s) (fun t => (t.regs.bank b).state = 2 ∧ (t.regs.bank b).tag = tag % 65536 ∧
      (t.regs.bank b).pending = none ∧ t.regs.active = s.regs.active ∧ t.regs.staged = s.regs.staged ∧
      (∀ d, d ≠ b → t.regs.bank d = s.regs.bank d) ∧ OnlyChanges (if b = .ring then [.regs, .rings] else [.regs]) s t)) ∧
  (∀ (b : Bank) (tag u : Nat) (s : State), s.bankReached b = true → atOnce b = true → s.bankWaits b = false → s.mss.selecting = none →
    ((valueRules b (s.under (s.regs.snapshot b)) (s.regs.known b)).all (fun r => !r.1)) = true →
    s.unitsOf (s.regs.snapshot b) = [u] → ((s.regs.snapshot b).map (fun e => e.1)).Nodup → (b = .memPol → s.mem.hardFaults = []) →
    ((s.stateRules b u (s.under (s.regs.snapshot b))).all (fun r => !r.1)) = true →
    Completes (exec (.bankCommitGo b tag) s) (fun t => (t.regs.bank b).state = 2 ∧ (t.regs.bank b).pending = none ∧
      (∀ a, (regInfo a).map (fun i => i.unit) = some u → t.regs.val a = AL.get (s.regs.val a) a (s.regs.snapshot b)) ∧
      t.regs.staged = s.regs.staged ∧ (∀ d, d ≠ b → t.regs.bank d = s.regs.bank d) ∧
      OnlyChanges (if b = .linkPlan then [.regs, .hub, .link, .out] else [.regs]) s t)) ∧
  (∀ (b : Bank) (tag : Nat) (s : State), s.bankReached b = true →
    ((valueRules b (s.under (s.regs.snapshot b)) (s.regs.known b)).all (fun r => !r.1)) = true →
    s.unitsOf (s.regs.snapshot b) ≠ [] → atOnce b = false →
    Completes (exec (.bankCommitGo b tag) s) (fun t => (t.regs.bank b).state = 1 ∧ (t.regs.bank b).tag = tag % 65536 ∧
      (t.regs.bank b).superseded = ((s.regs.bank b).superseded || (s.regs.bank b).pending.isSome) ∧
      (t.regs.bank b).pending = some (s.regs.snapshot b, s.unitsOf (s.regs.snapshot b)) ∧ t.regs.active = s.regs.active ∧
      t.regs.staged = s.regs.staged ∧ (∀ d, d ≠ b → t.regs.bank d = s.regs.bank d) ∧
      OnlyChanges (if b = .ring then [.regs, .rings] else [.regs]) s t)) ∧
  (∀ (b : Bank) (tag : Nat) (r : BankRule) (s : State), s.bankReached b = true →
    (valueRules b (s.under (s.regs.snapshot b)) (s.regs.known b)).find? (fun r => r.1) = some r →
    Completes (exec (.bankCommitGo b tag) s) (fun t => (t.regs.bank b).state = 3 ∧ (t.regs.bank b).tag = tag % 65536 ∧
      (t.regs.bank b).fault = chargedOffset (s.changedBy (s.regs.snapshot b)) r ∧ (t.regs.bank b).pending = none ∧
      t.regs.active = s.regs.active ∧ t.regs.staged = s.regs.staged ∧ (∀ d, d ≠ b → t.regs.bank d = s.regs.bank d) ∧
      OnlyChanges [.regs, .rings, .cxl, .mss, .hub] s t)) ∧
  (∀ (b : Bank) (u : Nat) (snap : AL Nat Word) (s : State), s.safePoint b u = true →
    (s.regs.bank b).pending = some (snap, [u]) → (snap.map (fun e => e.1)).Nodup →
    (b = .memPol → s.mem.hardFaults = []) → (b = .linkPol → ∀ p : PortId, (s.port p).state < 2 ∨ 4 < (s.port p).state) → ((s.stateRules b u (s.under snap)).all (fun r => !r.1)) = true →
    Completes (exec (.bankSafePointApply b u) s) (fun t => (t.regs.bank b).state = 2 ∧ (t.regs.bank b).pending = none ∧
      (∀ a, (regInfo a).map (fun i => i.unit) = some u → t.regs.val a = AL.get (s.regs.val a) a snap) ∧
      (∀ a, (regInfo a).map (fun i => i.unit) ≠ some u → t.regs.val a = s.regs.val a) ∧
      (∀ d, d ≠ b → t.regs.bank d = s.regs.bank d) ∧ t.regs.staged = s.regs.staged ∧
      OnlyChanges (.regs :: (match b with
        | .memPart => [.mem, .rings, .cxl, .mss, .hub]
        | .linkPlan => [.hub, .link, .out]
        | .ring => [.rings]
        | _ => [])) s t)) ∧
  (∀ (b : Bank) (u : Nat) (snap : AL Nat Word) (us : List Nat) (r : BankRule) (s : State), s.safePoint b u = true →
    (s.regs.bank b).pending = some (snap, us) → u ∈ us → (s.stateRules b u (s.under snap)).find? (fun r => r.1) = some r →
    Completes (exec (.bankSafePointApply b u) s) (fun t => (t.regs.bank b).state = 3 ∧ (t.regs.bank b).pending = none ∧
      (t.regs.bank b).fault = chargedOffset (s.changedBy snap) r ∧ t.regs.active = s.regs.active ∧
      t.regs.staged = s.regs.staged ∧ OnlyChanges [.regs, .rings, .cxl, .mss, .hub] s t)) ∧
  (∀ (b : Bank) (u : Nat) (s : State), s.safePoint b u = false ∨ (s.regs.bank b).pending = none →
    exec (.bankSafePointApply b u) s = .next s) ∧
  (∀ (b : Bank) (s : State), s.bankReached b = true → Completes (exec (.bankCommitDiscard b) s) (fun t =>
      (∀ a, bankOf a = some b → t.regs.stg a = s.regs.val a) ∧ (∀ a, bankOf a ≠ some b → t.regs.stg a = s.regs.stg a) ∧
      t.regs.active = s.regs.active ∧ t.regs.banks = s.regs.banks ∧ OnlyChanges [.regs] s t)) ∧
  (∀ (b : Bank) (s : State), s.bankReached b = true → Completes (exec (.bstatSupersededClear b) s) (fun t =>
      t.regs.bank b = { s.regs.bank b with superseded := false } ∧ (∀ d, d ≠ b → t.regs.bank d = s.regs.bank d) ∧
      t.regs.active = s.regs.active ∧ t.regs.staged = s.regs.staged ∧ OnlyChanges [.regs] s t)) ∧
  (∀ s : State, s.barServes 0x110 = true → Completes (exec .hubTimeLoRead s) (fun t =>
      t.readReg 0x114 = BitVec.ofNat 32 (s.now / 2 ^ 32) ∧ t.readReg 0x110 = BitVec.ofNat 32 (s.now % 2 ^ 32) ∧
      t.now = s.now ∧ OnlyChanges [.hub] s t)) ∧
  (∀ (w : Word) (s : State), s.hub.power ≠ .dormant → s.mssRuns = true → s.hub.toMss = [] →
    s.hub.fromMss = [] → s.hub.postWait = [] → s.regs.mssHeld = [] →
    Completes (exec (.profileGo w) s) (fun t =>
      t.mss.select.val = w.toNat % 4 ∧
      t.mss.selecting = (if bitOf w.toNat 2 then some (Fin.ofNat 4 w.toNat) else s.mss.selecting) ∧
      t.mss.profile = s.mss.profile ∧ t.mss.activeSlot = s.mss.activeSlot ∧ OnlyChanges [.mss] s t)) ∧
  (∀ (a : Nat) (v : Word) (s : State), s.hub.power ≠ .dormant → s.mssRuns = false → blockOf a = 10 → offsetOf a < 0x100000 → s.hub.toMss.length < 64 →
    s.hub.fromMss = [] → s.hub.postWait = [] → s.regs.mssHeld = [] →
    Completes (exec (.mssRegisterWrite a v) s) (fun t => t.hub.toMss = s.hub.toMss ++ [.regWrite a v] ∧ t.regs = s.regs ∧
      OnlyChanges [.hub] s t)) ∧
  (∀ (a : Nat) (v : Word) (s : State), s.hub.power ≠ .dormant → s.mssRuns = false → blockOf a = 10 → offsetOf a < 0x100000 → 64 ≤ s.hub.toMss.length →
    s.hub.fromMss = [] → s.hub.postWait = [] → s.regs.mssHeld.length < 16 →
    Completes (exec (.mssRegisterWrite a v) s) (fun t => t.regs.mssHeld = s.regs.mssHeld ++ [(a, v)] ∧
      t.hub.toMss = s.hub.toMss ∧ t.regs.active = s.regs.active ∧ t.regs.staged = s.regs.staged ∧
      t.regs.mssDrops = s.regs.mssDrops ∧ OnlyChanges [.regs, .hub] s t)) ∧
  (∀ (a : Nat) (v : Word) (s : State), s.hub.power ≠ .dormant → s.mssRuns = false → blockOf a = 10 → offsetOf a < 0x100000 → s.hub.fromMss = [] →
    s.hub.postWait = [] → s.regs.mssHeld.length = 16 →
    Completes (exec (.mssRegisterWrite a v) s) (fun t => t.regs.mssHeld = s.regs.mssHeld ∧
      t.regs.mssDrops = min 65535 (s.regs.mssDrops + 1) ∧ t.hub.toMss = s.hub.toMss ∧ OnlyChanges [.regs, .hub] s t)) ∧
  (∀ (a : Nat) (v : Word) (i : RegInfo) (s : State), s.hub.power ≠ .dormant → s.mssRuns = true → blockOf a = 10 → offsetOf a < 0x100000 →
    regInfo a = some i → s.hub.toMss = [] → s.hub.fromMss = [] → s.hub.postWait = [] → s.regs.mssHeld = [] →
    Completes (exec (.mssRegisterWrite a v) s) (fun t =>
      t.regs.stg a = (v &&& BitVec.ofNat 32 i.mask) ||| (s.regs.stg a &&& ~~~(BitVec.ofNat 32 i.mask)) ∧
      t.regs.active = s.regs.active ∧ t.hub.toMss = [] ∧ OnlyChanges [.regs, .hub] s t))

/-- The steward's rewrites of routing entries reach the active, staging and pending copies at once, and no pending RT commit
undoes them. At a route update from the steward, every entry whose PORT the update changes has the new PORT in the active
copy, in the staging copy and in the pending snapshot of the RT bank, where one is pending; the entry of the rebound identity
has the port towards the spare in all three. Whenever the pending commit then comes to its safe point, the entry keeps that
PORT. Each clause that says so has as its conclusion that exec answers a next state; it does for: routeUpdateReceive,
bankSafePointApply. -/
def Obligations.RoutingRewritesStay : Prop :=
  (∀ (c : CtxId) (issuer ident spare : ModNo) (gw : List (Nat × Nat)) (k : Nat) (s : State), s.tableOf c = some k →
    ((s.regs.bank .rt).pending.all (fun e => decide ((e.1.map (fun x => x.1)).Nodup))) = true →
    Completes (exec (.routeUpdateReceive c issuer ident spare gw) s) (fun t =>
      (t.regs.bank .rt).pending.isSome = (s.regs.bank .rt).pending.isSome ∧
      (∀ d, d < 4096 → bitsOf (t.reg (aRtEntry k d)) 5 0 ≠ bitsOf (s.reg (aRtEntry k d)) 5 0 →
        (bitsOf (t.regs.stg (aRtEntry k d)).toNat 5 0 = bitsOf (t.reg (aRtEntry k d)) 5 0 ∧
        (∀ e, (t.regs.bank .rt).pending = some e →
          bitsOf (AL.get 0 (aRtEntry k d) e.1).toNat 5 0 = bitsOf (t.reg (aRtEntry k d)) 5 0) ∧
        (∀ u, Completes (exec (.bankSafePointApply .rt u) t) (fun w =>
          bitsOf (w.reg (aRtEntry k d)) 5 0 = bitsOf (t.reg (aRtEntry k d)) 5 0)))))) ∧
  (∀ (c : CtxId) (issuer ident spare : ModNo) (gw : List (Nat × Nat)) (k : Nat) (q : PortId) (s : State), s.tableOf c = some k →
    s.fromSteward c issuer.val none = true → spare.val ≠ s.phys → s.portTo spare.val = some q →
    ((s.regs.bank .rt).pending.all (fun e => decide ((e.1.map (fun x => x.1)).Nodup))) = true →
    Completes (exec (.routeUpdateReceive c issuer ident spare gw) s) (fun t =>
      bitsOf (t.reg (aRtEntry k ident.val)) 5 0 = q.val ∧ bitsOf (t.regs.stg (aRtEntry k ident.val)).toNat 5 0 = q.val ∧
      (∀ e, (t.regs.bank .rt).pending = some e → bitsOf (AL.get 0 (aRtEntry k ident.val) e.1).toNat 5 0 = q.val) ∧
      (∀ u, Completes (exec (.bankSafePointApply .rt u) t) (fun w => bitsOf (w.reg (aRtEntry k ident.val)) 5 0 = q.val))))

/-- What reset leaves. Right after reset the state is sound: HBM is in its canonical form (which byte it reads as is the
model's choice, log entry 4) and every ceiling is at 28. Every bank is at STATE 0 with its staging copy equal to its active
values, every context is closed and holds no program, no host port is up and every PERST reads asserted, the security state is
SECURE, no profile is in use (the secure flash is empty: the model's choice, log entry 2), start-up has not reached Ready, and
no command waits. -/
def Obligations.ResetState : Prop :=
  State.Sound State.reset ∧ (∀ a : Nat, hbmRead State.reset.mem.hbm a = hbmBlank) ∧
  (∀ b : Bank, (State.reset.regs.bank b).state = 0 ∧ (State.reset.regs.bank b).pending = none) ∧
  (∀ a : Nat, State.reset.regs.stg a = State.reset.regs.val a ∧ State.reset.regs.val a = regReset a) ∧
  (∀ c : CtxId, State.reset.ctxState c = 0 ∧ (State.reset.ctx c).prog = none) ∧
  (∀ p : HostPort, (State.reset.cxlPort p).up = false ∧ (State.reset.cxlPort p).perst = true) ∧
  (∀ d : Nat, d < 4 → State.reset.ceiling d = 28) ∧
  State.reset.mss.security = .secure ∧ State.reset.mss.pufLocked = false ∧ State.reset.mss.selecting = none ∧
  State.reset.mss.profile = none ∧ State.reset.hub.firstReady = false ∧ State.reset.pending = []

/-- Every step leaves a sound state sound. If HBM is in its canonical form (addresses rising, no cell at the blank value,
which is the model's choice, log entry 4) and the governor's ceilings of all four dies lie in their range, a step answers a
next state of which the same holds, whatever command is at the front of the queue. -/
def Obligations.SoundKept : Prop :=
  (∀ s : State, s.Sound → Completes (step s) (fun t => t.Sound))

/-- No step lowers the security version counter, takes a core off the pruned list but by its release, or changes the security
state but as R417 lets it change. Whatever command is at the front of the queue: the counter does not fall; a core leaves the
pruned list only by RELEASE_PRUNED_CORE of that core, with no program loaded, after it passed a full field test, or as the
command processor takes such a release that waited for its reset; the security state leaves SECURE only with the erasure (no
session, no IDE stream, identity key gone, PUF path locked) and DEBUG or TEST only by a cold reset into SECURE; the identity
key comes back, and the PUF path is unlocked, only by a cold reset. -/
def Obligations.SecurityKept : Prop :=
  (∀ s : State, Completes (step s) (fun t =>
    s.mss.counter ≤ t.mss.counter ∧
    (∀ k, k ∈ s.cores.pruned → k ∉ t.cores.pruned →
      ((s.pending.head? = some (.releasePrunedCore k) ∧ s.anyLoaded = false ∧ (s.core k).passedFull = true) ∨
        .releaseCore k ∈ s.hub.fromMss ∨ (false, .releaseCore k) ∈ s.hub.postWait)) ∧
    (s.mss.security = .secure → t.mss.security ≠ .secure →
      (t.mss.idKey = false ∧ t.mss.pufLocked = true ∧ t.mss.sessions = [] ∧ t.mss.ideOn = [])) ∧
    (s.mss.security ≠ .secure → t.mss.security ≠ s.mss.security →
      (t.mss.security = .secure ∧ s.hub.coldCount < t.hub.coldCount)) ∧
    (s.mss.idKey = false → t.mss.idKey = true → s.hub.coldCount < t.hub.coldCount) ∧
    (s.mss.pufLocked = true → t.mss.pufLocked = false → s.hub.coldCount < t.hub.coldCount)))
end

