-- ==== Sys2Proof/Laws/State.lean ====
section
/-! SUPPORT. The small laws of the state: association lists, and what each named update leaves as it was. -/

namespace Sys2Proof.Machine

/-! ## Association lists -/

section
variable {α β : Type} [DecidableEq α]

/-- A key reads what was set there. -/
@[simp] theorem AL_get_set_same (d : β) (k : α) (v : β) (m : AL α β) : AL.get d k (AL.set k v m) = v := by
  induction m with
  | nil => simp [AL.set, AL.get]
  | cons e m ih =>
    by_cases h : e.1 = k
    · simp [AL.set, AL.get, h]
    · simp [AL.set, AL.get, h, ih]

/-- Another key reads what it read. -/
@[simp] theorem AL_get_set_other (d : β) {k k' : α} (h : k' ≠ k) (v : β) (m : AL α β) :
    AL.get d k (AL.set k' v m) = AL.get d k m := by
  induction m with
  | nil => simp [AL.set, AL.get, h]
  | cons e m ih =>
    by_cases h' : e.1 = k'
    · have hk : e.1 ≠ k := fun x => h (h' ▸ x)
      simp [AL.set, AL.get, h', h]
    · simp only [AL.set, h', if_false, AL.get]
      split
      · rfl
      · exact ih

/-- A key reads its changed value. -/
@[simp] theorem AL_get_upd_same (d : β) (k : α) (f : β → β) (m : AL α β) : AL.get d k (AL.upd d k f m) = f (AL.get d k m) := by
  simp [AL.upd]

/-- Another key reads what it read. -/
@[simp] theorem AL_get_upd_other (d : β) {k k' : α} (h : k' ≠ k) (f : β → β) (m : AL α β) :
    AL.get d k (AL.upd d k' f m) = AL.get d k m := by
  simp [AL.upd, h]

end

/-! ## Access after an update -/

@[simp] theorem State.ctx_updCtx_same (s : State) (c : CtxId) (f : Ctx → Ctx) : (s.updCtx c f).ctx c = f (s.ctx c) := by
  simp [State.ctx, State.updCtx]
@[simp] theorem State.ctx_updCtx_other (s : State) {c d : CtxId} (h : c ≠ d) (f : Ctx → Ctx) :
    (s.updCtx c f).ctx d = s.ctx d := by
  simp [State.ctx, State.updCtx, h]
@[simp] theorem State.ring_updRing_same (s : State) (i : SetId) (f : RingSet → RingSet) : (s.updRing i f).ring i = f (s.ring i) := by
  simp [State.ring, State.updRing]
@[simp] theorem State.ring_updRing_other (s : State) {i j : SetId} (h : i ≠ j) (f : RingSet → RingSet) :
    (s.updRing i f).ring j = s.ring j := by
  simp [State.ring, State.updRing, h]
@[simp] theorem State.core_updCore_same (s : State) (k : CoreId) (f : CoreSt → CoreSt) : (s.updCore k f).core k = f (s.core k) := by
  simp [State.core, State.updCore]
@[simp] theorem State.core_updCore_other (s : State) {k l : CoreId} (h : k ≠ l) (f : CoreSt → CoreSt) :
    (s.updCore k f).core l = s.core l := by
  simp [State.core, State.updCore, h]
@[simp] theorem State.port_updPort_same (s : State) (p : PortId) (f : PortSt → PortSt) : (s.updPort p f).port p = f (s.port p) := by
  simp [State.port, State.updPort]
@[simp] theorem State.port_updPort_other (s : State) {p q : PortId} (h : p ≠ q) (f : PortSt → PortSt) :
    (s.updPort p f).port q = s.port q := by
  simp [State.port, State.updPort, h]
@[simp] theorem State.dom_updDom_same (s : State) (d : Domain) (f : DomSt → DomSt) : (s.updDom d f).dom d = f (s.dom d) := by
  simp [State.dom, State.updDom]
@[simp] theorem State.dom_updDom_other (s : State) {d e : Domain} (h : d ≠ e) (f : DomSt → DomSt) :
    (s.updDom d f).dom e = s.dom e := by
  simp [State.dom, State.updDom, h]
@[simp] theorem State.cxlPort_updCxl_same (s : State) (p : HostPort) (f : CxlPort → CxlPort) :
    (s.updCxl p f).cxlPort p = f (s.cxlPort p) := by
  cases p <;> rfl
@[simp] theorem State.cxlPort_updCxl_other (s : State) (p : HostPort) (f : CxlPort → CxlPort) :
    (s.updCxl p f).cxlPort (otherPort p) = s.cxlPort (otherPort p) := by
  cases p <;> rfl

/-! ## What each update leaves as it was -/

@[simp] theorem State.updCtx_regs (s : State) (c : CtxId) (f : Ctx → Ctx) : (s.updCtx c f).regs = s.regs := rfl
@[simp] theorem State.updCtx_hub (s : State) (c : CtxId) (f : Ctx → Ctx) : (s.updCtx c f).hub = s.hub := rfl
@[simp] theorem State.updCtx_rings (s : State) (c : CtxId) (f : Ctx → Ctx) : (s.updCtx c f).rings = s.rings := rfl
@[simp] theorem State.updCtx_cxl (s : State) (c : CtxId) (f : Ctx → Ctx) : (s.updCtx c f).cxl = s.cxl := rfl
@[simp] theorem State.updCtx_mem (s : State) (c : CtxId) (f : Ctx → Ctx) : (s.updCtx c f).mem = s.mem := rfl
@[simp] theorem State.updCtx_cores (s : State) (c : CtxId) (f : Ctx → Ctx) : (s.updCtx c f).cores = s.cores := rfl
@[simp] theorem State.updCtx_link (s : State) (c : CtxId) (f : Ctx → Ctx) : (s.updCtx c f).link = s.link := rfl
@[simp] theorem State.updCtx_grove (s : State) (c : CtxId) (f : Ctx → Ctx) : (s.updCtx c f).grove = s.grove := rfl
@[simp] theorem State.updCtx_ckpt (s : State) (c : CtxId) (f : Ctx → Ctx) : (s.updCtx c f).ckpt = s.ckpt := rfl
@[simp] theorem State.updCtx_mss (s : State) (c : CtxId) (f : Ctx → Ctx) : (s.updCtx c f).mss = s.mss := rfl
@[simp] theorem State.updCtx_gov (s : State) (c : CtxId) (f : Ctx → Ctx) : (s.updCtx c f).gov = s.gov := rfl
@[simp] theorem State.updCtx_guest (s : State) (c : CtxId) (f : Ctx → Ctx) : (s.updCtx c f).guest = s.guest := rfl
@[simp] theorem State.updCtx_out (s : State) (c : CtxId) (f : Ctx → Ctx) : (s.updCtx c f).out = s.out := rfl
@[simp] theorem State.updCtx_pending (s : State) (c : CtxId) (f : Ctx → Ctx) : (s.updCtx c f).pending = s.pending := rfl
@[simp] theorem State.updRing_regs (s : State) (i : SetId) (f : RingSet → RingSet) : (s.updRing i f).regs = s.regs := rfl
@[simp] theorem State.updRing_hub (s : State) (i : SetId) (f : RingSet → RingSet) : (s.updRing i f).hub = s.hub := rfl
@[simp] theorem State.updRing_ctxs (s : State) (i : SetId) (f : RingSet → RingSet) : (s.updRing i f).ctxs = s.ctxs := rfl
@[simp] theorem State.updRing_cxl (s : State) (i : SetId) (f : RingSet → RingSet) : (s.updRing i f).cxl = s.cxl := rfl
@[simp] theorem State.updRing_mem (s : State) (i : SetId) (f : RingSet → RingSet) : (s.updRing i f).mem = s.mem := rfl
@[simp] theorem State.updRing_cores (s : State) (i : SetId) (f : RingSet → RingSet) : (s.updRing i f).cores = s.cores := rfl
@[simp] theorem State.updRing_link (s : State) (i : SetId) (f : RingSet → RingSet) : (s.updRing i f).link = s.link := rfl
@[simp] theorem State.updRing_grove (s : State) (i : SetId) (f : RingSet → RingSet) : (s.updRing i f).grove = s.grove := rfl
@[simp] theorem State.updRing_ckpt (s : State) (i : SetId) (f : RingSet → RingSet) : (s.updRing i f).ckpt = s.ckpt := rfl
@[simp] theorem State.updRing_mss (s : State) (i : SetId) (f : RingSet → RingSet) : (s.updRing i f).mss = s.mss := rfl
@[simp] theorem State.updRing_gov (s : State) (i : SetId) (f : RingSet → RingSet) : (s.updRing i f).gov = s.gov := rfl
@[simp] theorem State.updRing_guest (s : State) (i : SetId) (f : RingSet → RingSet) : (s.updRing i f).guest = s.guest := rfl
@[simp] theorem State.updRing_out (s : State) (i : SetId) (f : RingSet → RingSet) : (s.updRing i f).out = s.out := rfl
@[simp] theorem State.updRing_pending (s : State) (i : SetId) (f : RingSet → RingSet) : (s.updRing i f).pending = s.pending := rfl
@[simp] theorem State.updCore_regs (s : State) (k : CoreId) (f : CoreSt → CoreSt) : (s.updCore k f).regs = s.regs := rfl
@[simp] theorem State.updCore_hub (s : State) (k : CoreId) (f : CoreSt → CoreSt) : (s.updCore k f).hub = s.hub := rfl
@[simp] theorem State.updCore_rings (s : State) (k : CoreId) (f : CoreSt → CoreSt) : (s.updCore k f).rings = s.rings := rfl
@[simp] theorem State.updCore_ctxs (s : State) (k : CoreId) (f : CoreSt → CoreSt) : (s.updCore k f).ctxs = s.ctxs := rfl
@[simp] theorem State.updCore_cxl (s : State) (k : CoreId) (f : CoreSt → CoreSt) : (s.updCore k f).cxl = s.cxl := rfl
@[simp] theorem State.updCore_mem (s : State) (k : CoreId) (f : CoreSt → CoreSt) : (s.updCore k f).mem = s.mem := rfl
@[simp] theorem State.updCore_link (s : State) (k : CoreId) (f : CoreSt → CoreSt) : (s.updCore k f).link = s.link := rfl
@[simp] theorem State.updCore_grove (s : State) (k : CoreId) (f : CoreSt → CoreSt) : (s.updCore k f).grove = s.grove := rfl
@[simp] theorem State.updCore_ckpt (s : State) (k : CoreId) (f : CoreSt → CoreSt) : (s.updCore k f).ckpt = s.ckpt := rfl
@[simp] theorem State.updCore_mss (s : State) (k : CoreId) (f : CoreSt → CoreSt) : (s.updCore k f).mss = s.mss := rfl
@[simp] theorem State.updCore_gov (s : State) (k : CoreId) (f : CoreSt → CoreSt) : (s.updCore k f).gov = s.gov := rfl
@[simp] theorem State.updCore_guest (s : State) (k : CoreId) (f : CoreSt → CoreSt) : (s.updCore k f).guest = s.guest := rfl
@[simp] theorem State.updCore_out (s : State) (k : CoreId) (f : CoreSt → CoreSt) : (s.updCore k f).out = s.out := rfl
@[simp] theorem State.updCore_pending (s : State) (k : CoreId) (f : CoreSt → CoreSt) : (s.updCore k f).pending = s.pending := rfl
@[simp] theorem State.updPort_regs (s : State) (p : PortId) (f : PortSt → PortSt) : (s.updPort p f).regs = s.regs := rfl
@[simp] theorem State.updPort_hub (s : State) (p : PortId) (f : PortSt → PortSt) : (s.updPort p f).hub = s.hub := rfl
@[simp] theorem State.updPort_rings (s : State) (p : PortId) (f : PortSt → PortSt) : (s.updPort p f).rings = s.rings := rfl
@[simp] theorem State.updPort_ctxs (s : State) (p : PortId) (f : PortSt → PortSt) : (s.updPort p f).ctxs = s.ctxs := rfl
@[simp] theorem State.updPort_cxl (s : State) (p : PortId) (f : PortSt → PortSt) : (s.updPort p f).cxl = s.cxl := rfl
@[simp] theorem State.updPort_mem (s : State) (p : PortId) (f : PortSt → PortSt) : (s.updPort p f).mem = s.mem := rfl
@[simp] theorem State.updPort_cores (s : State) (p : PortId) (f : PortSt → PortSt) : (s.updPort p f).cores = s.cores := rfl
@[simp] theorem State.updPort_grove (s : State) (p : PortId) (f : PortSt → PortSt) : (s.updPort p f).grove = s.grove := rfl
@[simp] theorem State.updPort_ckpt (s : State) (p : PortId) (f : PortSt → PortSt) : (s.updPort p f).ckpt = s.ckpt := rfl
@[simp] theorem State.updPort_mss (s : State) (p : PortId) (f : PortSt → PortSt) : (s.updPort p f).mss = s.mss := rfl
@[simp] theorem State.updPort_gov (s : State) (p : PortId) (f : PortSt → PortSt) : (s.updPort p f).gov = s.gov := rfl
@[simp] theorem State.updPort_guest (s : State) (p : PortId) (f : PortSt → PortSt) : (s.updPort p f).guest = s.guest := rfl
@[simp] theorem State.updPort_out (s : State) (p : PortId) (f : PortSt → PortSt) : (s.updPort p f).out = s.out := rfl
@[simp] theorem State.updPort_pending (s : State) (p : PortId) (f : PortSt → PortSt) : (s.updPort p f).pending = s.pending := rfl
@[simp] theorem State.updDom_regs (s : State) (d : Domain) (f : DomSt → DomSt) : (s.updDom d f).regs = s.regs := rfl
@[simp] theorem State.updDom_rings (s : State) (d : Domain) (f : DomSt → DomSt) : (s.updDom d f).rings = s.rings := rfl
@[simp] theorem State.updDom_ctxs (s : State) (d : Domain) (f : DomSt → DomSt) : (s.updDom d f).ctxs = s.ctxs := rfl
@[simp] theorem State.updDom_cxl (s : State) (d : Domain) (f : DomSt → DomSt) : (s.updDom d f).cxl = s.cxl := rfl
@[simp] theorem State.updDom_mem (s : State) (d : Domain) (f : DomSt → DomSt) : (s.updDom d f).mem = s.mem := rfl
@[simp] theorem State.updDom_cores (s : State) (d : Domain) (f : DomSt → DomSt) : (s.updDom d f).cores = s.cores := rfl
@[simp] theorem State.updDom_link (s : State) (d : Domain) (f : DomSt → DomSt) : (s.updDom d f).link = s.link := rfl
@[simp] theorem State.updDom_grove (s : State) (d : Domain) (f : DomSt → DomSt) : (s.updDom d f).grove = s.grove := rfl
@[simp] theorem State.updDom_ckpt (s : State) (d : Domain) (f : DomSt → DomSt) : (s.updDom d f).ckpt = s.ckpt := rfl
@[simp] theorem State.updDom_mss (s : State) (d : Domain) (f : DomSt → DomSt) : (s.updDom d f).mss = s.mss := rfl
@[simp] theorem State.updDom_gov (s : State) (d : Domain) (f : DomSt → DomSt) : (s.updDom d f).gov = s.gov := rfl
@[simp] theorem State.updDom_guest (s : State) (d : Domain) (f : DomSt → DomSt) : (s.updDom d f).guest = s.guest := rfl
@[simp] theorem State.updDom_out (s : State) (d : Domain) (f : DomSt → DomSt) : (s.updDom d f).out = s.out := rfl
@[simp] theorem State.updDom_pending (s : State) (d : Domain) (f : DomSt → DomSt) : (s.updDom d f).pending = s.pending := rfl
@[simp] theorem State.send_regs (s : State) (m : Msg) : (s.send m).regs = s.regs := rfl
@[simp] theorem State.send_hub (s : State) (m : Msg) : (s.send m).hub = s.hub := rfl
@[simp] theorem State.send_rings (s : State) (m : Msg) : (s.send m).rings = s.rings := rfl
@[simp] theorem State.send_ctxs (s : State) (m : Msg) : (s.send m).ctxs = s.ctxs := rfl
@[simp] theorem State.send_cxl (s : State) (m : Msg) : (s.send m).cxl = s.cxl := rfl
@[simp] theorem State.send_mem (s : State) (m : Msg) : (s.send m).mem = s.mem := rfl
@[simp] theorem State.send_cores (s : State) (m : Msg) : (s.send m).cores = s.cores := rfl
@[simp] theorem State.send_link (s : State) (m : Msg) : (s.send m).link = s.link := rfl
@[simp] theorem State.send_grove (s : State) (m : Msg) : (s.send m).grove = s.grove := rfl
@[simp] theorem State.send_ckpt (s : State) (m : Msg) : (s.send m).ckpt = s.ckpt := rfl
@[simp] theorem State.send_mss (s : State) (m : Msg) : (s.send m).mss = s.mss := rfl
@[simp] theorem State.send_gov (s : State) (m : Msg) : (s.send m).gov = s.gov := rfl
@[simp] theorem State.send_guest (s : State) (m : Msg) : (s.send m).guest = s.guest := rfl
@[simp] theorem State.send_pending (s : State) (m : Msg) : (s.send m).pending = s.pending := rfl
@[simp] theorem State.addLog_regs (s : State) (a : LogSource) (b : Severity) (c : Status) (d : List Nat) (e : Option Signature) : (s.addLog a b c d e).regs = s.regs := by
  unfold State.addLog State.postMbox; dsimp only; (repeat' split) <;> rfl
@[simp] theorem State.addLog_rings (s : State) (a : LogSource) (b : Severity) (c : Status) (d : List Nat) (e : Option Signature) : (s.addLog a b c d e).rings = s.rings := by
  unfold State.addLog State.postMbox; dsimp only; (repeat' split) <;> rfl
@[simp] theorem State.addLog_ctxs (s : State) (a : LogSource) (b : Severity) (c : Status) (d : List Nat) (e : Option Signature) : (s.addLog a b c d e).ctxs = s.ctxs := by
  unfold State.addLog State.postMbox; dsimp only; (repeat' split) <;> rfl
@[simp] theorem State.addLog_cxl (s : State) (a : LogSource) (b : Severity) (c : Status) (d : List Nat) (e : Option Signature) : (s.addLog a b c d e).cxl = s.cxl := by
  unfold State.addLog State.postMbox; dsimp only; (repeat' split) <;> rfl
@[simp] theorem State.addLog_mem (s : State) (a : LogSource) (b : Severity) (c : Status) (d : List Nat) (e : Option Signature) : (s.addLog a b c d e).mem = s.mem := by
  unfold State.addLog State.postMbox; dsimp only; (repeat' split) <;> rfl
@[simp] theorem State.addLog_cores (s : State) (a : LogSource) (b : Severity) (c : Status) (d : List Nat) (e : Option Signature) : (s.addLog a b c d e).cores = s.cores := by
  unfold State.addLog State.postMbox; dsimp only; (repeat' split) <;> rfl
@[simp] theorem State.addLog_link (s : State) (a : LogSource) (b : Severity) (c : Status) (d : List Nat) (e : Option Signature) : (s.addLog a b c d e).link = s.link := by
  unfold State.addLog State.postMbox; dsimp only; (repeat' split) <;> rfl
@[simp] theorem State.addLog_grove (s : State) (a : LogSource) (b : Severity) (c : Status) (d : List Nat) (e : Option Signature) : (s.addLog a b c d e).grove = s.grove := by
  unfold State.addLog State.postMbox; dsimp only; (repeat' split) <;> rfl
@[simp] theorem State.addLog_ckpt (s : State) (a : LogSource) (b : Severity) (c : Status) (d : List Nat) (e : Option Signature) : (s.addLog a b c d e).ckpt = s.ckpt := by
  unfold State.addLog State.postMbox; dsimp only; (repeat' split) <;> rfl
@[simp] theorem State.addLog_gov (s : State) (a : LogSource) (b : Severity) (c : Status) (d : List Nat) (e : Option Signature) : (s.addLog a b c d e).gov = s.gov := by
  unfold State.addLog State.postMbox; dsimp only; (repeat' split) <;> rfl
@[simp] theorem State.addLog_guest (s : State) (a : LogSource) (b : Severity) (c : Status) (d : List Nat) (e : Option Signature) : (s.addLog a b c d e).guest = s.guest := by
  unfold State.addLog State.postMbox; dsimp only; (repeat' split) <;> rfl
@[simp] theorem State.addLog_out (s : State) (a : LogSource) (b : Severity) (c : Status) (d : List Nat) (e : Option Signature) : (s.addLog a b c d e).out = s.out := by
  unfold State.addLog State.postMbox; dsimp only; (repeat' split) <;> rfl
@[simp] theorem State.addLog_pending (s : State) (a : LogSource) (b : Severity) (c : Status) (d : List Nat) (e : Option Signature) : (s.addLog a b c d e).pending = s.pending := by
  unfold State.addLog State.postMbox; dsimp only; (repeat' split) <;> rfl
@[simp] theorem State.hbmPut_regs (s : State) (x : Nat) (bs : List Byte) : (s.hbmPut x bs).regs = s.regs := rfl
@[simp] theorem State.hbmPut_hub (s : State) (x : Nat) (bs : List Byte) : (s.hbmPut x bs).hub = s.hub := rfl
@[simp] theorem State.hbmPut_rings (s : State) (x : Nat) (bs : List Byte) : (s.hbmPut x bs).rings = s.rings := rfl
@[simp] theorem State.hbmPut_ctxs (s : State) (x : Nat) (bs : List Byte) : (s.hbmPut x bs).ctxs = s.ctxs := rfl
@[simp] theorem State.hbmPut_cxl (s : State) (x : Nat) (bs : List Byte) : (s.hbmPut x bs).cxl = s.cxl := rfl
@[simp] theorem State.hbmPut_cores (s : State) (x : Nat) (bs : List Byte) : (s.hbmPut x bs).cores = s.cores := rfl
@[simp] theorem State.hbmPut_link (s : State) (x : Nat) (bs : List Byte) : (s.hbmPut x bs).link = s.link := rfl
@[simp] theorem State.hbmPut_grove (s : State) (x : Nat) (bs : List Byte) : (s.hbmPut x bs).grove = s.grove := rfl
@[simp] theorem State.hbmPut_ckpt (s : State) (x : Nat) (bs : List Byte) : (s.hbmPut x bs).ckpt = s.ckpt := rfl
@[simp] theorem State.hbmPut_mss (s : State) (x : Nat) (bs : List Byte) : (s.hbmPut x bs).mss = s.mss := rfl
@[simp] theorem State.hbmPut_gov (s : State) (x : Nat) (bs : List Byte) : (s.hbmPut x bs).gov = s.gov := rfl
@[simp] theorem State.hbmPut_guest (s : State) (x : Nat) (bs : List Byte) : (s.hbmPut x bs).guest = s.guest := rfl
@[simp] theorem State.hbmPut_out (s : State) (x : Nat) (bs : List Byte) : (s.hbmPut x bs).out = s.out := rfl
@[simp] theorem State.hbmPut_pending (s : State) (x : Nat) (bs : List Byte) : (s.hbmPut x bs).pending = s.pending := rfl
@[simp] theorem State.tick_regs (s : State)  : (s.tick).regs = s.regs := rfl
@[simp] theorem State.tick_rings (s : State)  : (s.tick).rings = s.rings := rfl
@[simp] theorem State.tick_ctxs (s : State)  : (s.tick).ctxs = s.ctxs := rfl
@[simp] theorem State.tick_mem (s : State)  : (s.tick).mem = s.mem := rfl
@[simp] theorem State.tick_cores (s : State)  : (s.tick).cores = s.cores := rfl
@[simp] theorem State.tick_link (s : State)  : (s.tick).link = s.link := rfl
@[simp] theorem State.tick_grove (s : State)  : (s.tick).grove = s.grove := rfl
@[simp] theorem State.tick_ckpt (s : State)  : (s.tick).ckpt = s.ckpt := rfl
@[simp] theorem State.tick_mss (s : State)  : (s.tick).mss = s.mss := rfl
@[simp] theorem State.tick_gov (s : State)  : (s.tick).gov = s.gov := rfl
@[simp] theorem State.tick_guest (s : State)  : (s.tick).guest = s.guest := rfl
@[simp] theorem State.tick_out (s : State)  : (s.tick).out = s.out := rfl
@[simp] theorem State.tick_pending (s : State)  : (s.tick).pending = s.pending := rfl
@[simp] theorem State.updCxl_regs (s : State) (p : HostPort) (f : CxlPort → CxlPort) : (s.updCxl p f).regs = s.regs := by
  cases p <;> rfl
@[simp] theorem State.updCxl_hub (s : State) (p : HostPort) (f : CxlPort → CxlPort) : (s.updCxl p f).hub = s.hub := by
  cases p <;> rfl
@[simp] theorem State.updCxl_rings (s : State) (p : HostPort) (f : CxlPort → CxlPort) : (s.updCxl p f).rings = s.rings := by
  cases p <;> rfl
@[simp] theorem State.updCxl_ctxs (s : State) (p : HostPort) (f : CxlPort → CxlPort) : (s.updCxl p f).ctxs = s.ctxs := by
  cases p <;> rfl
@[simp] theorem State.updCxl_mem (s : State) (p : HostPort) (f : CxlPort → CxlPort) : (s.updCxl p f).mem = s.mem := by
  cases p <;> rfl
@[simp] theorem State.updCxl_cores (s : State) (p : HostPort) (f : CxlPort → CxlPort) : (s.updCxl p f).cores = s.cores := by
  cases p <;> rfl
@[simp] theorem State.updCxl_link (s : State) (p : HostPort) (f : CxlPort → CxlPort) : (s.updCxl p f).link = s.link := by
  cases p <;> rfl
@[simp] theorem State.updCxl_grove (s : State) (p : HostPort) (f : CxlPort → CxlPort) : (s.updCxl p f).grove = s.grove := by
  cases p <;> rfl
@[simp] theorem State.updCxl_ckpt (s : State) (p : HostPort) (f : CxlPort → CxlPort) : (s.updCxl p f).ckpt = s.ckpt := by
  cases p <;> rfl
@[simp] theorem State.updCxl_mss (s : State) (p : HostPort) (f : CxlPort → CxlPort) : (s.updCxl p f).mss = s.mss := by
  cases p <;> rfl
@[simp] theorem State.updCxl_gov (s : State) (p : HostPort) (f : CxlPort → CxlPort) : (s.updCxl p f).gov = s.gov := by
  cases p <;> rfl
@[simp] theorem State.updCxl_guest (s : State) (p : HostPort) (f : CxlPort → CxlPort) : (s.updCxl p f).guest = s.guest := by
  cases p <;> rfl
@[simp] theorem State.updCxl_out (s : State) (p : HostPort) (f : CxlPort → CxlPort) : (s.updCxl p f).out = s.out := by
  cases p <;> rfl
@[simp] theorem State.updCxl_pending (s : State) (p : HostPort) (f : CxlPort → CxlPort) : (s.updCxl p f).pending = s.pending := by
  cases p <;> rfl
@[simp] theorem State.draw_regs (s : State) : s.draw.2.regs = s.regs := rfl
@[simp] theorem State.draw_rings (s : State) : s.draw.2.rings = s.rings := rfl
@[simp] theorem State.draw_ctxs (s : State) : s.draw.2.ctxs = s.ctxs := rfl
@[simp] theorem State.draw_cxl (s : State) : s.draw.2.cxl = s.cxl := rfl
@[simp] theorem State.draw_mem (s : State) : s.draw.2.mem = s.mem := rfl
@[simp] theorem State.draw_cores (s : State) : s.draw.2.cores = s.cores := rfl
@[simp] theorem State.draw_link (s : State) : s.draw.2.link = s.link := rfl
@[simp] theorem State.draw_grove (s : State) : s.draw.2.grove = s.grove := rfl
@[simp] theorem State.draw_ckpt (s : State) : s.draw.2.ckpt = s.ckpt := rfl
@[simp] theorem State.draw_mss (s : State) : s.draw.2.mss = s.mss := rfl
@[simp] theorem State.draw_gov (s : State) : s.draw.2.gov = s.gov := rfl
@[simp] theorem State.draw_guest (s : State) : s.draw.2.guest = s.guest := rfl
@[simp] theorem State.draw_out (s : State) : s.draw.2.out = s.out := rfl
@[simp] theorem State.draw_pending (s : State) : s.draw.2.pending = s.pending := rfl

end Sys2Proof.Machine
end

