-- ==== Sys2Proof/Laws/Frames.lean ====
section
/-! SUPPORT. What each shared operation can change: one lemma for each, to be cited in place of unfolding it. -/

namespace Sys2Proof.Machine

/-! ## Frames compose -/

/-- Nothing changes in a state that stays. -/
theorem onlyChanges_refl (ps : List Part) (s : State) : OnlyChanges ps s s := by
  intro p _; cases p <;> rfl

/-- Two changes one after the other. -/
theorem onlyChanges_trans {ps : List Part} {s t u : State} (h : OnlyChanges ps s t) (g : OnlyChanges ps t u) :
    OnlyChanges ps s u := by
  intro p hp
  have a := h p hp
  have b := g p hp
  cases p <;> exact Eq.trans b a

/-- A frame may name more parts. -/
theorem onlyChanges_mono {ps qs : List Part} {s t : State} (h : OnlyChanges ps s t) (k : ∀ p ∈ ps, p ∈ qs) :
    OnlyChanges qs s t := fun p hp => h p (fun hm => hp (k p hm))

/-- A change, then one with a smaller frame. -/
theorem onlyChanges_then {ps qs : List Part} {s t u : State} (h : OnlyChanges qs s t) (g : OnlyChanges ps t u)
    (k : ∀ p ∈ ps, p ∈ qs) : OnlyChanges qs s u := onlyChanges_trans h (onlyChanges_mono g k)

/-- Changes made for each element of a list. -/
theorem onlyChanges_foldl {α : Type} {ps : List Part} {f : State → α → State} (h : ∀ s a, OnlyChanges ps s (f s a))
    (l : List α) (s : State) : OnlyChanges ps s (l.foldl f s) := by
  induction l generalizing s with
  | nil => exact onlyChanges_refl ps s
  | cons a l ih => exact onlyChanges_trans (h s a) (ih (f s a))

/-! ## One part -/

theorem updCtx_changes (s : State) (c : CtxId) (f : Ctx → Ctx) : OnlyChanges [.ctxs] s (s.updCtx c f) := by
  intro p hp; cases p <;> first | rfl | simp at hp

theorem updCtx_otherCtxs (s : State) (c : CtxId) (f : Ctx → Ctx) : OtherCtxs c s (s.updCtx c f) :=
  fun _ hd => State.ctx_updCtx_other s (Ne.symm hd) f

theorem updRing_changes (s : State) (i : SetId) (f : RingSet → RingSet) : OnlyChanges [.rings] s (s.updRing i f) := by
  intro p hp; cases p <;> first | rfl | simp at hp

theorem updCore_changes (s : State) (k : CoreId) (f : CoreSt → CoreSt) : OnlyChanges [.cores] s (s.updCore k f) := by
  intro p hp; cases p <;> first | rfl | simp at hp

theorem updPort_changes (s : State) (q : PortId) (f : PortSt → PortSt) : OnlyChanges [.link] s (s.updPort q f) := by
  intro p hp; cases p <;> first | rfl | simp at hp

theorem updDom_changes (s : State) (d : Domain) (f : DomSt → DomSt) : OnlyChanges [.hub] s (s.updDom d f) := by
  intro p hp; cases p <;> first | rfl | simp at hp

theorem updCxl_changes (s : State) (q : HostPort) (f : CxlPort → CxlPort) : OnlyChanges [.cxl] s (s.updCxl q f) := by
  intro p hp; cases q <;> cases p <;> first | rfl | simp at hp

theorem updStep_changes (s : State) (c : CtxId) (n : Nat) (f : Step → Step) : OnlyChanges [.ctxs] s (s.updStep c n f) :=
  updCtx_changes s c _

theorem send_changes (s : State) (m : Msg) : OnlyChanges [.out] s (s.send m) := by
  intro p hp; cases p <;> first | rfl | simp at hp

theorem sendAll_changes (s : State) (ms : List Msg) : OnlyChanges [.out] s (s.sendAll ms) :=
  onlyChanges_foldl send_changes ms s

/-- A message posted waits in the hub's mailboxes (R22). -/
theorem postMbox_changes (s : State) (mss : Bool) (m : MboxMsg) : OnlyChanges [.hub] s (s.postMbox mss m) := by
  unfold State.postMbox
  dsimp only
  intro p hp
  repeat' split
  all_goals (cases p <;> first | rfl | simp at hp)

theorem takeLog_changes (s : State) (e : LogEntry) : OnlyChanges [.mss] s (s.takeLog e) := by
  intro p hp; cases p <;> first | rfl | simp at hp

/-- An entry goes into the MSS log, or waits in the mailbox towards it (R22, R392). -/
theorem addLog_changes (s : State) (src : LogSource) (sev : Severity) (st : Status) (detail : List Nat)
    (sig : Option Signature) : OnlyChanges [.mss, .hub] s (s.addLog src sev st detail sig) := by
  unfold State.addLog
  dsimp only
  split
  · exact onlyChanges_mono (postMbox_changes s _ _) (by simp)
  · exact onlyChanges_mono (takeLog_changes s _) (by simp)

/-- Bytes that wait for their partition's window (R177). -/
theorem charge_changes (s : State) (a n : Nat) : OnlyChanges [.mem] s (s.charge a n) := by
  unfold State.charge
  split
  · intro p hp; cases p <;> first | rfl | simp at hp
  · exact onlyChanges_refl _ s

theorem chargePart_changes (s : State) (c : CtxId) (part n : Nat) : OnlyChanges [.mem] s (s.chargePart c part n) := by
  intro p hp; cases p <;> first | rfl | simp at hp

theorem mapCores_changes (s : State) (f : CoreSt → CoreSt) : OnlyChanges [.cores] s (s.mapCores f) := by
  intro p hp; cases p <;> first | rfl | simp at hp

theorem hbmPut_changes (s : State) (x : Nat) (bs : List Byte) : OnlyChanges [.mem] s (s.hbmPut x bs) := by
  intro p hp; cases p <;> first | rfl | simp at hp

theorem draw_changes (s : State) : OnlyChanges [.hub] s s.draw.2 := by
  intro p hp; cases p <;> first | rfl | simp at hp

theorem pick_changes {α : Type} (s : State) (d : α) (l : List α) : OnlyChanges [.hub] s (s.pick d l).2 := by
  match l with
  | [] => exact onlyChanges_refl _ s
  | [_] => exact onlyChanges_refl _ s
  | _ :: _ :: _ => exact draw_changes s

/-! ## Host rings and events -/

theorem inFlight_changes (s : State) (i : SetId) (k first n : Nat) : OnlyChanges [.cxl] s (s.inFlight i k first n) := by
  unfold State.inFlight
  split
  · exact updCxl_changes s _ _
  · exact onlyChanges_refl _ s

/-- Posting what a ring set has room for writes its rings and the writes in flight (R372, R376). -/
theorem flushSet_changes (s : State) (i : SetId) : OnlyChanges [.rings, .cxl] s (s.flushSet i) := by
  unfold State.flushSet
  have fl (t : State) (k a b : Nat) : OnlyChanges [.rings, .cxl] t (t.inFlight i k a b) :=
    onlyChanges_mono (inFlight_changes t i k a b) (by simp)
  refine onlyChanges_trans (onlyChanges_trans (onlyChanges_trans (onlyChanges_trans (onlyChanges_trans ?_ (fl _ _ _ _))
    (fl _ _ _ _)) (fl _ _ _ _)) (fl _ _ _ _)) (fl _ _ _ _)
  exact onlyChanges_mono (updRing_changes s i _) (by simp)

theorem queueEvent_changes (s : State) (i : SetId) (e : Event) : OnlyChanges [.rings, .cxl] s (s.queueEvent i e) :=
  onlyChanges_trans (onlyChanges_mono (updRing_changes s i _) (by simp)) (flushSet_changes _ i)

/-- An event is posted on its set's event ring and logged (R263, R375). -/
theorem eventFull_changes (s : State) (i : SetId) (st : Status) (p : Payload) (w : Bool) (step attempt : Nat)
    (src : LogSource) (sig : Option Signature) :
    OnlyChanges [.rings, .cxl, .mss, .hub] s (s.eventFull i st p w step attempt src sig) :=
  onlyChanges_trans (onlyChanges_mono (queueEvent_changes s i _) (by simp))
    (onlyChanges_mono (addLog_changes _ _ _ _ _ _) (by simp))

theorem event_changes (s : State) (i : SetId) (st : Status) (p : Payload) : OnlyChanges [.rings, .cxl, .mss, .hub] s (s.event i st p) :=
  eventFull_changes s i st p false 0 0 .event none

theorem modEvent_changes (s : State) (st : Status) : OnlyChanges [.rings, .cxl, .mss, .hub] s (s.modEvent st) :=
  event_changes s moduleSet st .none

theorem takeBump_changes (s : State) (cold n : Nat) : OnlyChanges [.mss] s (s.takeBump cold n) := by
  intro p hp; cases p <;> first | rfl | simp at hp

/-- The COUNT of a record rises in the hub, and in the MSS log or the mailbox towards it (R263). -/
theorem bumpRecord_changes (s : State) (n : Nat) : OnlyChanges [.mss, .hub] s (s.bumpRecord n) := by
  unfold State.bumpRecord
  dsimp only
  have first_ (f : Hub → Hub) : OnlyChanges [.mss, .hub] s { s with hub := f s.hub } := by
    intro p hp; cases p <;> first | rfl | simp at hp
  split
  · exact onlyChanges_then (first_ (fun h => { h with sigs := h.sigs.map (fun e => (e.1, bumpSig n e.2)) }))
      (postMbox_changes _ _ _) (by simp)
  · exact onlyChanges_then (first_ (fun h => { h with sigs := h.sigs.map (fun e => (e.1, bumpSig n e.2)) }))
      (takeBump_changes _ _ _) (by simp)

/-- A signature is coalesced, or recorded and posted (R263). -/
theorem emit_changes (s : State) (c : Option CtxId) (step : Nat) (st : Status) (d : Nat) (g : Signature) :
    OnlyChanges [.rings, .cxl, .mss, .hub] s (s.emit c step st d g) := by
  unfold State.emit
  dsimp only
  split
  · exact onlyChanges_mono (bumpRecord_changes s _) (by simp)
  · split
    · exact onlyChanges_mono (bumpRecord_changes s _) (by simp)
    · refine onlyChanges_trans ?_ (eventFull_changes _ _ _ _ _ _ _ _ _)
      intro p hp; cases p <;> first | rfl | simp at hp

theorem postNow_changes (s : State) (c : CtxId) (k : SubRing) (x : Completion) : OnlyChanges [.rings, .cxl] s (s.postNow c k x) :=
  onlyChanges_trans (onlyChanges_mono (updRing_changes s _ _) (by simp)) (flushSet_changes _ _)

theorem finish_changes (s : State) (c : CtxId) (k : SubRing) (ix : BitVec 32) (x : Completion) :
    OnlyChanges [.rings, .cxl] s (s.finish c k ix x) :=
  onlyChanges_trans (onlyChanges_mono (updRing_changes s _ _) (by simp)) (flushSet_changes _ _)

theorem finishDone_changes (s : State) (c : CtxId) (k : SubRing) (ix : BitVec 32) (tag step : Nat) (st : Status) (detail : Nat) :
    OnlyChanges [.rings, .cxl] s (s.finishDone c k ix tag step st detail) := finish_changes s c k ix _

/-- A ring stops: its stop shows and its completion is queued (R369). -/
theorem stopRing_changes (s : State) (c : CtxId) (k : SubRing) (ix : BitVec 32) (tag step attempt : Nat) (st : Status)
    (detail : Nat) : OnlyChanges [.rings, .cxl] s (s.stopRing c k ix tag step attempt st detail) :=
  onlyChanges_trans (onlyChanges_mono (updRing_changes s _ _) (by simp)) (flushSet_changes _ _)

theorem stopBare_changes (s : State) (c : CtxId) (k : SubRing) (st : Status) : OnlyChanges [.rings] s (s.stopBare c k st) :=
  updRing_changes s _ _

/-! ## Passes and reduction targets -/

theorem givePass_changes (s : State) (front : Bool) (k : CoreId) (e : Nat × PassOrder) :
    OnlyChanges [.cores] s (s.givePass front k e) := updCore_changes s _ _

/-- The passes of a step become outstanding at cores alone (R489). -/
theorem placeStep_changes (s : State) (c : CtxId) (n : Nat) : OnlyChanges [.cores] s (s.placeStep c n) := by
  unfold State.placeStep
  exact onlyChanges_foldl (fun t (e : CoreId × Nat × PassOrder) => givePass_changes t false e.1 e.2) _ s

theorem placeSteps_changes (s : State) (c : CtxId) (ts : List Step) : OnlyChanges [.cores] s (s.placeSteps c ts) := by
  unfold State.placeSteps
  exact onlyChanges_foldl (fun u (t : Step) => placeStep_changes u c t.number) ts s

/-- Passes of a step that have run are outstanding again (R81, R85, R102). -/
theorem rerun_changes (s : State) (c : CtxId) (n : Nat) (which : CoreId → PassOrder → Bool) :
    OnlyChanges [.ctxs, .cores] s (s.rerun c n which) := by
  unfold State.rerun
  split
  · exact onlyChanges_refl _ s
  · exact onlyChanges_then (onlyChanges_mono (updCtx_changes s c _) (by simp))
      (onlyChanges_foldl (fun t (e : CoreId × PassOrder) => givePass_changes t true e.1 (n, e.2)) _ _) (by simp)

theorem dropWork_changes (s : State) (c : CtxId) (n : Nat) : OnlyChanges [.cores] s (s.dropWork c n) := mapCores_changes s _

/-- Words written for each of some reduction targets. -/
theorem putTargets_changes (f : Nat × RedTarget → List Byte) (l : List (Nat × RedTarget)) (s : State) :
    OnlyChanges [.mem] s (l.foldl (fun (s : State) e => s.hbmPut e.1 (f e)) s) :=
  onlyChanges_foldl (fun t (e : Nat × RedTarget) => hbmPut_changes t e.1 (f e)) l s

/-- The reduction targets of discarded steps go back to what they held before (R206). -/
theorem dropTargets_changes (s : State) (c : CtxId) (n : Nat) : OnlyChanges [.mem] s (s.dropTargets c n) := by
  intro p hp
  have h := putTargets_changes (fun e => leBytes e.2.width e.2.before)
    (s.mem.targets.filter (fun e => decide (e.2.ctx = c) && decide (n < e.2.step))) s p hp
  cases p <;> first | exact h | simp at hp

/-- Without reduction targets there is nothing to start again. -/
theorem dropTargets_none (s : State) (c : CtxId) (n : Nat) (h : s.mem.targets = []) : s.dropTargets c n = s := by
  obtain ⟨_, _, _, _, _, mem⟩ := s
  cases mem
  simp_all [State.dropTargets]

/-- Contributions go with their cores' scratchpads; the passes that formed them run again (R102, R144). -/
theorem loseGrads_changes (s : State) (gone : CoreId → Bool) : OnlyChanges [.ctxs, .cores] s (s.loseGrads gone) := by
  unfold State.loseGrads
  refine onlyChanges_foldl (fun t c => ?_) _ s
  refine onlyChanges_foldl (fun u v => ?_) _ t
  dsimp only
  split
  · exact onlyChanges_refl _ u
  · exact onlyChanges_then (onlyChanges_mono (updStep_changes u c _ _) (by simp)) (rerun_changes _ c _ _) (by simp)

/-- Dirty shared-cache lines lost with their die (R264). -/
theorem loseLines_changes (s : State) (d : Nat) : OnlyChanges [.mem] s (s.loseLines d) := by
  intro p hp
  have h := putTargets_changes (fun e => leBytes e.2.width e.2.before) (s.mem.targets.filter (fun e => e.1 / 2 ^ 39 % 4 == d)) s p hp
  cases p <;> first | exact h | simp at hp

/-! ## Reset domains -/

/-- A change of core states alone. -/
theorem coreTable_changes (s : State) (l : AL CoreId CoreSt) : OnlyChanges [.cores] s { s with cores := { s.cores with tbl := l } } := by
  intro p hp; cases p <;> first | rfl | simp at hp

/-- What a domain's reset clears (R264): of every part but these nothing. -/
theorem clearDomain_changes (s : State) (d : Domain) :
    OnlyChanges [.ctxs, .mem, .cores, .link, .guest, .mss] s (s.clearDomain d) := by
  cases d <;> unfold State.clearDomain <;> dsimp only
  case mss =>
    intro p hp
    unfold State.endUpdate State.setInactive
    cases p <;> first | (split <;> (try split) <;> rfl) | simp at hp
  case core c =>
    exact onlyChanges_then (onlyChanges_mono (loseGrads_changes s _) (by simp)) (updCore_changes _ c _) (by simp)
  case die e =>
    refine onlyChanges_then ?_ (coreTable_changes _ _) (by simp)
    exact onlyChanges_then (onlyChanges_mono (loseGrads_changes s _) (by simp)) (loseLines_changes _ _) (by simp)
  all_goals first
    | exact onlyChanges_refl _ s
    | exact onlyChanges_mono (updPort_changes s _ _) (by simp)
    | (intro p hp; cases p <;> first | rfl | simp at hp)

/-- Entering reset advances a generation and clears the domain (R265, R267). -/
theorem enterReset_changes (s : State) (d : Domain) :
    OnlyChanges [.hub, .ctxs, .mem, .cores, .link, .guest, .mss] s (s.enterReset d) := by
  have dom (f : DomSt → DomSt) : OnlyChanges [.hub, .ctxs, .mem, .cores, .link, .guest, .mss] s (s.updDom d f) :=
    onlyChanges_mono (updDom_changes s d f) (by simp)
  unfold State.enterReset
  split
  · exact dom _
  · exact onlyChanges_then (dom _) (clearDomain_changes _ d) (by simp)

/-! ## Votes and rollbacks -/

/-- Votes that may go out do (R200). -/
theorem castVotes_changes (s : State) (c : CtxId) : OnlyChanges [.ctxs, .out] s (s.castVotes c) := by
  unfold State.castVotes
  split
  split
  · exact onlyChanges_refl _ s
  · exact onlyChanges_then (onlyChanges_mono (updCtx_changes s c _) (by simp)) (sendAll_changes _ _) (by simp)

/-- A failed class makes the step vote (R198–R200). -/
theorem failClass_changes (s : State) (c : CtxId) (n cls : Nat) (st : Status) :
    OnlyChanges [.ctxs, .out] s (s.failClass c n cls st) :=
  onlyChanges_then (onlyChanges_mono (updStep_changes s c n _) (by simp)) (castVotes_changes _ c) (by simp)

theorem stopStep_changes (s : State) (c : CtxId) (n : Nat) (st : Status) :
    OnlyChanges [.ctxs, .out] s (s.stopStep c n st) :=
  onlyChanges_then (onlyChanges_mono (updStep_changes s c n _) (by simp)) (castVotes_changes _ c) (by simp)

theorem feed_changes (s : State) (c : CtxId) (f : Feed) : OnlyChanges [.out] s (s.feed c f) := by
  unfold State.feed
  split
  · exact send_changes s _
  · exact onlyChanges_refl _ s

theorem zeroLanes_changes (s : State) : OnlyChanges [.cores] s s.zeroLanes := by
  intro p hp; cases p <;> first | rfl | simp at hp

/-- A rollback changes its context, the completions posted, what cores hold of it, the reduction targets of discarded steps
and what is sent (R113, R206, R207). -/
theorem rollback_changes (s : State) (c : CtxId) (st : Status) (m : BitVec 32) (counts : Bool) (stop : Option (Nat × Status)) :
    OnlyChanges [.rings, .ctxs, .cxl, .mem, .cores, .out] s (s.rollback c st m counts stop) := by
  unfold State.rollback
  dsimp only
  refine onlyChanges_then ?_ (zeroLanes_changes _) (by simp)
  refine onlyChanges_then ?_ (send_changes _ _) (by simp)
  refine onlyChanges_then ?_ (feed_changes _ _ _) (by simp)
  have each (t : State) (k : Completion) : OnlyChanges [.rings, .ctxs, .cxl, .mem, .cores, .out] t (t.postNow c .step k) :=
    onlyChanges_mono (postNow_changes t c .step k) (by simp)
  refine onlyChanges_trans ?_ (onlyChanges_foldl each _ _)
  refine onlyChanges_then ?_ (dropTargets_changes _ _ _) (by simp)
  refine onlyChanges_then ?_ (dropWork_changes _ _ _) (by simp)
  exact onlyChanges_mono (updCtx_changes s c _) (by simp)

/-- The rollback of a reduced mask may also draw a free value (R204, R210). -/
theorem rollbackMask_changes (s : State) (c : CtxId) (t : Step) (m : BitVec 32) :
    OnlyChanges [.hub, .rings, .ctxs, .cxl, .mem, .cores, .out] s (s.rollbackMask c t m) := by
  unfold State.rollbackMask
  dsimp only
  have pk := onlyChanges_mono (pick_changes s Status.stepPeerStopped (maskStatuses m))
    (qs := [.hub, .rings, .ctxs, .cxl, .mem, .cores, .out]) (by simp)
  split
  · exact onlyChanges_then pk (rollback_changes _ _ _ _ _ _) (by simp)
  · split <;> exact onlyChanges_then pk (rollback_changes _ _ _ _ _ _) (by simp)

/-- Re-execution changes the context, the passes outstanding, its step ring where it stops, and what is sent (R207, R210, R278). -/
theorem reexecute_changes (s : State) (c : CtxId) : OnlyChanges [.rings, .ctxs, .cxl, .cores, .out] s (s.reexecute c) := by
  have again (f : Ctx → Ctx) (ts us : List Step) : OnlyChanges [.rings, .ctxs, .cxl, .cores, .out] s
      (us.foldl (fun (s : State) t => s.send (.takeoverRecord c (takeoverRec (s.ring (setOf c)) t)))
        ((s.updCtx c f).placeSteps c ts)) :=
    onlyChanges_then (onlyChanges_then (onlyChanges_mono (updCtx_changes s c f) (by simp)) (placeSteps_changes _ c ts) (by simp))
      (onlyChanges_foldl (fun u (t : Step) => send_changes u (.takeoverRecord c (takeoverRec (u.ring (setOf c)) t))) us _) (by simp)
  unfold State.reexecute
  dsimp only
  split
  · exact again _ _ _
  · split
    · exact again _ _ _
    · refine onlyChanges_then ?_ (stopRing_changes _ _ _ _ _ _ _ _ _) (by simp)
      refine onlyChanges_then ?_ (updCtx_changes _ c _) (by simp)
      exact onlyChanges_then (again _ _ _) (updRing_changes _ _ _) (by simp)

/-! ## The fabric -/

theorem sendFlit_changes (s : State) (q : PortId) (kind vl : Nat) (sop eop nak : Bool) (body : List Byte) :
    OnlyChanges [.link, .out] s (s.sendFlit q kind vl sop eop nak body) := by
  intro p hp; cases p <;> first | rfl | simp at hp

theorem sendIdle_changes (s : State) (q : PortId) (nak : Bool) : OnlyChanges [.link, .out] s (s.sendIdle q nak) :=
  sendFlit_changes s q 0 0 false false nak []

theorem sendBeacon_changes (s : State) (q : PortId) : OnlyChanges [.link, .out] s (s.sendBeacon q) := by
  intro p hp; cases p <;> first | rfl | simp at hp

theorem rewriteRt_changes (s : State) (a : Nat) (f : Nat → Nat) : OnlyChanges [.regs] s (s.rewriteRt a f) := by
  intro p hp; cases p <;> first | rfl | simp at hp

theorem passOn_changes (s : State) (port lane : Nat) (h : PacketHdr) (transit : Bool) :
    OnlyChanges [.link, .out] s (s.passOn port lane h transit) := by
  intro p hp; cases p <;> first | rfl | simp at hp

/-- A packet sent on, or held by the cap (R330, R348). -/
theorem trySend_changes {s t : State} {lane : Nat} {h : PacketHdr} (e : s.trySend lane h = some t) :
    OnlyChanges [.link, .out] s t := by
  unfold State.trySend at e
  dsimp only at e
  split at e
  · split at e
    · split at e
      · split at e
        · cases e
          exact onlyChanges_then (onlyChanges_mono (updPort_changes s _ _) (by simp)) (passOn_changes _ _ _ _ _) (by simp)
        · cases e
          intro p hp; cases p <;> first | rfl | simp at hp
      · cases e
        exact passOn_changes s _ _ _ _
    · cases e
  · cases e

theorem serveList_changes (kept es : List (Nat × PacketHdr)) (s : State) :
    OnlyChanges [.link, .out] s (serveList kept es s).2 := by
  induction es generalizing kept s with
  | nil => exact onlyChanges_refl _ s
  | cons e es ih =>
    unfold serveList
    split
    · exact ih _ _
    · split
      · next t h => exact onlyChanges_trans (trySend_changes h) (ih _ _)
      · exact ih _ _

/-- What waits at the ports goes on where it can (R330, R340). -/
theorem serveAll_changes (s : State) : OnlyChanges [.link, .out] s s.serveAll := by
  unfold State.serveAll
  split
  · exact onlyChanges_refl _ s
  · refine onlyChanges_foldl (fun t q => ?_) _ s
    exact onlyChanges_then (serveList_changes _ _ t) (updPort_changes _ _ _) (by simp)

/-- With nothing waiting, nothing is served. -/
@[simp] theorem serveAll_quiet (s : State) (h : s.quiet = true) : s.serveAll = s := by
  simp [State.serveAll, h]

theorem forward_changes (s : State) (q : PortId) (lane : Nat) (h : PacketHdr) : OnlyChanges [.link, .out] s (s.forward q lane h) := by
  have hold : OnlyChanges [.link, .out] s { s.updPort q (fun x => { x with waiting := x.waiting ++ [(lane, h)] }) with
      link := { (s.updPort q (fun x => { x with waiting := x.waiting ++ [(lane, h)] })).link with
        fates := (h, .wait) :: (s.updPort q (fun x => { x with waiting := x.waiting ++ [(lane, h)] })).link.fates } } := by
    intro p hp; cases p <;> first | rfl | simp at hp
  unfold State.forward
  dsimp only
  split
  · exact hold
  · cases e : s.trySend lane h with
    | none => exact hold
    | some t => exact trySend_changes e

theorem moveTraffic_changes (s : State) (q : PortId) : OnlyChanges [.link, .out] s (s.moveTraffic q) := by
  unfold State.moveTraffic
  refine onlyChanges_trans ?_ (serveAll_changes _)
  intro p hp; cases p <;> first | rfl | simp at hp

/-- A port goes down: its traffic moves, and the event is posted (R332, R340). -/
theorem portDown_changes (s : State) (q : PortId) : OnlyChanges [.hub, .rings, .cxl, .link, .mss, .out] s (s.portDown q) := by
  unfold State.portDown
  exact onlyChanges_then (onlyChanges_then (onlyChanges_mono (updPort_changes s q _) (by simp)) (moveTraffic_changes _ q)
    (by simp)) (event_changes _ _ _ _) (by simp)

/-- A port is fenced (R332, R341). -/
theorem fencePort_changes (s : State) (q : PortId) (st : Status) : OnlyChanges [.hub, .rings, .cxl, .link, .mss, .out] s (s.fencePort q st) := by
  unfold State.fencePort
  exact onlyChanges_then (onlyChanges_then (onlyChanges_mono (updPort_changes s q _) (by simp)) (moveTraffic_changes _ q)
    (by simp)) (event_changes _ _ _ _) (by simp)

/-- A dropped packet is counted, and its source told at most once a millisecond (R345). -/
theorem dropPacket_changes (s : State) (q : PortId) (h : PacketHdr) (st : Status) (notice : Bool) :
    OnlyChanges [.link, .out] s (s.dropPacket q h st notice) := by
  unfold State.dropPacket
  dsimp only
  intro p hp
  split
  · split <;> (cases p <;> first | rfl | simp at hp)
  · cases p <;> first | rfl | simp at hp

end Sys2Proof.Machine
end

