-- ==== Sys2Proof/Laws/Memory.lean ====
section
/-! SUPPORT. The laws of HBM: what a read after a write gives, and that every operation keeps the canonical form (R171). -/

namespace Sys2Proof.Machine

/-- Every listed address is above a bound. -/
def hbmAbove (x : Nat) (m : List Host.Cell) : Prop := ∀ c ∈ m, x < c.1

/-- The canonical form, one cell at a time. -/
theorem hbmWf_cons {a : Nat} {b : Byte} {m : List Host.Cell} :
    hbmWf ((a, b) :: m) = true ↔ b ≠ hbmBlank ∧ hbmAbove a m ∧ hbmWf m = true := by
  induction m generalizing a b with
  | nil => simp [hbmWf, hbmAbove]
  | cons c m ih =>
    obtain ⟨a', b'⟩ := c
    rw [hbmWf]
    simp only [Bool.and_eq_true, bne_iff_ne, decide_eq_true_eq]
    constructor
    · rintro ⟨⟨hb, ha⟩, hm⟩
      refine ⟨hb, ?_, hm⟩
      intro c hc
      rcases List.mem_cons.mp hc with h | h
      · subst h; exact ha
      · exact Nat.lt_trans ha ((ih.mp hm).2.1 c h)
    · rintro ⟨hb, ha, hm⟩
      exact ⟨⟨hb, ha _ (List.mem_cons_self ..)⟩, hm⟩

/-- A write lists nothing below both its address and what was listed. -/
theorem hbmWrite_above {x y : Nat} {v : Byte} {m : List Host.Cell} (hy : y < x) (h : hbmAbove y m) :
    hbmAbove y (hbmWrite x v m) := by
  induction m with
  | nil =>
    unfold hbmWrite
    split
    · intro c hc; cases hc
    · intro c hc; rcases List.mem_singleton.mp hc with rfl; exact hy
  | cons c m ih =>
    obtain ⟨a, b⟩ := c
    have ha : y < a := h _ (List.mem_cons_self ..)
    have hm : hbmAbove y m := fun c hc => h c (List.mem_cons_of_mem _ hc)
    unfold hbmWrite
    split
    · split
      · exact h
      · intro c hc
        rcases List.mem_cons.mp hc with rfl | hc
        · exact hy
        · exact h c hc
    · split
      · split
        · exact hm
        · intro c hc
          rcases List.mem_cons.mp hc with rfl | hc
          · exact hy
          · exact hm c hc
      · intro c hc
        rcases List.mem_cons.mp hc with rfl | hc
        · exact ha
        · exact ih hm c hc

/-- A write of one byte keeps the canonical form. -/
theorem hbmWrite_wf {x : Nat} {v : Byte} {m : List Host.Cell} (h : hbmWf m = true) : hbmWf (hbmWrite x v m) = true := by
  induction m with
  | nil =>
    unfold hbmWrite
    split
    · rfl
    · rename_i hv; simpa [hbmWf] using hv
  | cons c m ih =>
    obtain ⟨a, b⟩ := c
    obtain ⟨hb, ha, hm⟩ := hbmWf_cons.mp h
    unfold hbmWrite
    split
    · rename_i hx
      split
      · exact h
      · rename_i hv
        refine hbmWf_cons.mpr ⟨hv, ?_, h⟩
        intro c hc
        rcases List.mem_cons.mp hc with rfl | hc
        · exact hx
        · exact Nat.lt_trans hx (ha c hc)
    · split
      · rename_i hx
        split
        · exact hm
        · rename_i hv; exact hbmWf_cons.mpr ⟨hv, by rw [hx]; exact ha, hm⟩
      · rename_i h1 h2
        exact hbmWf_cons.mpr ⟨hb, hbmWrite_above (by omega) ha, ih hm⟩

/-- Writing a run of bytes keeps the canonical form. -/
theorem hbmWriteAll_wf {bs : List Byte} : ∀ {x : Nat} {m : List Host.Cell}, hbmWf m = true → hbmWf (hbmWriteAll x bs m) = true := by
  induction bs with
  | nil => intro x m h; exact h
  | cons b bs ih => intro x m h; exact ih (hbmWrite_wf h)

/-- Leaving cells out keeps the canonical form. -/
theorem hbmWf_filter (p : Host.Cell → Bool) {m : List Host.Cell} (h : hbmWf m = true) : hbmWf (m.filter p) = true := by
  induction m with
  | nil => rfl
  | cons c m ih =>
    obtain ⟨a, b⟩ := c
    obtain ⟨hb, ha, hm⟩ := hbmWf_cons.mp h
    rw [List.filter_cons]
    split
    · exact hbmWf_cons.mpr ⟨hb, fun c hc => ha c ((List.mem_filter.mp hc).1), ih hm⟩
    · exact ih hm

/-- Nothing listed is in canonical form. -/
theorem hbmWf_nil : hbmWf [] = true := rfl

/-- Below every listed address the blank byte is read. -/
theorem hbmRead_above {x : Nat} {m : List Host.Cell} (h : hbmAbove x m) : hbmRead m x = hbmBlank := by
  induction m with
  | nil => rfl
  | cons c m ih =>
    obtain ⟨a, b⟩ := c
    have ha : x < a := h _ (List.mem_cons_self ..)
    simp [hbmRead, Nat.ne_of_gt ha, ih (fun c hc => h c (List.mem_cons_of_mem _ hc))]

/-- A byte reads what was written there. -/
theorem hbmRead_write_same {x : Nat} {v : Byte} {m : List Host.Cell} (h : hbmWf m = true) : hbmRead (hbmWrite x v m) x = v := by
  induction m with
  | nil =>
    unfold hbmWrite
    split
    · rename_i hv; rw [hv]; rfl
    · simp [hbmRead]
  | cons c m ih =>
    obtain ⟨a, b⟩ := c
    obtain ⟨hb, ha, hm⟩ := hbmWf_cons.mp h
    unfold hbmWrite
    split
    · rename_i hx
      split
      · rename_i hv
        rw [hv]
        exact hbmRead_above (fun c hc => by
          rcases List.mem_cons.mp hc with rfl | hc
          · exact hx
          · exact Nat.lt_trans hx (ha c hc))
      · simp [hbmRead]
    · split
      · rename_i hx
        split
        · rename_i hv; rw [hv, hx]; exact hbmRead_above ha
        · simp [hbmRead]
      · rename_i h1 h2
        simp [hbmRead, Ne.symm h2, ih hm]

/-- Another byte reads what it read. -/
theorem hbmRead_write_other {x y : Nat} {v : Byte} {m : List Host.Cell} (h : y ≠ x) : hbmRead (hbmWrite x v m) y = hbmRead m y := by
  induction m with
  | nil =>
    unfold hbmWrite
    split
    · rfl
    · simp [hbmRead, Ne.symm h]
  | cons c m ih =>
    obtain ⟨a, b⟩ := c
    unfold hbmWrite
    split
    · split
      · rfl
      · simp [hbmRead, Ne.symm h]
    · split
      · rename_i hx
        subst hx
        split
        · simp [hbmRead, Ne.symm h]
        · simp [hbmRead, Ne.symm h]
      · by_cases ha : a = y
        · simp [hbmRead, ha]
        · simp [hbmRead, ha, ih]

/-- A byte outside a run written reads what it read. -/
theorem hbmRead_writeAll_other {bs : List Byte} :
    ∀ {x y : Nat} {m : List Host.Cell}, (y < x ∨ x + bs.length ≤ y) → hbmRead (hbmWriteAll x bs m) y = hbmRead m y := by
  induction bs with
  | nil => intro x y m _; rfl
  | cons b bs ih =>
    intro x y m h
    rw [hbmWriteAll, ih (by simp at h; omega), hbmRead_write_other (by simp at h; omega)]

/-- Writing bytes into HBM keeps its canonical form. -/
theorem State.hbmPut_wf {s : State} (x : Nat) (bs : List Byte) (h : s.mem.wf = true) : (s.hbmPut x bs).mem.wf = true :=
  hbmWriteAll_wf h

/-- Writing several runs of bytes keeps the canonical form. -/
theorem State.hbmPut_foldl_wf {α : Type} (f : α → Nat) (g : α → List Byte) (l : List α) {s : State} (h : s.mem.wf = true) :
    (l.foldl (fun (s : State) a => s.hbmPut (f a) (g a)) s).mem.wf = true := by
  induction l generalizing s with
  | nil => exact h
  | cons a l ih => exact ih (State.hbmPut_wf _ _ h)

/-- Reduction targets that start from 0 again keep the canonical form (R206, R264). -/
theorem State.dropTargets_wf {s : State} (c : CtxId) (n : Nat) (h : s.mem.wf = true) : (s.dropTargets c n).mem.wf = true :=
  State.hbmPut_foldl_wf (fun e : Nat × RedTarget => e.1) (fun e => leBytes e.2.width e.2.before)
    (s.mem.targets.filter (fun e => decide (e.2.ctx = c) && decide (n < e.2.step))) h

theorem State.loseLines_wf {s : State} (d : Nat) (h : s.mem.wf = true) : (s.loseLines d).mem.wf = true :=
  State.hbmPut_foldl_wf (fun e : Nat × RedTarget => e.1) (fun e => leBytes e.2.width e.2.before)
    (s.mem.targets.filter (fun e => e.1 / 2 ^ 39 % 4 == d)) h

/-- The memory after reset is in canonical form. -/
theorem State.reset_wf : State.reset.mem.wf = true := rfl

end Sys2Proof.Machine
end

