-- ==== Sys2Proof/WellFormed.lean ====
section
/-! DEFINITION. Well-formed commands: operands in the ranges the manual's formats give them, one named check for each kind. -/

namespace Sys2Proof

/-- The checks. -/
inductive Check
  /-- A doorbell line has 16 words (R362). -/
  | doorbellWords
  /-- A descriptor and an update record have 64 bytes; fewer stand for a translation that failed at that offset (R157, R470). -/
  | slotBytes
  /-- A host page number of a 64-bit address (R357). -/
  | pageNumber
  /-- A CXL link trains to 1, 2, 4 or 8 lanes (R355). -/
  | linkWidth
  /-- A CXL link trains to at most 64 GT/s (R355). -/
  | linkRate
  /-- A line of the 64 GiB window (R386). -/
  | windowLine
  /-- A host access stays in one 64-byte line (R386). -/
  | oneLine
  /-- The parts of a pass agree with one another (R87–R89). -/
  | passShape
  /-- A vector instruction has as many sources as its operation reads (R107). -/
  | vxSources
  /-- A lane of the 256 (R107). -/
  | lane
  /-- A device address has 41 bits (R168, R185). -/
  | deviceAddress
  /-- A pseudo-channel of the 160 of a die (R167). -/
  | channel
  /-- A virtual lane of the eight (R326, R329). -/
  | virtualLane
  /-- The header fields of a packet fit their widths (R344). -/
  | packetFields
  /-- The header fields of a flit fit their widths (R326). -/
  | flitFields
  /-- A probe path of the three (R273). -/
  | probePath
  /-- An indicator belongs to its unit (R283). -/
  | wearPair
  /-- A set, seat and unit of a stripe (R310–R312). -/
  | stripePlace
  /-- A stripe unit is 2 MiB (R310). -/
  | unitBytes
  /-- As many samples as there are sensors or steps (R391, R401, R402, R438). -/
  | sampleCount
  /-- A guest address of 64 bits (R415). -/
  | guestAddress
  /-- A commit tag has 16 bits (R452). -/
  | commitTag
  /-- An application unit of a bank (R456). -/
  | bankUnit
  /-- A 32-bit word of the 64 MiB of BAR0 (R448). -/
  | wordAddress
  /-- Four byte enables (R448). -/
  | byteEnables
  /-- A die and one of its seven partitions (R173). -/
  | partition
  /-- A residue modulo 65,535 (R234). -/
  | residue
  /-- The fields of a program image have their widths: ACR 16 bits, drop thresholds 32, those of a scale record as laid out (R8,
  R51, R62). -/
  | programFields
  /-- The fields of a beacon have their widths (R8, R333). -/
  | beaconFields
  /-- A contract level of 8 bits, revisions of 8 bits, a build of 32 (R8, R55, R333). -/
  | bundleFields
  /-- A step number of 48 bits (R8). -/
  | stepNumber
  /-- A contract level of 8 bits (R8). -/
  | level
  /-- A clearing id of 12 bits (R8, R342). -/
  | clearingId
  /-- The optimiser count of a slot has 32 bits, the fields of its records their widths (R8, R62, R159). -/
  | slotFields
  /-- The fields of a takeover record have their widths: step 48 bits, attempt 8, ring indices 32, descriptor 64 bytes, CRC-64s (R8,
  R278). -/
  | takeoverFields
  /-- A CRC-64 (R8, R163). -/
  | crc64
  deriving DecidableEq, Repr

/-- Sources a vector operation reads (R107, R109). -/
def vxArity : VxOp → Nat
  | .fma32 | .select32 | .fmaB | .selectB | .fma64 | .iselect => 3
  | .add32 | .sub32 | .mul32 | .min32 | .max32 | .cmpLt32 | .cmpLe32 | .cmpEq32 => 2
  | .addB | .subB | .mulB | .minB | .maxB | .cmpLtB | .cmpLeB | .cmpEqB => 2
  | .add64 | .sub64 | .mul64 | .div64 | .cmpLt64 | .cmpLe64 | .cmpEq64 => 2
  | .iadd | .isub | .imul | .ishl | .ishr | .isar | .iand | .ior | .ixor | .icmpLt | .icmpEq => 2
  | .div32 | .smooth | .dropout _ => 2
  | .random .. => 0
  | .abs32 | .neg32 | .absB | .negB | .sqrt64 | .sqrt32 | .recip32 | .rsqrt32 | .exp | .exp2 | .log | .log2 | .sigmaHat => 1
  | .siluD | .geluD | .reluD | .sqReluD | .uniform | .convert .. | .butterfly .. | .permute .. | .move => 1

/-- The header fields of a flit in their widths (R326). -/
def flitFields (f : Flit) : Bool :=
  decide (f.vl < 8) && decide (f.kind < 8) && decide (f.seq < 4096) && decide (f.ackSeq < 4096) && decide (f.crVl < 8) &&
    decide (f.crCount < 4096) && decide (f.bodyLen < 256) && f.body.length == 244

/-- The header fields of a packet in their widths (R344). -/
def packetFields (h : PacketHdr) : Bool :=
  decide (h.dest < 4096) && decide (h.src < 4096) && decide (h.type < 256) && decide (h.clearing < 4096) && decide (h.hops < 16) &&
    decide (h.length ≤ 4096) && decide (h.dom < 65536) && decide (h.stream < 256) && decide (h.seq < 2 ^ 32) &&
    decide (h.offset < 2 ^ 48) && decide (h.residue < 65535) && decide (h.markers < 65536)

/-- An indicator of a unit (R283). -/
def wearPair : WearUnit → Indicator → Bool
  | .core _, .slack | .core _, .ringOsc => true
  | .channel _ ch, .eccRate | .channel _ ch, .refreshMargin => decide (ch < 160)
  | .laser _ ch, .laserBias => decide (ch < 24)
  | .port _, .portBer => true
  | _, _ => false

/-- The fields of a scale record in their widths (R62). -/
def recordFields (r : ScaleRec) : Bool :=
  decide (r.tensor < 65536) && decide (r.inst < 256) && decide (r.fmt < 16) && decide (r.step < 2 ^ 48) && decide (r.epoch < 256) &&
    decide (r.zp < 256) && decide (r.mult < 2 ^ 32) && decide (r.shift < 64) && decide (-1024 ≤ r.fxrExp) && decide (r.fxrExp < 1024) &&
    decide (r.guard < 32) && decide (r.satT < 16) && decide (r.histN < 8)

/-- The fields of a program image in their widths. -/
def programFields (p : Program) : Bool :=
  decide (p.acr < 65536) && p.dropP.all (fun n => decide (n < 2 ^ 32)) && p.records.all recordFields

/-- The fields of a slot in their widths (R62, R159). -/
def slotFields (d : SlotData) : Bool := decide (d.t < 2 ^ 32) && d.records.all recordFields

/-- A ring index of 32 bits. -/
def ringIndex (n : Nat) : Bool := decide (n < 2 ^ 32)

/-- The fields of a takeover record in their widths (R278). -/
def takeoverFields (r : TakeoverRec) : Bool :=
  decide (r.step < 2 ^ 48) && decide (r.attempt < 256) && ringIndex r.cons0 && ringIndex r.cons1 && ringIndex r.prod2 &&
    r.crcs.all (fun n => decide (n < 2 ^ 64))

/-- The body of a takeover record's message in its widths (R278). -/
def recordBody : RecordBody → List (Check × Bool)
  | .step desc => [(.takeoverFields, desc.length == 64)]
  | .image p => [(.programFields, programFields p)]

/-- The step a sapling's feed is of (R288). -/
def Feed.stepOf : Feed → Nat
  | .stepInputs n _ _ _ | .slice n _ _ _ _ | .clip n _ | .rollback n => n

/-- The fields of a fetched program image in their widths. -/
def fetchedFields : Fetch Program → Bool
  | .data p => programFields p
  | .noPage _ _ => true

/-- The fields of a beacon in their widths (R333). -/
def beaconFields (b : Beacon) : Bool :=
  decide (b.port < 40) && decide (b.role < 4) && decide (b.phys < 4096) && decide (b.ident < 4096) && decide (b.level < 256) &&
    decide (b.fwBuild < 2 ^ 32) && decide (b.serial < 2 ^ 64) && decide (b.planId < 2 ^ 64) && decide (b.expPhys < 4096) &&
    decide (b.expPort < 64)

/-- The fields of a staged component in their widths. -/
def bundleFields : Staged → Bool
  | .bundle b => decide (b.revs.length < 256) && b.revs.all (fun r => decide (r < 256)) && decide (b.build < 2 ^ 32)
  | .profile _ _ => true

/-- Application units of a bank (R456). -/
def bankUnits : Bank → Nat
  | .cpCtx | .cpStep | .coreRbatch => 16
  | .ring => 119
  | .ckpt => 17
  | .hubHedge | .cxlPri | .memPart | .memReg | .memPol | .coreFt | .linkPlan | .linkPol | .linkTmo | .rt | .mssEol | .mssSap
  | .pwr => 1

/-- The checks of a command, with whether it meets them. -/
def checks : Instr → List (Check × Bool)
  | .doorbellSnoop _ line => [(.doorbellWords, decide (line.length = 16))]
  | .doorbellPeriodicRead lines => [(.doorbellWords, decide (∀ l ∈ lines, l.2.length = 16))]
  | .descriptorHeadCheck _ _ desc update => [(.slotBytes, decide (desc.length ≤ 64)), (.slotBytes, decide (update.length ≤ 64))]
  | .atsInvalidation _ page => [(.pageNumber, decide (page < 2 ^ 52))]
  | .cxlLinkTrained _ width rate _ _ _ => [(.linkWidth, decide (width = 1 ∨ width = 2 ∨ width = 4 ∨ width = 8)), (.linkRate, decide (rate ≤ 64))]
  | .windowHostRead _ line _ _ => [(.windowLine, decide (line < 2 ^ 30))]
  | .windowHostWrite _ addr bytes => [(.windowLine, decide (addr < 2 ^ 36)), (.oneLine, decide (addr % 64 + bytes.length ≤ 64))]
  | .backInvalidateResponse line => [(.windowLine, decide (line < 2 ^ 30))]
  | .swapFrontDepart _ pass _ => [(.passShape, passShape pass)]
  | .broadcastSwap _ pass _ => [(.passShape, passShape pass)]
  | .vxInstruction _ op srcs _ _ _ _ fault => [(.vxSources, decide (srcs.length = vxArity op)), (.lane, decide (∀ f ∈ fault.toList, f.lane < 256))]
  | .rakeReduction _ _ _ _ lanes _ _ _ _ _ => [(.lane, decide (lanes ≤ 256))]
  | .coreDmaFill _ _ dva _ _ _ => [(.deviceAddress, decide (dva < 2 ^ 41))]
  | .sliceLand _ _ _ _ _ residue => [(.residue, decide (residue < 65535))]
  | .collectiveContributionArrive _ _ _ _ _ _ _ residue _ _ _ _ => [(.residue, decide (residue < 65535))]
  | .cacheReduction _ _ _ dva _ _ _ _ => [(.deviceAddress, decide (dva < 2 ^ 41))]
  | .cacheAtomic _ dpa _ => [(.deviceAddress, decide (dpa < 2 ^ 41))]
  | .patrolScrubRead _ ch _ => [(.channel, decide (ch < 160))]
  | .mapoutCopyComplete _ logical => [(.channel, decide (logical < 160))]
  | .mapoutSwitch _ logical => [(.channel, decide (logical < 160))]
  | .queueLifeExpiry lane _ => [(.virtualLane, decide (lane < 8))]
  | .probeReceive _ path => [(.probePath, decide (path < 3))]
  | .probeReplyReceive _ _ paths _ => [(.probePath, decide (∀ p ∈ paths, p < 3))]
  | .wearSample u i _ => [(.wearPair, wearPair u i)]
  | .stripeReservationReceive _ _ set _ => [(.stripePlace, decide (set < 2))]
  | .stripeUnitReceive _ _ set seat _ unit bytes _ => [(.stripePlace, decide (set < 2 ∧ seat < 32 ∧ unit < 32)), (.unitBytes, decide (bytes.length = 2097152))]
  | .stripeAckReceive _ pos _ unit _ => [(.stripePlace, decide (pos < 32 ∧ unit < 32))]
  | .stripeRebuildOrder _ lost => [(.stripePlace, decide (∀ u ∈ lost, u.seat < 32 ∧ u.set < 2 ∧ u.unit < 32))]
  | .flitReceive _ f _ => [(.flitFields, flitFields f)]
  | .markerReceive _ lane => [(.virtualLane, decide (lane < 8))]
  | .packetReceive _ lane h => [(.virtualLane, decide (lane < 8)), (.packetFields, packetFields h)]
  | .stackThrottle _ temps => [(.sampleCount, decide (temps.length = 5))]
  | .brakeValueCompute predicted => [(.sampleCount, decide (predicted.length = 4 ∧ ∀ l ∈ predicted, l.length = 22))]
  | .thermalTripRelease junctions stackTemps => [(.sampleCount, decide (junctions.length = 7 ∧ stackTemps.length = 20))]
  | .mapOutChannel _ ch => [(.channel, decide (ch < 160))]
  | .startMargining _ ch => [(.channel, decide (ch < 160))]
  | .guestRequest addr _ _ _ => [(.guestAddress, decide (addr < 2 ^ 64))]
  | .hbmControllerFault _ _ channels => [(.channel, decide (∀ c ∈ channels, c.ch < 160))]
  | .bistRunComplete misr => [(.sampleCount, decide (misr.length = 7))]
  | .bankCommitGo _ tag => [(.commitTag, decide (tag < 65536))]
  | .bankSafePointApply b unit => [(.bankUnit, decide (unit < bankUnits b))]
  | .mssRegisterWrite addr _ => [(.wordAddress, decide (addr < 0x4000000 ∧ addr % 4 = 0))]
  | .registerWrite _ addr _ be => [(.wordAddress, decide (addr < 0x4000000 ∧ addr % 4 = 0)), (.byteEnables, decide (be < 16))]
  | .regulatorWindow demand => [(.partition, decide (∀ e ∈ demand, e.1 < 4 ∧ e.2.1 < 8))]
  | .marginingComplete _ ch _ => [(.channel, decide (ch < 160))]
  | .loadProgram _ image => [(.programFields, fetchedFields image)]
  | .acrSwitch _ image => [(.programFields, fetchedFields image)]
  | .beaconReceive _ b => [(.beaconFields, beaconFields b)]
  | .verifyComplete staged => [(.bundleFields, bundleFields staged)]
  | .declarationReceive _ _ _ _ _ _ _ level => [(.level, decide (level < 256))]
  | .localResultKnown _ step => [(.stepNumber, decide (step < 2 ^ 48))]
  | .voteReduced _ tag _ _ _ => [(.stepNumber, decide (tag.step < 2 ^ 48))]
  | .buddySliceReceive _ tag _ _ _ _ _ => [(.stepNumber, decide (tag.step < 2 ^ 48))]
  | .digestExchangeReceive _ tag _ _ _ _ => [(.stepNumber, decide (tag.step < 2 ^ 48))]
  | .takeoverRecordReceive _ _ step attempt body upd cons0 cons1 prod2 posted crcs =>
    [(.stepNumber, decide (step < 2 ^ 48)), (.takeoverFields, takeoverFields ⟨0, attempt, [], upd, cons0, cons1, prod2, posted, crcs⟩)] ++ recordBody body
  | .takeoverOrderReceive _ _ _ _ clearing => [(.clearingId, decide (clearing < 4096))]
  | .takeoverCopyComplete _ ver live mirror prog _ again cons0 cons1 prod2 start recs =>
    [(.stepNumber, decide (ver < 2 ^ 48)), (.programFields, programFields prog),
      (.slotFields, slotFields live && slotFields mirror && slotFields again.1 && slotFields again.2),
      (.takeoverFields, ringIndex cons0 && ringIndex cons1 && ringIndex prod2 && ringIndex start.seqNo && recs.all takeoverFields)]
  | .plannedSwapStart _ _ _ step order => [(.stepNumber, decide (step < 2 ^ 48)), (.clearingId, decide (order.clearing < 4096))]
  | .saplingStart _ _ _ version acr prog slot =>
    [(.stepNumber, decide (version < 2 ^ 48)), (.programFields, decide (acr < 65536) && programFields prog), (.slotFields, slotFields slot)]
  | .saplingFeedReceive _ f => [(.stepNumber, decide (f.stepOf < 2 ^ 48))]
  | .saplingReexecuteComplete _ step _ _ => [(.stepNumber, decide (step < 2 ^ 48))]
  | .digestRecomputeComplete _ step _ _ flip peer reread written =>
    [(.stepNumber, decide (step < 2 ^ 48)), (.crc64, decide (flip < 2 ^ 64 ∧ peer < 2 ^ 64 ∧ reread < 2 ^ 64 ∧ written < 2 ^ 64))]
  | .refereeShipmentReceive _ step _ _ _ _ _ _ _ result _ _ =>
    [(.stepNumber, decide (step < 2 ^ 48)), (.crc64, decide (result < 2 ^ 64))]
  | .refereeModuleResult _ step _ _ _ => [(.stepNumber, decide (step < 2 ^ 48))]
  | .refetchRequestReceive _ _ _ version _ _ => [(.stepNumber, decide (version < 2 ^ 48))]
  | .restoreMirrorCopyReceive _ data _ => [(.slotFields, slotFields data)]
  | .exportImageReceive _ _ clearing _ _ image =>
    [(.clearingId, decide (clearing < 4096)), (.stepNumber, decide (image.step < 2 ^ 48)), (.slotFields, slotFields image.data)]
  | .saplingStepCompare _ step _ => [(.stepNumber, decide (step < 2 ^ 48))]
  | .checkpointCompletionReduced _ step _ _ => [(.stepNumber, decide (step < 2 ^ 48))]
  | .unloadProgram .. | .step .. | .generate .. | .replay .. | .restore ..
  | .upload .. | .checkpoint .. | .exportSnapshot .. | .exportRelease .. | .importSnapshot .. | .fieldTest ..
  | .windowMap .. | .windowUnmap .. | .progressRecordWrite .. | .pause .. | .resume .. | .restart0 .. | .restart1 ..
  | .pauseResumeMessage .. | .coreStateSave .. | .pageResponse .. | .pagePauseTimeout .. | .pageRequestTimeout ..
  | .cxlPortFailover .. | .bothPortsUnusableTimeout | .perstAssert .. | .perstDeassert .. | .batchingWindowElapse ..
  | .generateOutputWrite .. | .stepForwardComplete .. | .stepReductionsClean .. | .updateWritten ..
  | .nextStepForwardStart .. | .rollbackAckComplete ..
  | .keepCopyComplete .. | .mxPassComplete .. | .scanOperation .. | .woodpilePush .. | .woodpilePop ..
  | .logRelease .. | .gradientContributionEntry .. | .gather .. | .normAllReduceComplete ..
  | .scaleReplayDecision .. | .scaleVersionTimeout .. | .scaleHistoryMerge .. | .reductionComplete ..
  | .refereeRecomputeComplete .. | .strikeExpiry .. | .acceptanceTestComplete .. | .graft .. | .coreTimeout ..
  | .moduleStrikeReportReceive .. | .fieldTestCaseComplete .. | .rollingTestCoreSwitch | .conditionalUseBoundary ..
  | .refetchReplyReceive .. | .domainResetComplete .. | .resetSpacingRelease ..
  | .mssWatchdogExpire | .mssLockstepMismatch | .mssResumeTimeout | .cpWatchdogExpire | .mssMailboxMessage ..
  | .peerTimeout .. | .suspectReceive .. | .probeTimeout .. | .moduleSelfFenceReceive ..
  | .rollbackOrderReceive .. | .routeUpdateReceive ..
  | .eolEvaluation | .checkpointBusyReduced .. | .quickCopyComplete ..
  | .seedbankCommandComplete .. | .seedbankRestoreBlockReceive ..
  | .restoreVoteReduced .. | .replayAllocationReduced ..
  | .idleFlitTimer .. | .linkPortDown .. | .laserLossOfLight .. | .portHoldOffExpire ..
  | .portTrainingStageComplete .. | .bringUpStageTimeout .. | .beaconTimer ..
  | .dropNoticeReceive .. | .generationNoticeReceive .. | .controlTreeContribution .. | .transitCapWindow ..
  | .berReport .. | .sensorSample .. | .powerLoopEvaluation .. | .junctionThrottle .. | .pwrBrakeAssert
  | .pwrBrakeRelease | .thermalTrip .. | .profileSelectApply | .selectProfile .. | .readLog .. | .clearLog ..
  | .commitSecurityVersion .. | .releasePrunedCore .. | .debugUnlock .. | .debugNonceRead .. | .debugTokenPresent ..
  | .setTid .. | .getTid | .getPldmVersion .. | .getPldmTypes | .getPldmCommands .. | .getPdrRepositoryInfo
  | .getPdr .. | .getSensorReading .. | .getStateSensorReadings .. | .setEventReceiver ..
  | .eventMessageBufferSize .. | .pollForPlatformEventMessage .. | .queryDeviceIdentifiers | .getFirmwareParameters
  | .requestUpdate | .passComponentTable .. | .updateComponent .. | .firmwareDataResponse .. | .transferComplete
  | .applyComplete | .activateFirmware | .getStatus | .cancelUpdateComponent | .cancelUpdate
  | .getVersion .. | .getCapabilities .. | .negotiateAlgorithms .. | .getDigests .. | .getCertificate ..
  | .challenge .. | .getMeasurements .. | .keyExchange .. | .finish .. | .heartbeat .. | .keyUpdate ..
  | .endSession .. | .query .. | .keyProg .. | .kSetGo .. | .kSetStop .. | .guestTimeout | .modResetNAssert ..
  | .modResetNRelease .. | .mainPowerLoss | .mainPowerReturn | .refclkLost | .refclkReturn | .pllUnlock ..
  | .startupComplete .. | .trellisLaneErrors .. | .trellisLinkLoss .. | .pwrStateGo ..
  | .powerStateTransitionComplete | .pwrStateRefusedClear | .bistGo .. | .bankCommitDiscard ..
  | .bstatSupersededClear .. | .profileGo .. | .hubTimeLoRead | .acrSwitchVoteReduced ..
  | .stripeReservationReplyReceive .. | .stripeRegionReleaseReceive .. | .eolNoSpareReceive .. | .mssFailedReceive .. => []

/-- The checks a command fails. -/
def failing (i : Instr) : List Check := ((checks i).filter (fun e => !e.2)).map (fun e => e.1)

/-- A command is well formed: it fails no check. -/
def WellFormed (i : Instr) : Prop := failing i = []

end Sys2Proof
end

