-- ==== Sys2Proof/Tests/Slice0.lean ====
section
/-! SUPPORT. Tests: an ill-formed command for each check, the worked examples of the manual, and for each statement a state and operands that meet the hypotheses of each of its clauses. -/

set_option linter.unusedVariables false

namespace Sys2Proof.Tests

open Sys2Proof Sys2Proof.Machine

set_option Elab.async false

/-! ## Small states -/

/-- A descriptor of 64 bytes with some bytes set. -/
def desc (l : List (Nat × Byte)) : List Byte := l.foldl (fun b e => b.set e.1 e.2) (List.replicate 64 0)

/-- A checked descriptor at index 0. -/
def qd (k : DescKind) (l : List (Nat × Byte)) : QDesc := ⟨0, k, desc l, {}⟩

/-- A module that serves context 0 on port A: registers of ring set 0 with 8 entries each, every ring enabled. -/
def base : State :=
  { regs := { active := [(aCtxCfg 0, 1), (aRingCfg 0 0, 0x40008), (aRingCfg 0 1, 0x40008), (aRingCfg 0 2, 0x40008),
      (aRingCfg 0 3, 0x40008), (aRingCfg 0 4, 0x40008), (aRingCfg 0 5, 0x40008), (aRingCfg 16 5, 0x40008)] }
    hub := { firstReady := true, power := .ready, starting := .none }
    cxl := { a := { up := true, width := 8, rate := 64, ats := true, pasid := true, pri := true, perst := false } } }

/-- With context 0 as given. -/
def withCtx (x : Ctx) : State := { base with ctxs := [(0, x)] }

/-- With ring set 0 as given. -/
def withRing (r : RingSet) (s : State) : State := { s with rings := [(0, r)] }

/-- With a descriptor at the head of the step ring, or of the service ring, of context 0. -/
def stepHead (q : QDesc) (s : State) : State := withRing { step := { head := some q, producer := 1 } } s
/-- With a descriptor at the head of the service ring. -/
def servHead (q : QDesc) (s : State) : State := withRing { service := { head := some q, producer := 1 } } s


/-- A provisional step. -/
def stp (n : Nat) : Step := newStep n 0 (qd .step [(16, BitVec.ofNat 8 n)]) [] []

/-- An empty program of ACR 1. -/
def prog0 : Program :=
  { kind := .training, acr := 0x100, headerOk := true, imageLen := 64, formats := [], streams := [], records := []
    scaleLen := 0, batchSize := 1, batchBytes := 0, microbatches := 1, products := [], rescales := [], fxrTensors := [], logKiB := 64
    pushes := [], pops := [], pushDecls := [], regrows := [], placement := [], gradBlocks := [], dropP := []
    scanKeys := [], hasScan := false, tiedFp32 := []
    returningOps := false, collectives := [], destinations := [], hostWrites := [], metricWrites := [], shards := []
    bodyLens := [], buddies := [], slotTensors := [], tensorsPerStep := 1, dieOrder := [0], slotUnits := 1
    mirrorUnits := 1, workingUnits := 1, placementCores := 1, coreStateUnits := 1, pageTable := [], normTensor := 1
    gradTensors := [], masterOf := [], arrays0 := [], mirror0 := [] }
/-- A bank with a pending commit. -/
def pendBank (b : Bank) (snap : AL Nat Word) (us : List Nat) (s : State) : State :=
  { s with regs := { s.regs with banks := [(b, { state := 1, pending := some (snap, us) })] } }
/-- The partition map of die 0: seven partitions of 64 units; a profile and a bundle that permit ACR 0x100. -/
def loadable : State :=
  { base with
    regs := { active := base.regs.active ++ (List.range 7).flatMap (fun p =>
      [(aPartBase 0 p, BitVec.ofNat 32 (64 * p)), (aPartSize 0 p, (64 : Word))]) }
    mss := { profile := some { number := 0, secVer := 0, sigOk := true, acrs := [0x100], limitW := 1000, brakeW := 1000, parts := [], resv := [], ckpt := [], seedSlots := 2, ports := [], self := 0, planId := 0, retention := 1, bistSigs := [] }, slotA := { bundle := some { build := 0, secVer := 0, revs := [0], kinds := [], sigOk := true }, valid := true } } }

/-- The same with context 0 as given. -/
def loadableCtx (x : Ctx) : State := { loadable with ctxs := [(0, x)] }

/-- A program that declares a buddy. -/
def prog1 : Program := { prog0 with scaleLen := 1, logKiB := 2048, shards := [[0], [1]], buddies := [(0, 1)], bodyLens := [64, 64] }

/-- An exported image and its receipt. -/
def img0 : ShardImage := { step := 5, acr := 1, writer := 2, shard := 0, shapeHash := [], data := {}, digest := [9], leavesOk := true }
def rcp0 : Receipt := { dest := .e, degraded := 0, step := 5, acr := 1, shard := 0, writer := 2, clearing := 3, serial := 0, digest := [9], shapeHash := [] }

/-- A context with one writable working page, DVA page 0 at unit 1. -/
def pagedCtx : Ctx := { prog := some prog1, pages := [(0, 0x135)] }
/-- A sealed record of INT8 with scale 1. -/
def rec8 : ScaleRec := { fmt := 2, scale := 0x3F800000, sealed := true }
/-- Block references: a tile, rows, an output, and one of identity zero. -/
def refA : BlockRef := ⟨0, ⟨5, 0, 0, 0, 0, 0⟩⟩
/-- Rows. -/
def refB : BlockRef := ⟨1, ⟨6, 0, 0, 0, 0, 0⟩⟩
/-- An output. -/
def refO : BlockRef := ⟨2, ⟨1, 0, 0, 0, 0, 0⟩⟩
/-- Identity zero. -/
def ref0 : BlockRef := ⟨0, ⟨0, 0, 0, 0, 0, 0⟩⟩
/-- A whole scratchpad block of step 1 as a reference names it. -/
def blkOf (r : BlockRef) (n : Nat) (bs : List Byte) : SpadBlock :=
  { tag := tileTag r.ident ⟨n, 0⟩, tagOk := true, dataOk := true, whole := true, ident := r.ident, version := ⟨n, 0⟩, writer := some (0, 1), bytes := bs, halves := [], source := none }
/-- A pass of one row over a 2 × 2 tile of INT8, the first and last K-tile. -/
def order0 : PassOrder :=
  { ctx := 0, layer := 1, backward := false, regrow := false, tileFmt := .int8, rowFmt := .int8, rowCount := 1, kTotal := 2
    nTotal := 2, i := 0, j := 0, firstK := true, turn := false, tileRefs := [refA], rowRefs := [refB], partRefs := []
    out := .float .fp32, fn := .none, zFmt := .fp32, zRefs := [], uRefs := [], outTensor := 1, outInst := 0, outRow := 0
    outCol := 0, outRefs := [refO], out2 := 0, outRefs2 := [], tRefs := [], tSplit := none, rotSize := 0 }
/-- The same with its operands read. -/
def pass0 : Pass :=
  { order0 with step := 1, tile := [[1, 2], [3, 4]], rows := [[5, 6]], z := [], u := [], rowRec := rec8, tileRec := rec8, src := [[1, 2], [3, 4]] }
/-- Core 0 of die 0 as given, with context 0 as given. -/
def withCore (k : CoreSt) (x : Ctx) : State := { withCtx x with cores := { tbl := [(⟨0, 0⟩, k)] } }
/-- An active core with the operands of `order0`, given the pass. -/
def coreA (o : PassOrder) : CoreSt :=
  { status := .active, todo := [(1, o)], blocks := [(0, blkOf refA 1 [1, 2, 3, 4]), (1, blkOf refB 1 [5, 6])] }
/-- A log tag of tensor 7 in step 1 of context 0. -/
def tag0 : LogTag := { tensor := 7, inst := 0, ctx := 0, turned := false, last := false, layer := 1, part := 0, step := 1, epoch := 0, fmt := 2, bytes := 4 }
/-- A declared push of tensor 7, and a program with it. -/
def push7 : PushDecl := { tensor := 7, layer := 1, fmt := 2, turned := false, rowBytes := 4, bytes := 4, elastic := false, expected := 0, feeds := [] }
/-- The program. -/
def progP : Program := { prog0 with pushDecls := [push7] }
/-- A core whose block 0 is whole. -/
def coreP : CoreSt := { status := .active, blocks := [(0, blkOf ref0 1 (List.replicate 2048 3))] }
/-- An open record of tensor 3. -/
def rec3 : ScaleRec := { tensor := 3, fmt := 2, scale := 0x3F800000, satT := 4 }
/-- A collective block this module (0) owns alone. -/
def cbO : CollBlock := { tensor := 5, first := 0, count := 1, stream := 4, seqIx := 0, owner := 0, parents := [], expects := [(0, 1)], contributors := [0], guard := 1, op := .sum }
/-- One this module passes on to module 1 after two contributions. -/
def cbC : CollBlock := { cbO with owner := 1, parents := [(0, 1)], expects := [(0, 2)], contributors := [0, 2] }
/-- A program with one gradient tensor of one block of one element and two micro-batches. -/
def progG (fp32 : Bool) : Program :=
  { prog1 with microbatches := 2, gradTensors := [(5, fp32, 2)], normTensor := 9, gradBlocks := [{ tensor := 5, blk := 0, first := 0, count := 1 }] }
/-- The same used once, its block a collective of two contributions. -/
def progH : Program := { progG false with gradTensors := [(5, false, 1)], microbatches := 1, collectives := [cbC] }
/-- A step in BACKWARD. -/
def back : Step := { stp 1 with state := .backward, records := [{ tensor := 5, fmt := 8, step := 1 }, { tensor := 9, fmt := 8, step := 1 }] }
/-- A gradient block at a place in the scratchpad. -/
def refG (b : Fin 2048) : BlockRef := ⟨b, ⟨5, 0, 0, 0, 0, 0⟩⟩
/-- A core with four gradient blocks. -/
def coreG : CoreSt :=
  { status := .active, blocks := [(0, blkOf (refG 0) 1 [3]), (1, blkOf (refG 1) 1 [4]), (2, blkOf (refG 2) 1 [5])] }
/-- A block this module owns alone; one it passes on. -/
def progO : Program := { prog1 with collectives := [cbO] }
/-- Passed on. -/
def progC : Program := { prog1 with collectives := [cbC] }
/-- An arbitration of step 1 of context 0 without a referee left. -/
def arb0 : Arb := { kind := 1, fix := .blocks [(2, blkOf refO 1 [9])] [((1, 0, 0, 0), [[7]])], expected := 0, observed := 0, unit := .mx, status := .abftMismatch, ctx := 0, step := 1, attempt := 0, place := {}, referee := none, equal := false, scan := false, writer := none, atSource := false }
/-- A step in CHECKING. -/
def chk : Step := { stp 1 with state := .checking }
/-- A full-mode test of two cases at the operating point. -/
def ct0 : CoreTest := { cases := 2, done := 0, fails := [], low := 0, grafted := false, full := true, conds := [], shapes := false, ref := some ⟨0, 9⟩ }
/-- Version 0 in live slot 0 of this module. -/
def rep0 (l : Loc) (t : Bool) : State := { withCtx { prog := some prog1, steps := [stp 1] } with mem := { repairs := [(l, t)] } }
/-- One flipped data bit of a word of live slot 0; no flip. -/
def flip0 : WordFault := { loc := .live 0 0 3, word := 0, flips := 1, uncorrected := false, retries := 0 }
/-- Two flips: the parity holds. -/
def flip2 : WordFault := { loc := .live 0 0 3, word := 0, flips := 3, uncorrected := false, retries := 0 }
/-- Channel 7 trained with one spare lane. -/
def train7 : ChanTraining := ⟨7, [12], true⟩
/-- What a margining run of channel 7 of die 1 measured. -/
def marg0 : Margins := ⟨[(40, 30)], [(40, 30)], -2, 12, 1500, train7⟩
/-- Its contents in the map. -/
def dom0 (d : Domain) (x : DomSt) : State := { base with hub := { base.hub with domains := [(d, x)], timeUs := 1005 } }
/-- A member of a clearing of modules 0 and 1: table 1 is valid for context 0. -/
def clearing : State := { base with
  regs := { active := base.regs.active ++ [(aRtTable 1, 0x10005), (aRtEntry 1 1, 64)] }, grove := { spare := false } }
/-- A beacon of a hot spare, module 2. -/
def spareBeacon : Beacon := { port := 0, role := 0, phys := 2, spare := true, sapling := false, accept := true, ident := 2, gen := 0, level := 1, fwBuild := 0, serial := 0, planId := 0, expPhys := 0, expPort := 3 }
/-- An ACTIVE port 3 towards a hot spare, module 2. -/
def nearSpare : Link := { ports := [(3, { state := 4, peer := 2, beacon := some spareBeacon })] }
/-- A hot spare. -/
def spareMod : State := { base with regs := { active := [] }, hub := { base.hub with power := .ready } }
/-- A sapling of context 0 that shadows module 1. -/
def sap : Sapling := { ctx := 0, w := 1, version := 0, acr := 1, needed := 1, limit := 1, equal := 0, mismatch := 0, admitted := false, reexec := none, first := [], theirs := [] }
/-- A shadowing of module 1 by module 5, and its steward. -/
def shd : Shadow := ⟨5, 1, 0, 2, 0, 1, false⟩
/-- The steward. -/
def clearSh : State := { clearing with grove := { spare := false, shadows := [(0, shd)] } }
/-- A module that shadows with context 0 as given. -/
def saplingWith (g : Sapling) (x : Ctx) : State := { withCtx x with grove := { sapling := some g } }
/-- A step whose checks have ended. -/
def chkd : Step := { stp 1 with state := .checking }
/-- A flit of a lane's packet. -/
def fl1 : Flit := ⟨1, 1, false, false, 0, 0, false, 0, 0, 0, [], 0⟩
/-- A packet of type 8 of clearing 0 from module 5. -/
def pkt : PacketHdr := { dest := 0, src := 5, type := 8, clearing := 0, hops := 1, epoch := 0, srcGen := 2, domGen := 0, length := 64, reply := false, dom := 0, stream := 0, seq := 0, offset := 0, residue := 0, markers := 0 }
/-- Packet flits of a lane that wait at a port. -/
def port3 (p : PortSt) : State := { base with link := { ports := [(3, p)] } }
/-- A descriptor of a RESTORE of step 4 from the host, of one from this module's seedbank, of one from module 3's. -/
def restoreQ : QDesc := qd .restore [(16, 4), (22, 2), (24, 2)]
/-- What a restore reads: nothing that verifies. -/
def badInput : RestoreInput := ⟨⟨.s, 0, 4, 1, 0, 0, 0, 0, [], []⟩, false, true, [], ⟨4, 1, 0, 0, [], {}, [], true⟩⟩
/-- From this module's own seedbank. -/
def restoreS : QDesc := qd .restore [(16, 4)]
/-- From module 3's. -/
def restoreT : QDesc := qd .restore [(16, 4), (24, 3)]
/-- A stripe region of one row in set 0. -/
def region0 : StripeRegion := { rows := [(0, 1)], sets := [] }
/-- A drain of step 1. -/
def drain0 : Drain := { step := 1, sSlot := some 0, sStage := 0, sErrors := 0, sDone := none, gRows := 0, gSet := 0, gBad := [], gWait := [], gDone := none, contributed := false }
/-- A frozen version 1. -/
def frozen1 : Frozen := { step := 1, data := {}, digest := [], imported := false }
/-- Context 0 with the drain of its snapshot; the module has its identity key. -/
def draining (d : Drain) : State :=
  { withCtx { prog := some prog1, snapshot := some frozen1, drain := some d } with mss := { idKey := true } }
/-- A module whose port 3 is as given. -/
def withPort3 (x : PortSt) : State := { base with link := { ports := [(3, x)] } }
/-- A flit with no number ahead and a good CRC. -/
def flit0 : Flit := sealFlit ⟨1, 1, true, true, 0, 0, false, 2, 5, 0, [], 0⟩
/-- The beacon an open plan expects on port 3: module 0, port 0, plan 0. -/
def bcn : Beacon := { port := 0, role := 0, phys := 0, spare := false, sapling := false, accept := true, ident := 7, gen := 4, level := 1, fwBuild := 0, serial := 0, planId := 0, expPhys := 0, expPort := 3 }
/-- Table 1 with an entry for module 9 by port 3. -/
def tabled : List (Nat × Word) := base.regs.active ++ [(aRtTable 1, 0x10005), (aRtEntry 1 9, 67), (aRtEntry 1 5, 67)]
/-- Window 0 of the hedge is open for reads and writes of one page behind context 0, whose page 0 is mapped. -/
def hedged : State := { base with
  regs := { active := base.regs.active ++ [(aHedgeCfg, 1), (aHedgeWin 0, 0x87)] }, ctxs := [(0, { prog := some prog1, pages := [(0, 0x137)] })] }
/-- With the hub as given. -/
def hubbed (f : Hub → Hub) : State := { base with hub := f base.hub }
/-- The management subsystem as given. -/
def mssed (f : Mss → Mss) : State := { base with mss := f base.mss }
/-- A bundle of build 3 with family 1 at revision 0. -/
def bun : Bundle := { build := 3, secVer := 1, revs := [0], kinds := [], sigOk := true }
/-- A token of level 2 for a compute die. -/
def tok : DebugToken := { serial := 0, nonce := 0, dies := 2, level := 2, logClear := false, sigOk := true }
/-- A profile whose values every bank takes. -/
def plainProfile : Profile := { number := 0, secVer := 0, sigOk := true, acrs := [0x100], limitW := 2000, brakeW := 1000, parts := [(0, 6, 0, 1024)], resv := [4, 4, 4, 4], ckpt := [], seedSlots := 2, ports := [], self := 0, planId := 0, retention := 1, bistSigs := [] }
/-- With a staged register. -/
def stgd (a : Nat) (v : Word) : State := { base with regs := { base.regs with staged := [(a, v)] } }
/-- With the MSS in reset. -/
def mssDown (f : Hub → Hub) (g : Regs → Regs) : State :=
  { base with hub := f { base.hub with domains := [(.mss, { inReset := true })] }, regs := g base.regs }

/-! ## Ill-formed commands: each check refuses one -/

theorem test_illformed_doorbellWords : failing (.doorbellSnoop 0 [1, 2, 3]) = [.doorbellWords] := by decide
theorem test_illformed_slotBytes : failing (.descriptorHeadCheck 0 .step (List.replicate 65 0) []) = [.slotBytes] := by decide
theorem test_illformed_pageNumber : failing (.atsInvalidation .a (2 ^ 52)) = [.pageNumber] := by decide
theorem test_illformed_linkWidth : failing (.cxlLinkTrained .a 3 64 true true true) = [.linkWidth] := by decide
theorem test_illformed_linkRate : failing (.cxlLinkTrained .a 4 65 true true true) = [.linkRate] := by decide
theorem test_illformed_windowLine : failing (.backInvalidateResponse (2 ^ 30)) = [.windowLine] := by decide
theorem test_illformed_oneLine : failing (.windowHostWrite .a 63 [1, 2]) = [.oneLine] := by decide
theorem test_illformed_passShape : failing (.swapFrontDepart ⟨0, 3⟩ { order0 with rowCount := 65536 } .none) = [.passShape] := by decide
theorem test_illformed_vxSources : failing (.vxInstruction ⟨0, 3⟩ .add32 [] ⟨ref0, 0⟩ 0 0 none none) = [.vxSources] := by decide
theorem test_illformed_lane : failing (.rakeReduction ⟨0, 3⟩ .sum .fp32 ⟨ref0, 0⟩ 257 0 0 ⟨1, 0⟩ .more .none) = [.lane] := by decide
theorem test_illformed_deviceAddress : failing (.coreDmaFill ⟨0, 3⟩ 0 (2 ^ 41) ⟨ref0, ⟨1, 0⟩, ⟨0, 3⟩⟩ none none) = [.deviceAddress] := by decide
theorem test_illformed_channel : failing (.patrolScrubRead 0 160 none) = [.channel] := by decide
theorem test_illformed_virtualLane : failing (.markerReceive 0 8) = [.virtualLane] := by decide
theorem test_illformed_packetFields : failing (.packetReceive 0 0 { pkt with dest := 4096 }) = [.packetFields] := by decide
theorem test_illformed_flitFields : failing (.flitReceive 0 { flit0 with seq := 4096 } false) = [.flitFields] := by decide
theorem test_illformed_probePath : failing (.probeReceive 0 3) = [.probePath] := by decide
theorem test_illformed_wearPair : failing (.wearSample (.port 3) .slack 1) = [.wearPair] := by decide
theorem test_illformed_stripePlace : failing (.stripeReservationReceive 1 0 2 5) = [.stripePlace] := by decide
theorem test_illformed_unitBytes : failing (.stripeUnitReceive 1 0 0 2 0 3 [] true) = [.unitBytes] := by decide
theorem test_illformed_sampleCount : failing (.stackThrottle 0 [80]) = [.sampleCount] := by decide
theorem test_illformed_guestAddress : failing (.guestRequest (2 ^ 64) false [] 1) = [.guestAddress] := by decide
theorem test_illformed_commitTag : failing (.bankCommitGo .rt 65536) = [.commitTag] := by decide
theorem test_illformed_bankUnit : failing (.bankSafePointApply .ring 119) = [.bankUnit] := by decide
theorem test_illformed_wordAddress : failing (.registerWrite .a 0x202 0 15) = [.wordAddress] := by decide
theorem test_illformed_byteEnables : failing (.registerWrite .a 0x200 0 16) = [.byteEnables] := by decide
theorem test_illformed_partition : failing (.regulatorWindow [(0, 8, 1)]) = [.partition] := by decide
theorem test_illformed_residue : failing (.sliceLand 0 0 0 0 [] 65535) = [.residue] := by decide
theorem test_illformed_programFields : failing (.loadProgram 0 (.data { prog1 with acr := 65536 })) = [.programFields] := by decide
theorem test_illformed_beaconFields : failing (.beaconReceive 0 { bcn with level := 256 }) = [.beaconFields] := by decide
theorem test_illformed_bundleFields : failing (.verifyComplete (.bundle { bun with revs := [256] })) = [.bundleFields] := by decide
theorem test_illformed_stepNumber : failing (.localResultKnown 0 (2 ^ 48)) = [.stepNumber] := by decide
theorem test_illformed_level : failing (.declarationReceive 0 .lost 1 1 2 2 0 256) = [.level] := by decide
theorem test_illformed_clearingId : failing (.takeoverOrderReceive 0 0 4 ⟨5, 6⟩ 4096) = [.clearingId] := by decide
theorem test_illformed_slotFields : failing (.restoreMirrorCopyReceive 0 { t := 2 ^ 32 } true) = [.slotFields] := by decide
theorem test_illformed_takeoverFields :
    failing (.takeoverRecordReceive 0 1 1 256 (.image prog1) {} 0 0 0 false []) = [.takeoverFields] := by decide
theorem test_illformed_crc64 : failing (.digestRecomputeComplete 0 1 0 true 0 (2 ^ 64) 0 0) = [.crc64] := by decide
theorem test_wellformed_kept : WellFormed (.bankSafePointApply .ring 118) ∧ WellFormed (.probeReceive 0 2) := by
  unfold WellFormed; decide

/-! ## The manual's worked examples -/

/-- "Example: module number" (chapter 0): position 17 of grove 45 is module 1,457. -/
theorem test_module_number : groveOf 1457 = 45 ∧ 1457 % 32 = 17 := by decide

/-- "Example: INT8 × INT4 rescale to INT8": the corrected accumulator, and its rescale to 78. -/
theorem test_rescale : corrected 8 3 4 263 35 125 = -1988 ∧ rshiftRne (-1988 * 1717986918) 36 = -50 ∧
    clampInt (-50 + 128) 0 255 = 78 := by decide

/-- "Example: ties in the rescale". -/
theorem test_rescale_ties : rshiftRne (40 * 2 ^ 31) 35 = 2 ∧ rshiftRne (56 * 2 ^ 31) 35 = 4 ∧
    rshiftRne (-40 * 2 ^ 31) 35 = -2 := by decide

/-- "Example: multiplier and shift". -/
theorem test_multiplier_and_shift : deriveMs 0x3D800000 0x3C000000 0x3CA00000 = (1717986918, 36) := by decide +kernel

/-- The conversion of R110: INT8 code 200 at S = 0.05, Z = 128 stands for 3.6, which E4M3 at S = 0.25 writes as 0x56. -/
theorem test_requantise : (quantiseX .e4m3 0x3E800000 0 (dequant .int8 0x3D4CCCCD 128 200)).1 = 0x56 := by decide

/-- "Example: saturation and replay": the delayed scale, the replayed scale, its codes. -/
theorem test_saturation_scale : derive .int8 (XV.ofInt (-1)) (XV.ofInt 3) = (0x3C808081, 64) := by decide
theorem test_replay_scale : derive .int8 (.fin true 875 1000) (.fin false 725 100) = (0x3D028283, 27) := by decide
theorem test_replay_codes : (quantise .int8 0x3D028283 27 0x40E80000).1 = 255 ∧ (quantise .int8 0x3D028283 27 0x3F800000).1 = 58 ∧
    (quantise .int8 0x3D028283 27 0xBF600000).1 = 0 := by decide

/-- "Example: choosing and replaying an exponent": E = −47, E′ = −44 and the next step's −41, at G = 12. -/
theorem test_exponents : fxrExpOf (.fin false 3 4) 12 59 = -47 ∧ fxrExpOf (XV.ofInt 40) 12 62 = -44 ∧
    fxrExpOf (XV.ofInt 40) 12 59 = -41 ∧ fxrBound 12 = 2 ^ 51 - 1 := by decide

/-- "Example: one clip factor". -/
theorem test_clip_factor : fxrExpOf (XV.ofInt 40000) (guardOf 4) 59 = -41 ∧
    (clipFactor (125000 * 2 ^ 40) (-41) 0x3F800000).1 = some 0x3B83126F ∧ fmul 0x3B83126F 0x3F000000 = 0x3B03126F := by decide +kernel

/-- "Example: locating a word": die 2, channel 128. -/
theorem test_locating_a_word : State.reset.chanOf 0x100027100C8 = (2, 128) := by decide

/-- "Example: an INT4 pass with one flipped bit": every check passes; with the bit flipped the row check fails for row 1 with
expected 175 and observed 191. -/
def int4Pass : Pass :=
  { pass0 with tileFmt := .int4, rowFmt := .int4, tile := [[2, 6], [9, 1], [4, 15]], rows := [[3, 7, 1], [10, 0, 5]], kTotal := 3 }
theorem test_abft_passes : passOwn int4Pass = [[.int 73, .int 40], [.int 40, .int 135]] ∧
    passCheck int4Pass .none (passOwn int4Pass) = none := by decide
theorem test_abft_flipped_bit :
    (passCheck int4Pass (.acc 1 1 16) (faultAcc (.acc 1 1 16) (passOwn int4Pass))).map (fun e => (e.1, e.2.1, e.2.2.1, e.2.2.2.1))
      = some (1, 175, 191, 1) := by decide

/-- "Example: routing tokens to experts": the histogram, the ranks and the offsets. -/
theorem test_routing : scanResult (.histogram 4) 0 [] [2, 0, 2, 1, 3, 2, 0, 2, 1, 2] [] = [2, 2, 5, 1] ∧
    scanResult (.rank 4) 0 [] [2, 0, 2, 1, 3, 2, 0, 2, 1, 2] [] = [0, 0, 1, 0, 0, 2, 1, 3, 1, 4] ∧
    scanResult (.prefixSum false) 0 [] [2, 2, 3, 1] [] = [0, 2, 4, 7] := by decide

/-- "Example: a refused commit and its correction": the first commit is refused with BSTAT 0x0001_0007 and BFAULT 0x0_0210; the
second waits and applies with BSTAT 0x0002_0002. -/
theorem test_refused_commit : ∃ t, exec (.bankCommitGo .memReg 1) (stgd (aMemReg 4) 0x3434) = .next t ∧
    t.bstat .memReg = 0x00010007 ∧ (t.regs.bank .memReg).fault = 0x210 ∧ t.reg (aMemReg 4) = 0x3400 :=
  ⟨_, rfl, by decide⟩
theorem test_accepted_commit : ∃ t u, exec (.bankCommitGo .memReg 2) (stgd (aMemReg 4) 0x3430) = .next t ∧
    (t.regs.bank .memReg).state = 1 ∧ exec (.bankSafePointApply .memReg 0) t = .next u ∧ u.bstat .memReg = 0x00020002 ∧
    u.reg (aMemReg 4) = 0x3430 :=
  ⟨_, _, rfl, by decide, rfl, by decide⟩

/-! ## Other points the manual fixes -/

/-- R448: addresses no table assigns read 0. R462: HUB_ID of part 0x1280, variant A, stepping 0. -/
theorem test_reads : base.readReg 0x0FC = 0 ∧ base.readHub 0x100 = 0x411280 := by decide

/-- R450, R461: MEM_REG_4, its bank's COMMIT, and RT_ENTRY of table 16. -/
theorem test_addresses : aMemReg 4 = 0x00800210 ∧ bankBase .memReg = 0x00800010 ∧ aRtEntry 16 4095 = 0x1000000 + 0x40000 + 0x8000 * 16 + 8 * 4095 ∧
    bankAt 0x00800018 = some .memReg := by decide

/-- The CRC of "123456789" in the two standards of log entry 8. -/
theorem test_crcs : crc64 [0x31, 0x32, 0x33, 0x34, 0x35, 0x36, 0x37, 0x38, 0x39] = 0x6C40DF5F0B497347 ∧
    crc32 [0x31, 0x32, 0x33, 0x34, 0x35, 0x36, 0x37, 0x38, 0x39] = 0xCBF43926 := by decide +kernel

/-- R49: the Philox4x32-10 block of key and counter 0. -/
theorem test_philox : philox 0 0 0 0 0 = [0x6627E8D5, 0xE169C58D, 0xBC57AC4C, 0x9B00DBD8] := by decide

/-- R372: a completion ring's entry is visible once posted; a NOP's status is SUCCESS (R471, R486). -/
theorem test_status_codes : Status.success.code = 0 ∧ DescKind.ofCode 0 = some .nop ∧ DescKind.nop.validOn .service = true := by decide

/-! ## Witnesses: for each clause of each statement, a state and operands that meet its hypotheses together -/

theorem wit_DoorbellReadings_1 : ∃ (c : CtxId) (line : DoorbellLine) (s : State), s.served = true ∧ s.ringOn (setOf c) 0 = true :=
  ⟨0, [8, 8, 0, 0, 0, 0, 0, 0], base, by decide⟩

theorem wit_DoorbellReadings_2 : ∃ (l : SetId × DoorbellLine) (ls : List (SetId × DoorbellLine)) (s : State) (u : State), exec (.doorbellSnoop l.1 l.2) s = .next u :=
  ⟨(0, [8, 8, 0, 0, 0, 0, 0, 0]), [(1, [])], base, base.readDoorbell 0 [8, 8, 0, 0, 0, 0, 0, 0], rfl⟩

theorem wit_DoorbellReadings_3 : ∃ (c : CtxId) (line : DoorbellLine) (rest : List (SetId × DoorbellLine)) (s : State), s.served = true ∧ s.ringOn (setOf c) 0 = true ∧ setOf c ∉ rest.map (fun e => e.1) :=
  ⟨0, [8, 8, 0, 0, 0, 0, 0, 0], [(1, [])], base, by decide⟩

theorem wit_HeadChecks_1 : ∃ (c : CtxId) (ring : SubRing) (desc : List Byte) (update : List Byte) (kd : DescKind) (s : State), s.canRead c ring = true ∧ desc.length = 64 ∧ dSeq desc = (((s.ring (setOf c)).sub ring).consumer + 1).toNat ∧ DescKind.ofCode (dKind desc) = some kd ∧ ((kd = .step → update.length = 64)) ∧ headKindBad s c ring kd = none ∧ s.featureOff c (dKind desc) = false ∧ zeroBad (s.ctx c) kd desc (stepUpd (s.ctx c) desc update) = [] ∧ paramBad (s.ctx c) kd desc (stepUpd (s.ctx c) desc update) = [] ∧ zeroNoop kd desc = false ∧ kd ≠ .nop ∧ ((kd = .unloadProgram → (s.ctx c).prog.isSome = true)) :=
  ⟨0, .service, desc [(0, 1), (4, 0x10), (16, 1)], [], .checkpoint, withRing { service := { producer := 1 } } (withCtx { prog := some prog0 }), by decide⟩

theorem wit_HeadChecks_2 : ∃ (c : CtxId) (ring : SubRing) (desc : List Byte) (update : List Byte) (s : State), s.canRead c ring = true ∧ desc.length = 64 ∧ dSeq desc = (((s.ring (setOf c)).sub ring).consumer + 1).toNat ∧ dKind desc = 0 ∧ s.featureOff c 0 = false :=
  ⟨0, .step, desc [(0, 1)], [], withRing { step := { producer := 1 }, service := { producer := 1 } } base, by decide⟩

theorem wit_HeadChecks_3 : ∃ (c : CtxId) (desc : List Byte) (update : List Byte) (s : State), s.canRead c .step = true ∧ desc.length = 64 ∧ dSeq desc ≠ ((s.ring (setOf c)).step.consumer + 1).toNat :=
  ⟨0, desc [(0, 2)], [], withRing { step := { producer := 1 }, service := { producer := 1 } } base, by decide⟩

theorem wit_HeadChecks_4 : ∃ (c : CtxId) (desc : List Byte) (update : List Byte) (s : State), s.canRead c .step = true ∧ desc.length = 64 ∧ dSeq desc = ((s.ring (setOf c)).step.consumer + 1).toNat ∧ DescKind.ofCode (dKind desc) = none :=
  ⟨0, desc [(0, 1), (4, 9)], [], withRing { step := { producer := 1 }, service := { producer := 1 } } base, by decide⟩

theorem wit_ProgressRecord_1 : ∃ (set : SetId) (s : State), s.served = true ∧ s.progressOn set = true :=
  ⟨0, base, by decide⟩

theorem wit_PausesAndRestarts_1 : ∃ (c : CtxId) (w : Word) (s : State), s.barTakes (aCtxCfg c.val + 4) = true ∧ bitOf w.toNat 0 = true ∧ bitOf w.toNat 1 = false :=
  ⟨0, 1, base, by decide⟩

theorem wit_PausesAndRestarts_2 : ∃ (c : CtxId) (w : Word) (s : State), s.barTakes (aCtxCfg c.val + 4) = true ∧ bitOf w.toNat 1 = true ∧ bitOf w.toNat 0 = false :=
  ⟨0, 2, withCtx { pauseHost := true }, by decide⟩

theorem wit_PausesAndRestarts_3 : ∃ (c : CtxId) (w : Word) (s : State), bitOf w.toNat 0 = true ∧ bitOf w.toNat 1 = true :=
  ⟨0, 3, base, by decide⟩

theorem wit_PausesAndRestarts_4 : ∃ (c : CtxId) (w : Word) (s : State), s.hub.power = .dormant :=
  ⟨0, 1, { base with hub := { base.hub with power := .dormant } }, by decide⟩

theorem wit_PausesAndRestarts_5 : ∃ (c : CtxId) (s : State), (s.ctx c).paused = true ∧ (s.ctx c).loaded = true ∧ (s.ctx c).saved = false ∧ ((∀ e ∈ s.cores.tbl, ∀ p ∈ e.2.mx.running, p.ctx ≠ c)) :=
  ⟨0, withCtx { prog := some prog0, pauseHost := true }, by decide⟩

theorem wit_PausesAndRestarts_6 : ∃ (c : CtxId) (w : Word) (st : Status) (s : State), s.barTakes (aCtxCfg c.val + 4) = true ∧ bitOf w.toNat 2 = true ∧ (s.ring (setOf c)).step.stop = some st :=
  ⟨0, 4, .stepSequence, withRing { step := { stop := some .stepSequence } } base, by decide⟩

theorem wit_PausesAndRestarts_7 : ∃ (c : CtxId) (w : Word) (st : Status) (s : State), s.barTakes (aCtxCfg c.val + 4) = true ∧ bitOf w.toNat 3 = true ∧ (s.ring (setOf c)).service.stop = some st :=
  ⟨0, 0x18, .descKindInvalid, withRing { service := { stop := some .descKindInvalid } } base, by decide⟩

theorem wit_PausesAndRestarts_8 : ∃ (c : CtxId) (w : Word) (s : State), (s.ring (setOf c)).step.stop = none :=
  ⟨0, 4, base, by decide⟩

theorem wit_PausesAndRestarts_9 : ∃ (c : CtxId) (w : Word) (s : State), (s.ring (setOf c)).service.stop = none :=
  ⟨0, 8, base, by decide⟩

theorem wit_PageRequests_1 : ∃ (id : Nat) (r : PageReq) (s : State), AL.find? id s.cxl.pris = some r :=
  ⟨0, { pasid := none, page := 7, issued := 0, pauseUs := 1000, timeoutMs := 5, ctx := 0, what := .descData, offset := 0, port := .a, paused := false }, { base with cxl := { base.cxl with pris := [(0, { pasid := none, page := 7, issued := 0, pauseUs := 1000, timeoutMs := 5, ctx := 0, what := .descData, offset := 0, port := .a, paused := false })] }, hub := { base.hub with timeUs := 0 } }, by decide⟩

theorem wit_PageRequests_2 : ∃ (id : Nat) (r : PageReq) (q : QDesc) (resp : PageResp) (s : State), AL.find? id s.cxl.pris = some r ∧ r.what = .descData ∧ resp ≠ .success ∧ (s.ring (setOf r.ctx)).step.head = some q :=
  ⟨0, { pasid := none, page := 7, issued := 0, pauseUs := 1000, timeoutMs := 5, ctx := 0, what := .descData, offset := 0, port := .a, paused := false }, qd .upload [], .invalid, { stepHead (qd .upload []) base with cxl := { base.cxl with pris := [(0, { pasid := none, page := 7, issued := 0, pauseUs := 1000, timeoutMs := 5, ctx := 0, what := .descData, offset := 0, port := .a, paused := false })] }, hub := { base.hub with timeUs := 0 } }, by decide⟩

theorem wit_PageRequests_3 : ∃ (id : Nat) (r : PageReq) (q : QDesc) (s : State), AL.find? id s.cxl.pris = some r ∧ r.what = .descData ∧ (s.ring (setOf r.ctx)).step.head = some q ∧ r.issued + 1000 * r.timeoutMs ≤ s.hub.timeUs :=
  ⟨0, { pasid := none, page := 7, issued := 0, pauseUs := 1000, timeoutMs := 5, ctx := 0, what := .descData, offset := 0, port := .a, paused := false }, qd .upload [], { stepHead (qd .upload []) base with cxl := { base.cxl with pris := [(0, { pasid := none, page := 7, issued := 0, pauseUs := 1000, timeoutMs := 5, ctx := 0, what := .descData, offset := 0, port := .a, paused := false })] }, hub := { base.hub with timeUs := 5000 } }, by decide⟩

theorem wit_PageRequests_4 : ∃ (id : Nat) (r : PageReq) (s : State), AL.find? id s.cxl.pris = some r ∧ r.what = .ringLine :=
  ⟨0, { pasid := none, page := 7, issued := 0, pauseUs := 1000, timeoutMs := 5, ctx := 0, what := .ringLine, offset := 0, port := .a, paused := false }, { base with cxl := { base.cxl with pris := [(0, { pasid := none, page := 7, issued := 0, pauseUs := 1000, timeoutMs := 5, ctx := 0, what := .ringLine, offset := 0, port := .a, paused := false })] }, hub := { base.hub with timeUs := 0 } }, by decide⟩

theorem wit_PageRequests_5 : ∃ (id : Nat) (r : PageReq) (s : State), AL.find? id s.cxl.pris = some r ∧ r.what.pauses = true ∧ r.paused = false ∧ r.issued + r.pauseUs ≤ s.hub.timeUs :=
  ⟨0, { pasid := none, page := 7, issued := 0, pauseUs := 1000, timeoutMs := 5, ctx := 0, what := .descData, offset := 0, port := .a, paused := false }, { base with cxl := { base.cxl with pris := [(0, { pasid := none, page := 7, issued := 0, pauseUs := 1000, timeoutMs := 5, ctx := 0, what := .descData, offset := 0, port := .a, paused := false })] }, hub := { base.hub with timeUs := 1000 } }, by decide⟩

theorem wit_HostPorts_1 : ∃ (p : HostPort) (width : Nat) (rate : Nat) (ats : Bool) (pasid : Bool) (pri : Bool) (s : State), (s.cxlPort p).perst = false ∧ ((width = 4 ∨ width = 8)) ∧ ((rate = 32 ∨ rate = 64)) :=
  ⟨.b, 8, 64, true, true, true, { base with cxl := { base.cxl with b := { perst := false } } }, by decide⟩

theorem wit_HostPorts_2 : ∃ (p : HostPort) (inPlace : List Nat) (s : State), s.usable p = false ∧ s.usable (otherPort p) = true ∧ (s.cxlPort p).lost = true :=
  ⟨.a, [], { base with cxl := { a := { lost := true, perst := false }, b := { up := true, width := 4, rate := 32, ats := true, pasid := true, perst := false } } }, by decide⟩

theorem wit_HostPorts_3 : ∃ (since : Nat) (s : State), s.cxl.bothDown = some since ∧ since + 20000 ≤ s.hub.timeUs :=
  ⟨5, { base with hub := { base.hub with timeUs := 20005 }, cxl := { bothDown := some 5 } }, by decide⟩

theorem wit_LoadUnloadUpload_1 : ∃ (c : CtxId) (q : QDesc) (p : Program) (s : State), s.headOf c .step .loadProgram = some q ∧ (s.ctx c).loaded = false ∧ s.mss.security = .secure ∧ s.loadBad c p = [] ∧ p.imageLen = dImageLen q.bytes :=
  ⟨0, qd .loadProgram [(24, 64)], prog1, stepHead (qd .loadProgram [(24, 64)]) loadable, by decide⟩

theorem wit_LoadUnloadUpload_2 : ∃ (c : CtxId) (q : QDesc) (p : Program) (st : Status) (d : Nat) (s : State), s.headOf c .step .loadProgram = some q ∧ (s.ctx c).loaded = false ∧ s.mss.security = .secure ∧ s.loadBad c p = [(st, d)] ∧ p.imageLen = dImageLen q.bytes :=
  ⟨0, qd .loadProgram [(24, 64)], { prog1 with scaleLen := 0 }, .loadZeroField, 0, stepHead (qd .loadProgram [(24, 64)]) loadable, by decide⟩

theorem wit_LoadUnloadUpload_3 : ∃ (c : CtxId) (q : QDesc) (image : Fetch Program) (s : State), s.headOf c .step .loadProgram = some q ∧ (s.ctx c).loaded = false ∧ s.mss.security ≠ .secure :=
  ⟨0, qd .loadProgram [(24, 64)], .data prog1, stepHead (qd .loadProgram [(24, 64)]) { loadable with mss := { loadable.mss with security := .debug } }, by decide⟩

theorem wit_LoadUnloadUpload_4 : ∃ (c : CtxId) (q : QDesc) (s : State), s.headOf c .step .unloadProgram = some q ∧ (s.ctx c).steps = [] ∧ (s.ctx c).replaying = none ∧ (s.ctx c).batches = [] ∧ (s.ctx c).batch = none ∧ s.cxl.window = [] ∧ s.regionsHeld c = false :=
  ⟨0, qd .unloadProgram [], stepHead (qd .unloadProgram []) (loadableCtx { prog := some prog1, regions := [(0, [(0, 0, 3)])] }), by decide⟩

theorem wit_LoadUnloadUpload_5 : ∃ (c : CtxId) (q : QDesc) (b : List Byte) (s : State), s.headOf c .step .upload = some q ∧ (s.ctx c).steps = [] ∧ (s.ctx c).delivered .descData = [] ∧ 0 < b.length ∧ dDstDva q.bytes % 2097152 + b.length ≤ 2097152 ∧ dBlockCount q.bytes = 1 ∧ b.length = dBlockLen q.bytes ∧ pageWritable (s.ctx c) (dDstDva q.bytes / 2097152) = true :=
  ⟨0, qd .upload [(24, 4), (32, 1), (36, 3)], [1, 2, 3], stepHead (qd .upload [(24, 4), (32, 1), (36, 3)]) (loadableCtx pagedCtx), by decide⟩

theorem wit_AcrSwitchAndReplay_1 : ∃ (c : CtxId) (q : QDesc) (p : Program) (s : State), s.headOf c .step .acrSwitch = some q ∧ (s.ctx c).steps = [] ∧ (s.ctx c).replaying = none ∧ (s.ctx c).switching = none ∧ (s.ctx c).committed + 1 = dNs q.bytes :=
  ⟨0, qd .acrSwitch [(17, 1), (24, 1)], prog1, stepHead (qd .acrSwitch [(17, 1), (24, 1)]) (loadableCtx { prog := some prog1, jobAcr := some 2 }), by decide⟩

theorem wit_AcrSwitchAndReplay_2 : ∃ (c : CtxId) (f : Flow) (p : Program) (ok : Bool) (s : State), (s.ctx c).switching = some (p, ok) ∧ s.flowOf c .step .acrSwitch = some f ∧ s.shadowBelow c p.acr = false :=
  ⟨0, ⟨0, .acrSwitch, 0, none⟩, prog1, true, withRing { step := { consumer := 1, flow := [⟨0, .acrSwitch, 0, none⟩] } } (loadableCtx { switching := some (prog1, true), jobAcr := some 2 }), by decide⟩

theorem wit_AcrSwitchAndReplay_3 : ∃ (c : CtxId) (f : Flow) (p : Program) (ok : Bool) (s : State), (s.ctx c).switching = some (p, ok) ∧ s.flowOf c .step .acrSwitch = some f ∧ s.shadowBelow c p.acr = true :=
  ⟨0, ⟨0, .acrSwitch, 0, none⟩, prog1, true, { withRing { step := { consumer := 1, flow := [⟨0, .acrSwitch, 0, none⟩] } } (loadableCtx { switching := some (prog1, true), jobAcr := some 2 }) with grove := { shadows := [(0, ⟨5, 0, 0, 50, 0, 4, false⟩)] }, link := { ports := [(3, { state := 4, peer := 5, beacon := some { port := 0, role := 0, phys := 5, spare := false, sapling := true, accept := true, ident := 5, gen := 0, level := 0, fwBuild := 0, serial := 0, planId := 0, expPhys := 0, expPort := 0 } })] } }, by decide⟩

theorem wit_AcrSwitchAndReplay_4 : ∃ (c : CtxId) (f : Flow) (p : Program) (ok : Bool) (mask : Word) (s : State), (s.ctx c).switching = some (p, ok) ∧ s.flowOf c .step .acrSwitch = some f ∧ mask ≠ 0 :=
  ⟨0, ⟨0, .acrSwitch, 0, none⟩, prog1, true, 4, withRing { step := { consumer := 1, flow := [⟨0, .acrSwitch, 0, none⟩] } } (loadableCtx { switching := some (prog1, true), jobAcr := some 2 }), by decide⟩

theorem wit_AcrSwitchAndReplay_5 : ∃ (c : CtxId) (q : QDesc) (d : SlotData) (p : Program) (s : State), s.headOf c .step .replay = some q ∧ (s.ctx c).steps = [] ∧ (s.ctx c).replaying = none ∧ (s.ctx c).switching = none ∧ (s.ctx c).prog = some p ∧ (s.ctx c).replayBase (dStep q.bytes) = some d :=
  ⟨0, qd .replay [(24, 1)], {}, prog1, stepHead (qd .replay [(24, 1)]) (loadableCtx { prog := some prog1, keep := [(0, {})] }), by decide⟩

theorem wit_AcrSwitchAndReplay_6 : ∃ (c : CtxId) (q : QDesc) (s : State), s.headOf c .step .replay = some q ∧ (s.ctx c).steps = [] ∧ (s.ctx c).replaying = none ∧ (s.ctx c).switching = none ∧ (s.ctx c).replayBase (dStep q.bytes) = none :=
  ⟨0, qd .replay [(16, 5), (24, 1)], stepHead (qd .replay [(16, 5), (24, 1)]) (loadableCtx { prog := some prog1 }), by decide⟩

theorem wit_AcrSwitchAndReplay_7 : ∃ (c : CtxId) (f : Flow) (r : Replaying) (i : ReplayInput) (rest : List ReplayInput) (s : State), (s.ctx c).replaying = some r ∧ s.flowOf c .step .replay = some f ∧ (s.ctx c).steps = [] :=
  ⟨0, ⟨0, .replay, 0, none⟩, ⟨0, 1, qd .replay [(24, 1)], [], [], []⟩, { batch := [], upd := {}, rngKey := 7 }, [], withRing { step := { consumer := 1, flow := [⟨0, .replay, 0, none⟩] } } (loadableCtx { prog := some prog1, replaying := some ⟨0, 1, qd .replay [(24, 1)], [], [], []⟩ }), by decide⟩

theorem wit_AcrSwitchAndReplay_8 : ∃ (c : CtxId) (f : Flow) (r : Replaying) (mask : Word) (inputs : List ReplayInput) (s : State), (s.ctx c).replaying = some r ∧ s.flowOf c .step .replay = some f ∧ (s.ctx c).steps = [] ∧ mask ≠ 0 :=
  ⟨0, ⟨0, .replay, 0, none⟩, ⟨0, 1, qd .replay [(24, 1)], [], [], []⟩, 1, [], withRing { step := { consumer := 1, flow := [⟨0, .replay, 0, none⟩] } } (loadableCtx { prog := some prog1, replaying := some ⟨0, 1, qd .replay [(24, 1)], [], [], []⟩ }), by decide⟩

theorem wit_CheckpointDescriptors_1 : ∃ (c : CtxId) (q : QDesc) (s : State), s.headOf c .service .checkpoint = some q ∧ (s.ctx c).committed < dStep q.bytes :=
  ⟨0, qd .checkpoint [(16, 3)], servHead (qd .checkpoint [(16, 3)]) (withCtx { prog := some prog1, committed := 2 }), by decide⟩

theorem wit_CheckpointDescriptors_2 : ∃ (c : CtxId) (q : QDesc) (f : Frozen) (p : Program) (accepted : Bool) (s : State), s.headOf c .service .exportSnapshot = some q ∧ (s.ctx c).quick = none ∧ (s.ctx c).snapshot = some f ∧ (s.ctx c).prog = some p ∧ f.step = dStep q.bytes ∧ dTarget q.bytes = 0 ∧ ((∀ i, i < dLen q.bytes → s.winPage (dWindowPage q.bytes + i) = .unmapped)) :=
  ⟨0, qd .exportSnapshot [(16, 5), (28, 2), (32, 1)], ⟨5, {}, [], false⟩, prog1, true, servHead (qd .exportSnapshot [(16, 5), (28, 2), (32, 1)]) (withCtx { prog := some prog1, snapshot := some ⟨5, {}, [], false⟩ }), by decide⟩

theorem wit_CheckpointDescriptors_3 : ∃ (c : CtxId) (q : QDesc) (s : State), s.headOf c .service .importSnapshot = some q :=
  ⟨0, qd .importSnapshot [(16, 5), (24, 2), (26, 3)], servHead (qd .importSnapshot [(16, 5), (24, 2), (26, 3)]) (withCtx { prog := some prog1 }), by decide⟩

theorem wit_CheckpointDescriptors_4 : ∃ (c : CtxId) (src : ModNo) (k : Nat) (r : Receipt) (img : ShardImage) (ix : BitVec 32) (s : State), (s.ctx c).imported = some (src.val, k, img.step, img.shard, ix) ∧ s.snapshotBusy c = false ∧ r.dest = .e ∧ r.step = img.step ∧ r.shard = img.shard ∧ r.shapeHash = img.shapeHash ∧ r.acr = img.acr ∧ r.digest = img.digest ∧ img.leavesOk = true :=
  ⟨0, 2, 3, rcp0, img0, 0, withRing { service := { consumer := 1, flow := [⟨0, .importSnapshot, 0, none⟩] } } (withCtx { prog := some prog1, imported := some (2, 3, 5, 0, 0) }), by decide⟩

theorem wit_CheckpointDescriptors_5 : ∃ (c : CtxId) (src : ModNo) (k : Nat) (r : Receipt) (img : ShardImage) (ix : BitVec 32) (s : State), (s.ctx c).imported = some (src.val, k, img.step, img.shard, ix) ∧ s.snapshotBusy c = false :=
  ⟨0, 2, 3, rcp0, img0, 0, withRing { service := { consumer := 1, flow := [⟨0, .importSnapshot, 0, none⟩] } } (withCtx { prog := some prog1, imported := some (2, 3, 5, 0, 0) }), by decide⟩

theorem wit_CheckpointDescriptors_6 : ∃ (c : CtxId) (src : ModNo) (k : Nat) (r : Receipt) (sigOk : Bool) (img : ShardImage) (s : State), (s.ctx c).imported = none :=
  ⟨0, 2, 3, rcp0, true, img0, base, by decide⟩

theorem wit_WindowDescriptors_1 : ∃ (c : CtxId) (q : QDesc) (s : State), s.headOf c .service .windowMap = some q ∧ ((∀ i, i < dLen q.bytes → pageWritable (s.ctx c) (dDvaPage q.bytes + i) = true)) ∧ ((∀ i, i < dLen q.bytes → s.winPage (dWindowPage q.bytes + i) = .unmapped)) :=
  ⟨0, qd .windowMap [(28, 1), (32, 4)], servHead (qd .windowMap [(28, 1), (32, 4)]) (loadableCtx pagedCtx), by decide⟩

theorem wit_WindowDescriptors_2 : ∃ (c : CtxId) (q : QDesc) (s : State), s.headOf c .service .windowMap = some q ∧ dLen q.bytes = 1 ∧ pageWritable (s.ctx c) (dDvaPage q.bytes) = true ∧ s.winPage (dWindowPage q.bytes) ≠ .unmapped ∧ s.pageLines (dWindowPage q.bytes) ≠ [] :=
  ⟨0, qd .windowMap [(28, 1), (32, 4)], servHead (qd .windowMap [(28, 1), (32, 4)]) { loadableCtx pagedCtx with cxl := { base.cxl with window := [(4, .staging 0 0)], filter := [(131072, .a)] } }, by decide⟩

theorem wit_WindowDescriptors_3 : ∃ (c : CtxId) (q : QDesc) (d : Nat) (s : State), s.headOf c .service .windowUnmap = some q ∧ dLen q.bytes = 1 ∧ s.winPage (dWindowPage q.bytes) = .staging c d ∧ s.pageLines (dWindowPage q.bytes) = [] :=
  ⟨0, qd .windowUnmap [(28, 1), (32, 4)], 0, servHead (qd .windowUnmap [(28, 1), (32, 4)]) { loadableCtx pagedCtx with cxl := { base.cxl with window := [(4, .staging 0 0)] } }, by decide⟩

theorem wit_WindowDescriptors_4 : ∃ (c : CtxId) (q : QDesc) (d : Nat) (s : State), s.headOf c .service .exportRelease = some q ∧ dLen q.bytes = 1 ∧ s.winPage (dWindowPage q.bytes) = .exported c d ∧ s.pageLines (dWindowPage q.bytes) = [] :=
  ⟨0, qd .exportRelease [(28, 1), (32, 4)], 0, servHead (qd .exportRelease [(28, 1), (32, 4)]) { loadableCtx { pagedCtx with exports := [(4, 1, 0)] } with cxl := { base.cxl with window := [(4, .exported 0 0)] } }, by decide⟩

theorem wit_WindowDescriptors_5 : ∃ (line : Nat) (s : State), line ∈ s.cxl.snooping ∧ line / linesPerPage ∈ s.cxl.leaving ∧ ((∀ e ∈ s.cxl.filter, e.1 / linesPerPage = line / linesPerPage → e.1 = line)) :=
  ⟨131072, { loadableCtx pagedCtx with cxl := { base.cxl with window := [(4, .staging 0 0)], snooping := [131072], leaving := [4], filter := [(131072, .a)] } }, by decide⟩

theorem wit_WindowAccess_1 : ∃ (p : HostPort) (line : Nat) (cached : Bool) (c : CtxId) (d : Nat) (s : State), line / linesPerPage < 32768 ∧ s.winPage (line / linesPerPage) = .staging c d :=
  ⟨.a, 131073, false, 0, 0, { loadableCtx pagedCtx with cxl := { base.cxl with window := [(4, .staging 0 0)] } }, by decide⟩

theorem wit_WindowAccess_2 : ∃ (p : HostPort) (line : Nat) (cached : Bool) (f : WordFault) (s : State), line / linesPerPage < 32768 ∧ s.winPage (line / linesPerPage) ≠ .unmapped ∧ wordFails f (faultWord ((s.windowLine line).getD []) f) = true :=
  ⟨.a, 131073, true, ⟨.snapshot 0 0, 0, 1, false, 0, false⟩, { loadableCtx pagedCtx with cxl := { base.cxl with window := [(4, .staging 0 0)] } }, by decide +kernel⟩

theorem wit_WindowAccess_3 : ∃ (p : HostPort) (line : Nat) (parity : Option WordFault) (cached : Bool) (s : State), s.winPage (line / linesPerPage) = .unmapped :=
  ⟨.a, 7, none, false, { loadableCtx pagedCtx with cxl := { base.cxl with window := [(4, .staging 0 0)] } }, by decide⟩

theorem wit_WindowAccess_4 : ∃ (p : HostPort) (addr : Nat) (bytes : List Byte) (c : CtxId) (d : Nat) (s : State), addr % 64 + bytes.length ≤ 64 ∧ s.winPage (addr / 2097152) = .staging c d :=
  ⟨.a, 8388612, [1, 2], 0, 0, { loadableCtx pagedCtx with cxl := { base.cxl with window := [(4, .staging 0 0)] } }, by decide⟩

theorem wit_WindowAccess_5 : ∃ (p : HostPort) (addr : Nat) (bytes : List Byte) (s : State), s.winPage (addr / 2097152) = .unmapped :=
  ⟨.a, 64, [1], { loadableCtx pagedCtx with cxl := { base.cxl with window := [(4, .staging 0 0)] } }, by decide⟩

theorem wit_StepTakesEffect_1 : ∃ (c : CtxId) (q : QDesc) (b : List (List Byte)) (s : State), s.headOf c .step .step = some q ∧ s.admits c = true ∧ dStep q.bytes = (s.ctx c).committed + (s.ctx c).steps.length + 1 ∧ (s.regs.bank .cpStep).pending = none ∧ (s.regs.bank .ckpt).pending = none :=
  ⟨0, qd .step [(16, 1)], [[1]], stepHead (qd .step [(16, 1)]) base, by decide⟩

theorem wit_StepTakesEffect_2 : ∃ (c : CtxId) (q : QDesc) (off : Nat) (got : List Byte) (s : State), s.headOf c .step .step = some q ∧ s.admits c = true ∧ dStep q.bytes = (s.ctx c).committed + (s.ctx c).steps.length + 1 ∧ (s.regs.bank .cpStep).pending = none ∧ (s.regs.bank .ckpt).pending = none :=
  ⟨0, qd .step [(16, 2)], 64, [1], stepHead (qd .step [(16, 2)]) (withCtx { steps := [stp 1] }), by decide⟩

theorem wit_StepTakesEffect_3 : ∃ (c : CtxId) (q : QDesc) (b : Fetch (List (List Byte))) (s : State), s.headOf c .step .step = some q ∧ s.admits c = true ∧ dStep q.bytes ≠ (s.ctx c).committed + (s.ctx c).steps.length + 1 :=
  ⟨0, qd .step [(16, 7)], .data [], stepHead (qd .step [(16, 7)]) base, by decide⟩

theorem wit_StepTakesEffect_4 : ∃ (c : CtxId) (q : QDesc) (b : Fetch (List (List Byte))) (s : State), s.headOf c .step .step = some q ∧ s.admits c = false :=
  ⟨0, qd .step [(16, 1)], .data [], stepHead (qd .step [(16, 1)]) (withCtx { pauseHost := true }), by decide⟩

theorem wit_StepTakesEffect_5 : ∃ (c : CtxId) (q : QDesc) (b : List (List Byte)) (w : Word) (s : State), s.headOf c .step .step = some q ∧ s.admits c = true ∧ (s.ctx c).steps = [] ∧ dStep q.bytes = (s.ctx c).committed + 1 ∧ (s.regs.bank .cpStep).pending = some ([(aStepPol c.val, w)], [c.val]) ∧ (s.regs.bank .ckpt).pending = none ∧ s.inReset .cp = false ∧ s.hub.power = .ready ∧ s.behindProfile .cpStep = false :=
  ⟨0, qd .step [(16, 1)], [[1]], 0x15, stepHead (qd .step [(16, 1)]) (pendBank .cpStep [(aStepPol 0, 0x15)] [0] base), by decide⟩

theorem wit_ForwardOrder_1 : ∃ (c : CtxId) (u : Step) (s : State), (s.ctx c).steps = [u] ∧ u.state = .forward ∧ u.batchWait = false ∧ s.noneLeft c u.number (fun o => !o.backward && !o.regrow) = true ∧ u.sealedAll = true :=
  ⟨0, stp 1, withCtx { steps := [stp 1] }, by decide⟩

theorem wit_ForwardOrder_2 : ∃ (c : CtxId) (u : Step) (v : Step) (s : State), (s.ctx c).steps = [u, v] ∧ u.state = .backward ∧ v.state = .forward ∧ u.number < v.number :=
  ⟨0, { stp 1 with state := .backward }, stp 2, withCtx { steps := [{ stp 1 with state := .backward }, stp 2] }, by decide⟩

theorem wit_ForwardOrder_3 : ∃ (c : CtxId) (layer : Nat) (u : Step) (v : Step) (s : State), (s.ctx c).steps = [u, v] ∧ u.number < v.number ∧ layer ∈ u.layersReady ∧ v.state = .forward ∧ ((∀ l ∈ u.layersReady, l < layer → l ∈ v.forwardLayers)) :=
  ⟨0, 3, { stp 1 with state := .update, layersReady := [3] }, stp 2, withCtx { steps := [{ stp 1 with state := .update, layersReady := [3] }, stp 2] }, by decide⟩

theorem wit_ForwardOrder_4 : ∃ (c : CtxId) (layer : Nat) (u : Step) (v : Step) (s : State), (s.ctx c).steps = [u, v] ∧ layer ∉ u.layersReady :=
  ⟨0, 4, { stp 1 with state := .update, layersReady := [3] }, stp 2, withCtx { steps := [{ stp 1 with state := .update, layersReady := [3] }, stp 2] }, by decide⟩

theorem wit_VotesGoInStepOrder_1 : ∃ (c : CtxId) (u : Step) (s : State), (s.ctx c).steps = [u] ∧ u.allClean = true ∧ u.voted = none ∧ s.repairsOwed c = false ∧ s.shadowing c = false :=
  ⟨0, { stp 1 with state := .checking, ownCompared := true, mirCompared := true }, withCtx { steps := [{ stp 1 with state := .checking, ownCompared := true, mirCompared := true }] }, by decide⟩

theorem wit_VotesGoInStepOrder_2 : ∃ (c : CtxId) (u : Step) (v : Step) (s : State), (s.ctx c).steps = [u, v] ∧ u.state = .checking ∧ u.voted = none ∧ u.number < v.number ∧ v.allClean = true ∧ v.voted = none ∧ s.repairsOwed c = false ∧ s.shadowing c = false :=
  ⟨0, { stp 1 with state := .checking }, { stp 2 with state := .checking, ownCompared := true, mirCompared := true }, withCtx { steps := [{ stp 1 with state := .checking }, { stp 2 with state := .checking, ownCompared := true, mirCompared := true }] }, by decide⟩

theorem wit_VotesGoInStepOrder_3 : ∃ (c : CtxId) (n : Nat) (u : Step) (s : State), (s.ctx c).steps = [u] ∧ u.number = n ∧ u.allClean = false :=
  ⟨0, 1, { stp 1 with state := .checking }, withCtx { steps := [{ stp 1 with state := .checking }] }, by decide⟩

theorem wit_VotesGoInStepOrder_4 : ∃ (c : CtxId) (n : Nat) (s : State), s.repairsOwed c = true :=
  ⟨0, 1, { withCtx { steps := [{ stp 1 with state := .checking, ownCompared := true, mirCompared := true }] } with mem := { repairs := [(.workSlice 0 4, false)] } }, by decide⟩

theorem wit_CommitByVote_1 : ∃ (c : CtxId) (u : Step) (duration : Nat) (noPage : List Bool) (s : State), (s.ctx c).steps = [u] ∧ u.voted.isSome = true ∧ u.reduced = none ∧ u.state = .voting ∧ u.replay = false ∧ 0 < u.number ∧ s.inReset .cp = false :=
  ⟨0, { stp 1 with state := .voting, voted := some 0 }, 100, [], withCtx { steps := [{ stp 1 with state := .voting, voted := some 0 }] }, by decide⟩

theorem wit_CommitByVote_2 : ∃ (c : CtxId) (u : Step) (mask : Word) (duration : Nat) (noPage : List Bool) (s : State), (s.ctx c).steps = [u] ∧ u.voted.isSome = true ∧ u.reduced = none ∧ u.state = .voting ∧ mask ≠ 0 ∧ s.inReset .cp = false :=
  ⟨0, { stp 1 with state := .voting, voted := some 0 }, 1, 100, [], withCtx { steps := [{ stp 1 with state := .voting, voted := some 0 }] }, by decide⟩

theorem wit_CommitByVote_3 : ∃ (c : CtxId) (n : Nat) (mask : Word) (duration : Nat) (noPage : List Bool) (s : State), (s.ctx c).stepNo n = none :=
  ⟨0, 1, 0, 100, [], base, by decide⟩

theorem wit_CommitByVote_4 : ∃ (c : CtxId) (tag : StepTag) (mask : Word) (duration : Nat) (noPage : List Bool) (s : State), tag.epoch ≠ (s.ctx c).epoch :=
  ⟨0, ⟨1, 3⟩, 0, 100, [], withCtx { steps := [{ stp 1 with state := .voting, voted := some 0 }] }, by decide⟩

theorem wit_ReexecutionAndRetention_1 : ∃ (c : CtxId) (u : Step) (s : State), (s.ctx c).steps = [u] ∧ (s.ctx c).ackWait = true ∧ (s.ctx c).waitSpare = false ∧ (s.ctx c).takeoverOf = [] ∧ s.mem.mapouts = [] ∧ (s.ctx c).stopAt = none :=
  ⟨0, { stp 1 with state := .discarded, attempt := 255 }, withCtx { steps := [{ stp 1 with state := .discarded, attempt := 255 }], ackWait := true }, by decide⟩

theorem wit_ReexecutionAndRetention_2 : ∃ (c : CtxId) (u : Step) (st : Status) (s : State), (s.ctx c).steps = [u] ∧ (s.ctx c).ackWait = true ∧ (s.ctx c).waitSpare = false ∧ (s.ctx c).takeoverOf = [] ∧ s.mem.mapouts = [] ∧ (s.ctx c).stopAt = some (u.number, st) :=
  ⟨0, { stp 1 with state := .discarded, attempt := 255 }, .stepReplayLimit, withCtx { steps := [{ stp 1 with state := .discarded, attempt := 255 }], ackWait := true, stopAt := some (1, .stepReplayLimit) }, by decide⟩

theorem wit_ReexecutionAndRetention_3 : ∃ (c : CtxId) (s : State), (s.ctx c).ackWait = true ∧ (s.ctx c).waitSpare = true :=
  ⟨0, withCtx { ackWait := true, waitSpare := true }, by decide⟩

theorem wit_ReexecutionAndRetention_4 : ∃ (c : CtxId) (i : Fin 3) (rest : List (Fin 3)) (s : State), (s.ctx c).keepCopy = i :: rest ∧ (s.ctx c).keep.length < s.retention ∧ s.mem.upsets = [] ∧ s.mem.repairs = [] :=
  ⟨0, 1, [], withCtx { keepCopy := [1] }, by decide⟩

theorem wit_ReexecutionAndRetention_5 : ∃ (c : CtxId) (i : Fin 3) (rest : List (Fin 3)) (s : State), (s.ctx c).keepCopy = i :: rest ∧ (s.ctx c).keep.length = s.retention ∧ s.mem.upsets = [] ∧ s.mem.repairs = [] :=
  ⟨0, 1, [], withCtx { keepCopy := [1], keep := [(1, {})] }, by decide⟩

theorem wit_RolloutBatches_1 : ∃ (c : CtxId) (q : QDesc) (inp : List Byte) (s : State), s.headOf c .step .generate = some q ∧ (s.ctx c).batch = none ∧ (s.regs.bank .coreRbatch).pending = none ∧ dRows q.bytes < bitsOf (s.reg (aRbatch c.val)) 12 0 ∧ 0 < bitsOf (s.reg (aRbatch c.val)) 31 16 :=
  ⟨0, qd .generate [(16, 200)], [], stepHead (qd .generate [(16, 200)]) base, by decide⟩

theorem wit_RolloutBatches_2 : ∃ (c : CtxId) (q : QDesc) (inp : List Byte) (b : RBatch) (s : State), s.headOf c .step .generate = some q ∧ (s.ctx c).batch = some b ∧ b.rows + dRows q.bytes < b.target :=
  ⟨0, qd .generate [(16, 200)], [], ⟨100, [(0, 0, 100)], 512, 2000, 0⟩, stepHead (qd .generate [(16, 200)]) (withCtx { batch := some ⟨100, [(0, 0, 100)], 512, 2000, 0⟩ }), by decide⟩

theorem wit_RolloutBatches_3 : ∃ (c : CtxId) (q : QDesc) (inp : List Byte) (b : RBatch) (s : State), s.headOf c .step .generate = some q ∧ (s.ctx c).batch = some b ∧ b.rows + dRows q.bytes = b.target ∧ (s.ctx c).paused = false :=
  ⟨0, qd .generate [(16, 156), (17, 1)], [], ⟨100, [(0, 0, 100)], 512, 2000, 0⟩, stepHead (qd .generate [(16, 156), (17, 1)]) (withCtx { batch := some ⟨100, [(0, 0, 100)], 512, 2000, 0⟩ }), by decide⟩

theorem wit_RolloutBatches_4 : ∃ (c : CtxId) (q : QDesc) (inp : List Byte) (b : RBatch) (s : State), s.headOf c .step .generate = some q ∧ (s.ctx c).batch = some b ∧ b.target < b.rows + dRows q.bytes ∧ (s.ctx c).paused = false ∧ (s.regs.bank .coreRbatch).pending = none ∧ dRows q.bytes < bitsOf (s.reg (aRbatch c.val)) 12 0 ∧ 0 < bitsOf (s.reg (aRbatch c.val)) 31 16 :=
  ⟨0, qd .generate [(16, 157), (17, 1)], [], ⟨100, [(0, 0, 100)], 512, 2000, 0⟩, stepHead (qd .generate [(16, 157), (17, 1)]) (withCtx { batch := some ⟨100, [(0, 0, 100)], 512, 2000, 0⟩ }), by decide⟩

theorem wit_RolloutBatches_5 : ∃ (c : CtxId) (b : RBatch) (s : State), (s.ctx c).batch = some b ∧ b.opened + b.window ≤ s.now ∧ (s.ctx c).paused = false :=
  ⟨0, ⟨100, [(0, 0, 100)], 512, 2000, 0⟩, { withCtx { batch := some ⟨100, [(0, 0, 100)], 512, 2000, 0⟩ } with hub := { base.hub with timeUs := 2000 } }, by decide⟩

theorem wit_RolloutBatches_6 : ∃ (c : CtxId) (b : RBatch) (s : State), (s.ctx c).batch = some b ∧ b.opened + b.window ≤ s.now ∧ (s.ctx c).paused = true :=
  ⟨0, ⟨100, [(0, 0, 100)], 512, 2000, 0⟩, { withCtx { batch := some ⟨100, [(0, 0, 100)], 512, 2000, 0⟩, pausePage := true } with hub := { base.hub with timeUs := 2000 } }, by decide⟩

theorem wit_RolloutBatches_7 : ∃ (c : CtxId) (q : QDesc) (inp : List Byte) (w : Word) (s : State), s.headOf c .step .generate = some q ∧ (s.ctx c).batch = none ∧ (s.regs.bank .coreRbatch).pending = some ([(aRbatch c.val, w)], [c.val]) ∧ s.behindProfile .coreRbatch = false ∧ dRows q.bytes < bitsOf w.toNat 12 0 ∧ 0 < bitsOf w.toNat 31 16 :=
  ⟨0, qd .generate [(16, 200)], [], 0x07D00200, stepHead (qd .generate [(16, 200)]) (pendBank .coreRbatch [(aRbatch 0, 0x07D00200)] [0] base), by decide⟩

theorem wit_RolloutBatches_8 : ∃ (c : CtxId) (b : RBatch) (s : State), (s.ctx c).batch = some b ∧ s.now < b.opened + b.window :=
  ⟨0, ⟨100, [(0, 0, 100)], 512, 2000, 0⟩, { withCtx { batch := some ⟨100, [(0, 0, 100)], 512, 2000, 0⟩ } with hub := { base.hub with timeUs := 1999 } }, by decide⟩

theorem wit_RolloutBatches_9 : ∃ (c : CtxId) (b : RBatch) (bs : List RBatch) (r : BitVec 32 × Nat × Nat) (f : Flow) (out : List Byte) (s : State), (s.ctx c).batches = b :: bs ∧ b.reqs = [r] ∧ s.batchPassed c = true ∧ (s.ring (setOf c)).step.flow = [f] ∧ f.index = r.1 :=
  ⟨0, ⟨100, [(0, 0, 100)], 512, 2000, 0⟩, [], (0, 0, 100), ⟨0, .generate, 0, none⟩, [1, 2], withRing { step := { flow := [⟨0, .generate, 0, none⟩] } } (withCtx { batches := [⟨100, [(0, 0, 100)], 512, 2000, 0⟩] }), by decide⟩

theorem wit_PassStarts_1 : ∃ (k : CoreId) (n : Nat) (o : PassOrder) (s : State), (s.core k).nextPass o.ctx = some (n, o) ∧ s.mayRun k n o false = true ∧ o.empty = false ∧ (((s.core k).mx.broadcast = false ∨ (s.core k).mx.running = [])) ∧ s.arrayFree k o.ctx = true ∧ s.readsBad k o.ctx n ⟨o.outTensor, .todo o false⟩ true (passReads o) = none :=
  ⟨⟨0, 0⟩, 1, order0, withCore (coreA order0) { prog := some prog0, steps := [stp 1] }, by decide +kernel⟩

theorem wit_PassStarts_2 : ∃ (k : CoreId) (n : Nat) (o : PassOrder) (s : State), (s.core k).nextPass o.ctx = some (n, o) ∧ s.mayRun k n o true = true ∧ o.empty = false ∧ (((s.core k).mx.broadcast = true ∨ (s.core k).mx.running = [])) ∧ s.arrayFree k o.ctx = true ∧ s.readsBad k o.ctx n ⟨o.outTensor, .todo o true⟩ true (passReads o) = none :=
  ⟨⟨0, 0⟩, 0, order0, withCore { coreA order0 with todo := [(0, order0)], blocks := [(0, blkOf refA 0 [1, 2, 3, 4]), (1, blkOf refB 0 [5, 6])] } { prog := some { prog0 with kind := .rollout } }, by decide +kernel⟩

theorem wit_PassStarts_3 : ∃ (k : CoreId) (n : Nat) (o : PassOrder) (r : BlockRef) (s : State), (s.core k).nextPass o.ctx = some (n, o) ∧ s.mayRun k n o false = true ∧ o.empty = false ∧ (s.core k).mx.broadcast = false ∧ s.arrayFree k o.ctx = true ∧ s.readRefs k o.ctx n true (passReads o) = some (r, .stall) :=
  ⟨⟨0, 0⟩, 1, order0, refA, withCore { coreA order0 with blocks := [(0, blkOf refA 2 []), (1, blkOf refB 1 [5, 6])] } { prog := some prog0, steps := [stp 1] }, by decide +kernel⟩

theorem wit_PassStarts_4 : ∃ (k : CoreId) (n : Nat) (o : PassOrder) (f : PassFault) (s : State), (s.core k).nextPass o.ctx = some (n, o) ∧ s.mayRun k n o false = true ∧ o.empty = true :=
  ⟨⟨0, 0⟩, 1, { order0 with rowCount := 0, rowRefs := [] }, .none, withCore (coreA ({ order0 with rowCount := 0, rowRefs := [] })) { prog := some prog0, steps := [stp 1] }, by decide⟩

theorem wit_PassStarts_5 : ∃ (k : CoreId) (n : Nat) (o : PassOrder) (w : Stall) (f : PassFault) (s : State), (s.core k).nextPass o.ctx = some (n, o) ∧ o.empty = false ∧ (s.core k).mx.stalled = some w ∧ w.ctx ≠ o.ctx ∧ (s.ctx w.ctx).paused = false :=
  ⟨⟨0, 0⟩, 1, order0, ⟨1, 1, 5, 0, ⟨1, 0⟩⟩, .none, withCore { coreA order0 with mx := { stalled := some ⟨1, 1, 5, 0, ⟨1, 0⟩⟩ } } { prog := some prog0, steps := [stp 1] }, by decide⟩

theorem wit_ExactPassesPassTheirChecks_1 : ∃ (p : Pass), passExact p = true :=
  ⟨pass0, by decide⟩

theorem wit_OneFaultIsCaught_1 : ∃ (p : Pass) (r : Nat) (c : Nat) (delta : Int) (total : Int), passExact p = true ∧ r < p.rows.length ∧ c < passCols p ∧ delta ≠ 0 ∧ accTotal ((passOwn p).getD r []) = some total :=
  ⟨pass0, 0, 1, -3, 57, by decide⟩

theorem wit_PassEnds_1 : ∃ (k : CoreId) (p : Pass) (ps : List Pass) (s : State), (s.core k).mx.running = p :: ps ∧ (s.core k).status = .active ∧ s.inReset (.core k) = false ∧ p.out = .partialAcc ∧ p.firstK = true ∧ passExact p = true ∧ ((p.turn = false ∨ p.src = p.tile)) :=
  ⟨⟨0, 0⟩, { pass0 with out := .partialAcc, partRefs := [refO] }, [], withCore { status := .active, mx := { running := [{ pass0 with out := .partialAcc, partRefs := [refO] }] } } { prog := some prog0, steps := [stp 1] }, by decide⟩

theorem wit_PassEnds_2 : ∃ (k : CoreId) (p : Pass) (ps : List Pass) (s : State), (s.core k).mx.running = p :: ps ∧ (s.core k).status = .active ∧ s.inReset (.core k) = false ∧ p.out = .partialAcc ∧ p.firstK = false ∧ passExact p = true ∧ ((p.turn = false ∨ p.src = p.tile)) ∧ (s.core k).blockInDoubt p = false ∧ s.readsBad k p.ctx p.step { op := p.outTensor } false p.partRefs = none :=
  ⟨⟨0, 0⟩, { pass0 with out := .partialAcc, firstK := false, i := 1, partRefs := [refO] }, [], withCore { status := .active, mx := { running := [{ pass0 with out := .partialAcc, firstK := false, i := 1, partRefs := [refO] }] }, blocks := [(2, blkOf refO 1 [])] } { prog := some prog0, steps := [stp 1] }, by decide +kernel⟩

theorem wit_PassEnds_3 : ∃ (k : CoreId) (p : Pass) (ps : List Pass) (u : Step) (s : State), (s.core k).mx.running = p :: ps ∧ (s.core k).status = .active ∧ s.inReset (.core k) = false ∧ p.out ≠ .partialAcc ∧ p.firstK = true ∧ passExact p = true ∧ ((p.turn = false ∨ p.src = p.tile)) ∧ (s.ctx p.ctx).steps = [u] ∧ u.number = p.step ∧ p.regrow = false ∧ p.tSplit = none ∧ p.out2 ≠ p.outTensor ∧ p.tRefs.all (fun r => r.ident.tensor != p.outTensor) = true ∧ (((s.ctx p.ctx).prog.map (·.gradTensors)).getD []).all (fun g => g.1 != p.outTensor) = true :=
  ⟨⟨0, 0⟩, pass0, [], stp 1, withCore { status := .active, mx := { running := [pass0] } } { prog := some prog0, steps := [stp 1] }, by decide⟩

theorem wit_PassEnds_4 : ∃ (k : CoreId) (f : PassFault) (s : State), (s.core k).mx.running = [] :=
  ⟨⟨0, 0⟩, .none, withCore { status := .active } { prog := some prog0, steps := [stp 1] }, by decide⟩

theorem wit_VectorInstruction_1 : ∃ (k : CoreId) (op : VxOp) (srcs : List VecRef) (dst : VecRef) (c : CtxId) (key : Nat) (s : State), s.mayVector k c (s.vxStep k c op srcs) dst.ref.ident.tensor (vxPattern op) (.vx op srcs dst key) = true ∧ s.drawOk c op = true ∧ s.readsBad k c (s.vxStep k c op srcs) ⟨dst.ref.ident.tensor, .vec (.vx op srcs dst key)⟩ true (srcs.map (fun v => v.ref)) = none :=
  ⟨⟨0, 0⟩, .iadd, [⟨ref0, 0⟩], ⟨ref0, 1⟩, 0, 7, withCore coreP { prog := some prog0, steps := [stp 1] }, by decide +kernel⟩

theorem wit_VectorInstruction_2 : ∃ (v : VxEnv) (a : List Nat) (b : List Nat) (c : List Nat) (old : List Nat) (l : Nat), l < 256 :=
  ⟨⟨{}, {}, 1, []⟩, [3], [5], [], [], 0, by decide⟩

theorem wit_VectorInstruction_3 : ∃ (v : VxEnv) (a : List Nat) (b : List Nat) (c : List Nat) (old : List Nat) (l : Nat), l < 256 ∧ b.getD l 0 < 32 :=
  ⟨⟨{}, {}, 1, []⟩, [3], [31], [], [], 0, by decide⟩

theorem wit_RakeAndScan_1 : ∃ (k : CoreId) (op : RakeOp) (f : Fmt) (src : VecRef) (lanes : Nat) (index : Nat) (c : CtxId) (e : TensorRef) (s : State), s.mayVector k c (s.opStep k c [src.ref]) e.tensor (vecPattern 9 f.code) (.rake op f src lanes index e .more) = true ∧ (s.core k).rakeInDoubt = false ∧ s.readsBad k c (s.opStep k c [src.ref]) ⟨e.tensor, .vec (.rake op f src lanes index e .more)⟩ true [src.ref] = none :=
  ⟨⟨0, 0⟩, .sum, .fp32, ⟨ref0, 0⟩, 4, 0, 0, ⟨1, 0⟩, withCore coreP { prog := some prog0, steps := [stp 1] }, by decide +kernel⟩

theorem wit_RakeAndScan_2 : ∃ (k : CoreId) (op : RakeOp) (f : Fmt) (src : VecRef) (lanes : Nat) (index : Nat) (c : CtxId) (e : TensorRef) (d : SlotRef) (s : State), s.mayVector k c (s.opStep k c [src.ref]) d.ref.ident.tensor (vecPattern 9 f.code) (.rake op f src lanes index e (.slot d)) = true ∧ (s.core k).rakeInDoubt = false ∧ (s.core k).rake.exact = (s.core k).rake.right ∧ s.readsBad k c (s.opStep k c [src.ref]) ⟨d.ref.ident.tensor, .vec (.rake op f src lanes index e (.slot d))⟩ true [src.ref] = none :=
  ⟨⟨0, 0⟩, .max, .fp32, ⟨ref0, 0⟩, 4, 0, 0, ⟨1, 0⟩, ⟨refO, 0⟩, withCore coreP { prog := some prog0, steps := [stp 1] }, by decide +kernel⟩

theorem wit_RakeAndScan_3 : ∃ (k : CoreId) (op : ScanOp) (part : ScanPart) (dst : List BlockRef) (c : CtxId) (tensor : Nat) (s : State), s.mayVector k c (s.opStep k c (scanReads op part.src part.earlier)) tensor (vecPattern 10 0) (.scan op part dst tensor) = true ∧ part.count ≠ 0 ∧ s.readsBad k c (s.opStep k c (scanReads op part.src part.earlier)) ⟨tensor, .vec (.scan op part dst tensor)⟩ true (scanReads op part.src part.earlier) = none :=
  ⟨⟨0, 0⟩, .prefixSum true, ⟨[ref0], 2, 0, [], 1⟩, [refO], 0, 1, withCore coreP { prog := some prog0, steps := [stp 1] }, by decide +kernel⟩

theorem wit_RakeAndScan_4 : ∃ (k : CoreId) (op : ScanOp) (part : ScanPart) (dst : List BlockRef) (c : CtxId) (tensor : Nat) (f : Option (Nat × Int)) (s : State), part.count = 0 :=
  ⟨⟨0, 0⟩, .rank 4, ⟨[], 0, 0, [], 1⟩, [], 0, 1, none, withCore coreP { prog := some prog0, steps := [stp 1] }, by decide⟩

theorem wit_RakeAndScan_5 : ∃ (first : Nat) (start : List Int) (keys : List Int) (heads : List Bool), keys ≠ [] :=
  ⟨0, [0], [1, 2, 3], [], by decide⟩

theorem wit_CoreDmaFills_1 : ∃ (k : CoreId) (c : CtxId) (dva : Nat) (a : Nat) (dst : FillRef) (s : State), (s.core k).status = .active ∧ s.inReset (.core k) = false ∧ (s.ctx c).loaded = true ∧ (s.ctx c).paused = false ∧ s.reach c dva .read = some a :=
  ⟨⟨0, 0⟩, 0, 5, 805306373, ⟨ref0, ⟨1, 0⟩, ⟨0, 0⟩⟩, { loadable with ctxs := [(0, { prog := some prog0, pages := [(0, 0x18033)], steps := [stp 1] })], cores := { tbl := [(⟨0, 0⟩, { status := .active })] } }, by decide⟩

theorem wit_CoreDmaFills_2 : ∃ (k : CoreId) (c : CtxId) (dva : Nat) (dst : FillRef) (u : Step) (s : State), (s.core k).status = .active ∧ s.inReset (.core k) = false ∧ (s.ctx c).loaded = true ∧ (s.ctx c).paused = false ∧ s.reach c dva .read = none ∧ (s.ctx c).steps = [u] ∧ u.state = .forward ∧ u.voted = none :=
  ⟨⟨0, 0⟩, 0, 2097152, ⟨ref0, ⟨1, 0⟩, ⟨0, 0⟩⟩, stp 1, { loadable with ctxs := [(0, { prog := some prog0, pages := [(0, 0x18033)], steps := [stp 1] })], cores := { tbl := [(⟨0, 0⟩, { status := .active })] } }, by decide⟩

theorem wit_WoodpileIsAStack_1 : ∃ (c : CtxId) (mb : Nat) (n : Nat) (d : PushDecl) (e : CoreId × BlockRef) (s : State), ((s.ctx c).prog.bind (fun p => p.pushDecls.find? (fun x => x.tensor == d.tensor))) = some d ∧ d.elastic = false ∧ d.turned = false ∧ 0 < d.bytes ∧ d.bytes ≤ 2048 ∧ s.opStep e.1 c [e.2] = n ∧ ((s.ctx c).stepNo n).isSome = true ∧ s.pushRead c n d e = .ok ∧ ((s.core e.1).block e.2.block).bytes.length = 2048 ∧ (s.ctx c).logsHeld < (s.ctx c).logRoom :=
  ⟨0, 2, 1, push7, (⟨0, 0⟩, ref0), withCore coreP { prog := some progP, steps := [stp 1], regions := [(3, [(0, 0, 2)])] }, by decide +kernel⟩

theorem wit_WoodpileIsAStack_2 : ∃ (c : CtxId) (mb : Nat) (n : Nat) (d : PushDecl) (e : CoreId × BlockRef) (s : State), ((s.ctx c).prog.bind (fun p => p.pushDecls.find? (fun x => x.tensor == d.tensor))) = some d ∧ d.elastic = false ∧ d.turned = false ∧ 0 < d.bytes ∧ d.bytes ≤ 2048 ∧ s.opStep e.1 c [e.2] = n ∧ ((s.ctx c).stepNo n).isSome = true ∧ s.pushRead c n d e = .ok ∧ (s.ctx c).logRoom ≤ (s.ctx c).logsHeld ∧ (s.ctx c).earlierLog n = true :=
  ⟨0, 2, 2, push7, (⟨0, 0⟩, ref0), withCore coreP { prog := some progP, steps := [{ stp 1 with state := .checking }, stp 2], logStacks := [(2, [⟨tag0, [1], false, ⟨0, 0⟩⟩])], regions := [(3, [(0, 0, 1)])] }, by decide⟩

theorem wit_WoodpileIsAStack_3 : ∃ (c : CtxId) (mb : Nat) (d : PushDecl) (e : CoreId × BlockRef) (u : Step) (s : State), ((s.ctx c).prog.bind (fun p => p.pushDecls.find? (fun x => x.tensor == d.tensor))) = some d ∧ d.elastic = false ∧ d.turned = false ∧ 0 < d.bytes ∧ d.bytes ≤ 2048 ∧ s.opStep e.1 c [e.2] = u.number ∧ (s.ctx c).steps = [u] ∧ u.voted = none ∧ u.state ≠ .discarded ∧ s.pushRead c u.number d e = .ok ∧ (s.ctx c).logRoom ≤ (s.ctx c).logsHeld ∧ (s.ctx c).earlierLog u.number = false :=
  ⟨0, 2, push7, (⟨0, 0⟩, ref0), stp 1, withCore coreP { prog := some progP, steps := [stp 1], logStacks := [(2, [⟨tag0, [1], false, ⟨0, 0⟩⟩])], regions := [(3, [(0, 0, 1)])] }, by decide⟩

theorem wit_WoodpileIsAStack_4 : ∃ (k : CoreId) (c : CtxId) (mb : Nat) (w : WLog) (ws : List WLog) (pop : LogPop) (s : State), (s.ctx c).runsBack pop.expect.step = true ∧ (s.ctx c).paused = false ∧ (s.core k).status = .active ∧ s.inReset (.core k) = false ∧ AL.get [] mb (s.ctx c).logStacks = w :: ws ∧ w.popped = false ∧ s.mem.upsets = [] ∧ s.mem.repairs = [] ∧ tagExpected pop.expect w.tag = true ∧ pop.dst.length = cdiv w.payload.length 2048 :=
  ⟨⟨0, 0⟩, 0, 2, ⟨tag0, [1], false, ⟨0, 0⟩⟩, [], ⟨{ tag0 with last := true }, [ref0]⟩, withCore coreP { prog := some progP, steps := [{ stp 1 with state := .backward }], logStacks := [(2, [⟨tag0, [1], false, ⟨0, 0⟩⟩])] }, by decide⟩

theorem wit_WoodpileIsAStack_5 : ∃ (c : CtxId) (mb : Nat) (w : WLog) (s : State), AL.get [] mb (s.ctx c).logStacks = [w] ∧ s.mayRelease c w = true ∧ (s.ctx c).pushWait = [] :=
  ⟨0, 2, ⟨tag0, [1], true, ⟨0, 0⟩⟩, withCtx { prog := some progP, steps := [stp 1], logStacks := [(2, [⟨tag0, [1], true, ⟨0, 0⟩⟩])] }, by decide⟩

theorem wit_WoodpileIsAStack_6 : ∃ (c : CtxId) (mb : Nat) (w : WLog) (s : State), AL.get [] mb (s.ctx c).logStacks = [w] ∧ s.mayRelease c w = false :=
  ⟨0, 2, ⟨tag0, [1], false, ⟨0, 0⟩⟩, withCtx { prog := some progP, steps := [stp 1], logStacks := [(2, [⟨tag0, [1], false, ⟨0, 0⟩⟩])] }, by decide⟩

theorem wit_ScaleDecisions_1 : ∃ (c : CtxId) (tensor : Nat) (inst : Nat) (q : Nat) (u : Step) (r : ScaleRec) (s : State), (s.ctx c).steps = [u] ∧ u.state = .forward ∧ recAt u.records tensor inst = some r ∧ s.tensorBusy c u.number tensor = false ∧ r.sealed = false ∧ s.noneLeft c u.number (writesOut tensor inst) = true ∧ ((r.epoch ≠ 0 ∨ replayCause q r (AL.get {} (tensor, inst) u.measures) = none)) :=
  ⟨0, 3, 0, 1, { stp 1 with records := [rec3], measures := [((3, 0), { lo := 0, hi := 0x3F800000, finite := 2, far := 0 })], outTiles := [((3, 0, 0, 0), [[1]])] }, rec3, withCtx { steps := [{ stp 1 with records := [rec3], measures := [((3, 0), { lo := 0, hi := 0x3F800000, finite := 2, far := 0 })], outTiles := [((3, 0, 0, 0), [[1]])] }] }, by decide⟩

theorem wit_ScaleDecisions_2 : ∃ (c : CtxId) (tensor : Nat) (inst : Nat) (q : Nat) (u : Step) (r : ScaleRec) (st : Status) (s : State), (s.ctx c).steps = [u] ∧ u.state = .forward ∧ recAt u.records tensor inst = some r ∧ s.tensorBusy c u.number tensor = false ∧ r.sealed = false ∧ r.epoch = 0 ∧ s.noneLeft c u.number (writesOut tensor inst) = true ∧ replayCause q r (AL.get {} (tensor, inst) u.measures) = some st :=
  ⟨0, 3, 0, 1, { stp 1 with records := [rec3], measures := [((3, 0), { lo := 0, hi := 0x3F800000, finite := 2, far := 2 })], outTiles := [((3, 0, 0, 0), [[1]])] }, rec3, .scaleSaturation, withCtx { steps := [{ stp 1 with records := [rec3], measures := [((3, 0), { lo := 0, hi := 0x3F800000, finite := 2, far := 2 })], outTiles := [((3, 0, 0, 0), [[1]])] }] }, by decide⟩

theorem wit_ScaleDecisions_3 : ∃ (c : CtxId) (tensor : Nat) (u : Step) (s : State), (s.ctx c).steps = [u] ∧ u.state = .forward ∧ AL.find? tensor u.merged = none ∧ s.tensorDone c u tensor = true :=
  ⟨0, 3, { stp 1 with records := [{ rec3 with sealed := true }], measures := [((3, 0), { lo := 0, hi := 0x3F800000, finite := 2, far := 0 })], outTiles := [((3, 0, 0, 0), [[1]])] }, withCtx { steps := [{ stp 1 with records := [{ rec3 with sealed := true }], measures := [((3, 0), { lo := 0, hi := 0x3F800000, finite := 2, far := 0 })], outTiles := [((3, 0, 0, 0), [[1]])] }] }, by decide⟩

theorem wit_ScaleDecisions_4 : ∃ (c : CtxId) (tensor : Nat) (u : Step) (s : State), (s.ctx c).steps = [u] ∧ u.state = .forward ∧ (((AL.find? tensor u.merged).isSome = true ∨ s.tensorDone c u tensor = false)) :=
  ⟨0, 3, { stp 1 with merged := [(3, {})] }, withCtx { steps := [{ stp 1 with merged := [(3, {})] }] }, by decide⟩

theorem wit_ScaleDecisions_5 : ∃ (k : CoreId) (w : Stall) (u : Step) (s : State), (s.ctx w.ctx).steps = [u] ∧ u.number = w.step ∧ u.state = .forward ∧ u.voted = none ∧ (s.core k).mx.stalled = none ∧ (s.core k).stalled = some w ∧ s.stallCounts w = true ∧ (s.core k).strikes = [] ∧ (s.core k).conditional = false ∧ s.cores.tbl.all (fun e => !(s.core e.1).struck) = true :=
  ⟨⟨0, 3⟩, ⟨0, 1, 3, 0, ⟨1, 0⟩⟩, { stp 1 with records := [{ tensor := 3, fmt := 2, step := 9, sealed := true }] }, { withCtx { steps := [{ stp 1 with records := [{ tensor := 3, fmt := 2, step := 9, sealed := true }] }] } with cores := { tbl := [(⟨0, 3⟩, { stalled := some ⟨0, 1, 3, 0, ⟨1, 0⟩⟩ })] } }, by decide⟩

theorem wit_ScaleDecisions_6 : ∃ (k : CoreId) (c : CtxId) (tensor : Nat) (inst : Nat) (v : Version) (s : State), (s.core k).stallNamed c tensor inst v = none :=
  ⟨⟨0, 3⟩, 0, 3, 0, ⟨1, 0⟩, base, by decide⟩

theorem wit_ScaleDecisions_7 : ∃ (k : CoreId) (w : Stall) (s : State), (s.core k).mx.stalled = none ∧ (s.core k).stalled = some w ∧ s.stallCounts w = false :=
  ⟨⟨0, 3⟩, ⟨0, 1, 3, 0, ⟨1, 0⟩⟩, { withCtx { steps := [{ stp 1 with records := [{ tensor := 3, fmt := 2, step := 9 }] }] } with cores := { tbl := [(⟨0, 3⟩, { stalled := some ⟨0, 1, 3, 0, ⟨1, 0⟩⟩ })] } }, by decide⟩

theorem wit_SumsAreFreeOfOrder_2 : ∃ (xs : List Int), fxrMarker ∈ xs :=
  ⟨[1, fxrMarker], by decide⟩

theorem wit_SumsAreFreeOfOrder_3 : ∃ (op : CacheOp) (old : Nat) (a : Nat) (b : Nat), op ∈ [CacheOp.add32, .add64, .accInt, .accFp, .max32, .min32, .max64, .min64, .or32] :=
  ⟨.max32, 1, 2, 3, by decide⟩

theorem wit_GradientContributions_1 : ∃ (k : CoreId) (c : CtxId) (pl : GradPlace) (src : List BlockRef) (acc : List BlockRef) (u : Step) (p : Program) (g : Nat × Bool × Nat) (b : GradBlock) (s : State), (s.ctx c).steps = [u] ∧ (s.ctx c).prog = some p ∧ (s.ctx c).working = some u ∧ p.gradTensors.find? (fun e => e.1 == pl.tensor) = some g ∧ p.gradBlocks.find? (fun e => e.tensor == pl.tensor && e.blk == pl.blk) = some b ∧ u.waitGrads = [] ∧ s.mayEnter k c u p g b ⟨pl.tensor, pl.use, pl.blk, pl.mb, k, src, acc⟩ = true ∧ s.readsBad k c u.number { op := pl.tensor } false (src ++ if (AL.find? (pl.tensor, pl.use, pl.blk) u.grads).isSome then acc else []) = none ∧ p.gradBlocks.all (fun e => e.tensor != pl.tensor || e.blk == pl.blk || (u.blockDone p g e.blk).isNone) = true ∧ p.collectives.all (fun e => e.tensor != pl.tensor || decide (0 < e.count)) = true ∧ (acc.map (fun r => r.block)).Nodup ∧ ((g.2.1 = true → pl.mb = ((AL.find? (pl.tensor, pl.use, pl.blk) u.grads).map (fun a => a.mbs.length)).getD 0)) ∧ ((AL.find? (pl.tensor, pl.use, pl.blk) u.grads).map (fun a => a.mbs.length)).getD 0 + 1 < p.microbatches ∧ pl.tensor ∉ u.gathered :=
  ⟨⟨0, 0⟩, 0, ⟨5, 0, 0, 0⟩, [refG 0], [refG 1], back, progG false, (5, false, 2), { tensor := 5, blk := 0, first := 0, count := 1 }, withCore coreG { prog := some (progG false), steps := [back], accums := [] }, by decide +kernel⟩

theorem wit_GradientContributions_2 : ∃ (k : CoreId) (c : CtxId) (pl : GradPlace) (src : List BlockRef) (acc : List BlockRef) (u : Step) (p : Program) (g : Nat × Bool × Nat) (b : GradBlock) (s : State), (s.ctx c).steps = [u] ∧ (s.ctx c).prog = some p ∧ (s.ctx c).working = some u ∧ p.gradTensors.find? (fun e => e.1 == pl.tensor) = some g ∧ p.gradBlocks.find? (fun e => e.tensor == pl.tensor && e.blk == pl.blk) = some b ∧ g.2.1 = true ∧ u.waitGrads = [] ∧ s.mayEnter k c u p g b ⟨pl.tensor, pl.use, pl.blk, pl.mb, k, src, acc⟩ = true ∧ s.readsBad k c u.number { op := pl.tensor } false (src ++ if (AL.find? (pl.tensor, pl.use, pl.blk) u.grads).isSome then acc else []) = none ∧ p.gradBlocks.all (fun e => e.tensor != pl.tensor || (u.blockDone p g e.blk).isNone) = true ∧ p.collectives.all (fun e => e.tensor != pl.tensor || decide (0 < e.count)) = true ∧ pl.mb ≠ ((AL.find? (pl.tensor, pl.use, pl.blk) u.grads).map (fun a => a.mbs.length)).getD 0 :=
  ⟨⟨0, 0⟩, 0, ⟨5, 0, 1, 0⟩, [refG 0], [refG 1], back, progG true, (5, true, 2), { tensor := 5, blk := 0, first := 0, count := 1 }, withCore coreG { prog := some (progG true), steps := [back], accums := [] }, by decide +kernel⟩

theorem wit_GradientContributions_3 : ∃ (k : CoreId) (c : CtxId) (pl : GradPlace) (src : List BlockRef) (acc : List BlockRef) (u : Step) (p : Program) (g : Nat × Bool × Nat) (b : GradBlock) (cb : CollBlock) (s : State), (s.ctx c).steps = [u] ∧ (s.ctx c).prog = some p ∧ (s.ctx c).working = some u ∧ p.gradTensors.find? (fun e => e.1 == pl.tensor) = some g ∧ g.2.1 = false ∧ g.2.2 = 1 ∧ p.gradBlocks = [b] ∧ b.tensor = pl.tensor ∧ b.blk = pl.blk ∧ p.collectives = [cb] ∧ cb.tensor = pl.tensor ∧ cb.first = b.first ∧ cb.count = b.count ∧ 0 < b.count ∧ s.ident ∈ cb.contributors ∧ s.mayEnter k c u p g b ⟨pl.tensor, pl.use, pl.blk, pl.mb, k, src, acc⟩ = true ∧ s.readsBad k c u.number { op := pl.tensor } false (src ++ if (AL.find? (pl.tensor, pl.use, pl.blk) u.grads).isSome then acc else []) = none ∧ (acc.map (fun r => r.block)).Nodup ∧ ((AL.find? (pl.tensor, pl.use, pl.blk) u.grads).map (fun a => a.mbs.length)).getD 0 + 1 = p.microbatches ∧ AL.find? (cb.stream, AL.get 0 cb.stream u.streamAt + cb.seqIx, 0) (s.ctx c).accums = none ∧ 1 < AL.get 0 s.ident cb.expects :=
  ⟨⟨0, 0⟩, 0, ⟨5, 0, 0, 0⟩, [refG 0], [refG 1], back, progH, (5, false, 1), { tensor := 5, blk := 0, first := 0, count := 1 }, cbC, withCore coreG { prog := some (progH), steps := [back], accums := [] }, by decide +kernel⟩

theorem wit_GradientContributions_4 : ∃ (c : CtxId) (tensor : Nat) (u : Step) (p : Program) (g : Nat × Bool × Nat) (b : GradBlock) (a : Nat → GradSlot) (s : State), (s.ctx c).steps = [u] ∧ (s.ctx c).working = some u ∧ (s.ctx c).prog = some p ∧ p.gradTensors.find? (fun e => e.1 == tensor) = some g ∧ g.2.1 = false ∧ 0 < g.2.2 ∧ tensor ∉ u.gathered ∧ p.gradBlocks = [b] ∧ b.tensor = tensor ∧ 0 < p.microbatches ∧ (a 0).acc.length = blocksFor 64 b.count ∧ ((a 0).acc.map (fun r => r.block)).Nodup ∧ s.slotsBad c u.number tensor ((List.range g.2.2).map a) = none ∧ (s.ctx c).accums = [] ∧ ((∀ v, v < g.2.2 → AL.find? (tensor, v, b.blk) u.grads = some (a v))) ∧ ((∀ v, v < g.2.2 → (a v).mbs.length = p.microbatches)) :=
  ⟨0, 5, { back with grads := [((5, 0, 0), ⟨⟨0, 0⟩, [refG 1], [0, 1]⟩), ((5, 1, 0), ⟨⟨0, 0⟩, [refG 2], [0, 1]⟩)] }, progG false, (5, false, 2), { tensor := 5, blk := 0, first := 0, count := 1 }, fun v => ⟨⟨0, 0⟩, [refG (if v = 0 then 1 else 2)], [0, 1]⟩, withCore coreG { prog := some (progG false), steps := [{ back with grads := [((5, 0, 0), ⟨⟨0, 0⟩, [refG 1], [0, 1]⟩), ((5, 1, 0), ⟨⟨0, 0⟩, [refG 2], [0, 1]⟩)] }], accums := [] }, by decide +kernel⟩

theorem wit_GradientContributions_5 : ∃ (c : CtxId) (slice : Nat) (tensor : Nat) (first : Nat) (vals : List Int) (residue : Nat) (u : Step) (p : Program) (s : State), (s.ctx c).steps = [u] ∧ u.state = .backward ∧ (s.ctx c).prog = some p ∧ u.replay = false ∧ AL.find? slice u.slices = none ∧ vals.length ≤ 2 ^ 24 ∧ residueOf vals = residue % 65535 ∧ AL.find? c s.grove.shadows = none ∧ u.reduced? p = false :=
  ⟨0, 0, 5, 0, [7], 7, back, progG false, withCore coreG { prog := some (progG false), steps := [back], accums := [] }, by decide⟩

theorem wit_GradientContributions_6 : ∃ (c : CtxId) (slice : Nat) (tensor : Nat) (first : Nat) (vals : List Int) (residue : Nat) (u : Step) (p : Program) (s : State), (s.ctx c).steps = [u] ∧ u.state = .backward ∧ (s.ctx c).prog = some p ∧ u.voted = none ∧ AL.find? slice u.slices = none ∧ vals.length ≤ 2 ^ 24 ∧ residueOf vals ≠ residue % 65535 :=
  ⟨0, 0, 5, 0, [7], 8, back, progG false, withCore coreG { prog := some (progG false), steps := [back], accums := [] }, by decide⟩

theorem wit_GradientContributions_7 : ∃ (c : CtxId) (slice : Nat) (tensor : Nat) (first : Nat) (vals : List Int) (upd : Option UpdateRec) (u : Step) (s : State), (s.ctx c).steps = [u] ∧ u.state ≠ .discarded :=
  ⟨0, 0, 5, 0, [7], some {}, stp 1, withCore coreG { prog := some (progG false), steps := [stp 1], accums := [] }, by decide⟩

theorem wit_GradientContributions_8 : ∃ (c : CtxId) (n : Nat) (slice : Nat) (tensor : Nat) (first : Nat) (vals : List Int) (upd : Option UpdateRec) (s : State), (s.ctx c).stepNo n = none ∧ (s.ctx c).loaded = true ∧ (s.ctx c).committed + (s.ctx c).steps.length < n :=
  ⟨0, 3, 0, 5, 0, [7], some {}, withCore coreG { prog := some (progG false), steps := [stp 1], accums := [] }, by decide⟩

theorem wit_GradientContributions_9 : ∃ (c : CtxId) (tag : StepTag) (slice : Nat) (tensor : Nat) (first : Nat) (vals : List Int) (upd : Option UpdateRec) (s : State), tag.epoch ≠ (s.ctx c).epoch :=
  ⟨0, ⟨1, 9⟩, 0, 5, 0, [7], some {}, withCore coreG { prog := some (progG false), steps := [stp 1], accums := [] }, by decide⟩

theorem wit_ReductionsAndTheUpdate_1 : ∃ (c : CtxId) (tensor : Nat) (amax : Word) (u : Step) (p : Program) (s : State), (s.ctx c).steps = [u] ∧ u.state = .backward ∧ (s.ctx c).prog = some p ∧ tensor ∉ u.clean :=
  ⟨0, 5, 0x3F800000, back, progG false, withCtx { prog := some (progG false), steps := [back] }, by decide⟩

theorem wit_ReductionsAndTheUpdate_2 : ∃ (c : CtxId) (tensor : Nat) (amax : Word) (u : Step) (p : Program) (s : State), (s.ctx c).steps = [u] ∧ u.state = .backward ∧ (s.ctx c).prog = some p ∧ tensor ∉ u.clean ∧ u.normSent = false ∧ (plainGrads p).all (fun g => (u.clean ++ [tensor]).contains g) = true ∧ s.slicesIn c u p = true :=
  ⟨0, 5, 0x3F800000, back, progG false, withCtx { prog := some (progG false), steps := [back] }, by decide⟩

theorem wit_ReductionsAndTheUpdate_3 : ∃ (c : CtxId) (tensor : Nat) (amax : Word) (u : Step) (p : Program) (s : State), (s.ctx c).steps = [u] ∧ u.state = .backward ∧ (s.ctx c).prog = some p ∧ tensor ∉ u.clean ∧ tensor ∉ u.fxrReplayed :=
  ⟨0, 5, 0x3F800000, back, progG false, withCtx { prog := some (progG false), steps := [back] }, by decide⟩

theorem wit_ReductionsAndTheUpdate_4 : ∃ (c : CtxId) (tensor : Nat) (amax : Word) (u : Step) (p : Program) (s : State), (s.ctx c).steps = [u] ∧ u.state = .backward ∧ (s.ctx c).prog = some p ∧ tensor ∉ u.clean ∧ tensor ∈ u.fxrReplayed ∧ u.voted = none :=
  ⟨0, 5, 0x3F800000, { back with fxrReplayed := [5] }, progG false, withCtx { prog := some (progG false), steps := [{ back with fxrReplayed := [5] }] }, by decide⟩

theorem wit_ReductionsAndTheUpdate_5 : ∃ (c : CtxId) (qn : Int) (u : Step) (p : Program) (s : State), (s.ctx c).steps = [u] ∧ u.state = .backward ∧ (s.ctx c).prog = some p ∧ u.reduced? p = true ∧ u.clip = none ∧ u.nonfinite = false ∧ u.upd.nonfinite = false :=
  ⟨0, 4, { back with clean := [5] }, progG false, withCtx { prog := some (progG false), steps := [{ back with clean := [5] }] }, by decide⟩

theorem wit_ReductionsAndTheUpdate_6 : ∃ (c : CtxId) (u : Step) (us : List Step) (p : Program) (s : State), (s.ctx c).steps = u :: us ∧ u.state = .backward ∧ (s.ctx c).prog = some p ∧ u.replay = false ∧ u.updateClean p = true ∧ (u.clip.isSome || u.nonfinite) = true ∧ ((s.ctx c).liveSlot u.number).writable = true ∧ s.mem.upsets = [] ∧ s.mem.repairs = [] ∧ (u.nonfinite || slicesCover p ((s.ctx c).dataAt u (u.number - 1)) u.slices) = true ∧ ((∀ v ∈ us, v.number ≠ u.number)) :=
  ⟨0, { back with clean := [5, 9], nonfinite := true }, [], progG false, withCtx { prog := some (progG false), steps := [{ back with clean := [5, 9], nonfinite := true }] }, by decide⟩

theorem wit_ReductionsAndTheUpdate_7 : ∃ (c : CtxId) (u : Step) (p : Program) (s : State), (s.ctx c).steps = [u] ∧ u.state = .update ∧ (s.ctx c).prog = some p ∧ u.replay = false ∧ s.shadowing c = false ∧ (buddyOf p s.ident).isSome = true ∧ bitOf (s.reg (aStepPol c.val)) 4 = false ∧ ((s.ctx c).mirSlot u.number).state = .writing :=
  ⟨0, { back with state := .update }, progG false, withCtx { prog := some (progG false), steps := [{ back with state := .update }], mirror := [(1, { state := .writing, version := 1 })], live := [(1, { state := .writing, version := 1 })] }, by decide⟩

theorem wit_ReductionsAndTheUpdate_8 : ∃ (c : CtxId) (u : Step) (us : List Step) (p : Program) (s : State), (s.ctx c).steps = u :: us ∧ (s.ctx c).prog = some p ∧ u.replay = false ∧ ((s.ctx c).mirSlot u.number).state ≠ .writing ∧ (((s.ctx c).mirSlot u.number).writable && s.mirrorReady c u p) = false :=
  ⟨0, stp 1, [], progG false, withCtx { prog := some (progG false), steps := [stp 1], mirror := [(1, { state := .provisional, version := 1 })] }, by decide⟩

theorem wit_ReductionsAndTheUpdate_9 : ∃ (c : CtxId) (u : Step) (us : List Step) (s : State), (s.ctx c).steps = u :: us ∧ u.state ≠ .backward :=
  ⟨0, stp 1, [], withCtx { prog := some (progG false), steps := [stp 1] }, by decide⟩

theorem wit_CollectivesCombine_1 : ∃ (c : CtxId) (stream : Nat) (seq : Nat) (block : Nat) (tensor : Nat) (vals : List Int) (amax : Word) (ovf : Bool) (p : Program) (b : CollBlock) (s : State), (s.ctx c).prog = some p ∧ p.collectives[block]? = some b ∧ stream < 256 ∧ AL.get 0 stream (s.ctx c).streamNext ≤ seq ∧ (AL.get {} (stream, seq, block) (s.ctx c).accums).done = false ∧ (AL.get {} (stream, seq, block) (s.ctx c).accums).got + 1 < AL.get 0 s.ident b.expects ∧ hopAgrees b.op (decide ((AL.get {} (stream, seq, block) (s.ctx c).accums).got = 0)) (AL.get {} (stream, seq, block) (s.ctx c).accums).vals vals ((AL.get {} (stream, seq, block) (s.ctx c).accums).take b.op tensor vals amax ovf).vals = true :=
  ⟨0, 4, 0, 0, 5, [1], 0, false, progC, cbC, withCtx { prog := some progC, steps := [stp 1], accums := [] }, by decide⟩

theorem wit_CollectivesCombine_2 : ∃ (c : CtxId) (stream : Nat) (seq : Nat) (block : Nat) (tensor : Nat) (vals : List Int) (amax : Word) (ovf : Bool) (p : Program) (b : CollBlock) (up : Nat) (s : State), (s.ctx c).prog = some p ∧ p.collectives[block]? = some b ∧ stream < 256 ∧ AL.get 0 stream (s.ctx c).streamNext ≤ seq ∧ (AL.get {} (stream, seq, block) (s.ctx c).accums).done = false ∧ AL.get 0 s.ident b.expects = (AL.get {} (stream, seq, block) (s.ctx c).accums).got + 1 ∧ hopAgrees b.op (decide ((AL.get {} (stream, seq, block) (s.ctx c).accums).got = 0)) (AL.get {} (stream, seq, block) (s.ctx c).accums).vals vals ((AL.get {} (stream, seq, block) (s.ctx c).accums).take b.op tensor vals amax ovf).vals = true ∧ AL.find? s.ident b.parents = some up ∧ p.collectives.all (fun e => e.owner != s.ident) = true :=
  ⟨0, 4, 0, 0, 5, [1], 0, false, progC, cbC, 1, withCtx { prog := some progC, steps := [stp 1], accums := [((4, 0, 0), { tensor := 5, vals := [1], got := 1 })] }, by decide⟩

theorem wit_CollectivesCombine_3 : ∃ (c : CtxId) (stream : Nat) (seq : Nat) (block : Nat) (tensor : Nat) (vals : List Int) (amax : Word) (ovf : Bool) (p : Program) (b : CollBlock) (s : State), (s.ctx c).prog = some p ∧ p.collectives[block]? = some b ∧ stream < 256 ∧ (s.ctx c).accums = [] ∧ AL.get 0 stream (s.ctx c).streamNext = seq ∧ AL.get 0 s.ident b.expects = 1 ∧ AL.find? s.ident b.parents = none ∧ b.owner = s.ident :=
  ⟨0, 4, 0, 0, 5, [1], 1, false, progO, cbO, withCtx { prog := some progO, steps := [stp 1] }, by decide⟩

theorem wit_CollectivesCombine_4 : ∃ (c : CtxId) (stream : Nat) (seq : Nat) (block : Nat) (tensor : Nat) (vals : List Int) (residue : Nat) (markers : Nat) (amax : Word) (ovf : Bool) (hop : Option (Nat × Int)) (p : Program) (b : CollBlock) (u : Step) (s : State), (s.ctx c).prog = some p ∧ p.collectives[block]? = some b ∧ b.op = .sum ∧ stream < 256 ∧ (AL.get {} (stream, seq, block) (s.ctx c).accums).done = false ∧ (s.ctx c).steps = [u] ∧ u.voted = none ∧ u.state ≠ .discarded ∧ ((residueOf vals ≠ residue % 65535 ∨ markerCount vals ≠ markers)) :=
  ⟨0, 4, 0, 0, 5, [1], 2, 0, 0, false, none, progC, cbC, stp 1, withCtx { prog := some progC, steps := [stp 1], accums := [] }, by decide⟩

theorem wit_CollectivesCombine_5 : ∃ (c : CtxId) (stream : Nat) (seq : Nat) (block : Nat) (tensor : Nat) (vals : List Int) (amax : Word) (ovf : Bool) (hop : Option (Nat × Int)) (p : Program) (b : CollBlock) (u : Step) (s : State), (s.ctx c).prog = some p ∧ p.collectives[block]? = some b ∧ b.op = .sum ∧ stream < 256 ∧ (AL.get {} (stream, seq, block) (s.ctx c).accums).done = false ∧ (s.ctx c).steps = [u] ∧ u.voted = none ∧ u.state ≠ .discarded ∧ residueOf vals < 65535 ∧ hopAgrees .sum (decide ((AL.get {} (stream, seq, block) (s.ctx c).accums).got = 0)) (AL.get {} (stream, seq, block) (s.ctx c).accums).vals vals (withHopFault hop ((AL.get {} (stream, seq, block) (s.ctx c).accums).take .sum tensor vals amax ovf).vals) = false :=
  ⟨0, 4, 0, 0, 5, [1], 0, false, some (0, 5), progC, cbC, stp 1, withCtx { prog := some progC, steps := [stp 1], accums := [] }, by decide⟩

theorem wit_CollectivesCombine_6 : ∃ (c : CtxId) (stream : Nat) (seq : Nat) (block : Nat) (tensor : Nat) (e : BitVec 16) (vals : List Int) (residue : Nat) (markers : Nat) (amax : Word) (ovf : Bool) (hop : Option (Nat × Int)) (p : Program) (b : CollBlock) (s : State), (s.ctx c).prog = some p ∧ p.collectives[block]? = some b ∧ e ≠ (s.ctx c).epoch :=
  ⟨0, 4, 0, 0, 5, 1, [1], 1, 0, 0, false, none, progC, cbC, withCtx { prog := some progC, steps := [stp 1], accums := [] }, by decide⟩

theorem wit_CacheOperations_1 : ∃ (op : CacheOp) (k : CoreId) (c : CtxId) (dva : Nat) (a : Nat) (src : SlotRef) (tensor : Nat) (inst : Nat) (s : State), s.issues k c = true ∧ s.reach c (cacheAddr op dva) .reduction = some a ∧ s.readsBad k c (s.workNo c) { op := tensor } false [src.ref] = none :=
  ⟨.add32, ⟨0, 0⟩, 0, 64, 805306432, ⟨refG 0, 0⟩, 5, 0, { loadable with ctxs := [(0, { prog := some prog0, pages := [(0, 0x18035)], steps := [stp 1] })], cores := { tbl := [(⟨0, 0⟩, coreG)] }, mem := { hbm := [(805306432, 3)] } }, by decide +kernel⟩

theorem wit_CacheOperations_2 : ∃ (op : CacheOp) (k : CoreId) (c : CtxId) (dva : Nat) (a : Nat) (src : SlotRef) (tensor : Nat) (inst : Nat) (s : State), s.issues k c = true ∧ s.reach c (cacheAddr op dva) .reduction = some a ∧ s.readsBad k c (s.workNo c) { op := tensor } false [src.ref] = none ∧ s.dirtyIn a = [] :=
  ⟨.add32, ⟨0, 0⟩, 0, 64, 805306432, ⟨refG 0, 0⟩, 5, 0, { loadable with ctxs := [(0, { prog := some prog0, pages := [(0, 0x18035)], steps := [stp 1] })], cores := { tbl := [(⟨0, 0⟩, coreG)] }, mem := { hbm := [(805306432, 3)] } }, by decide +kernel⟩

theorem wit_CacheOperations_3 : ∃ (op : CacheOp) (k : CoreId) (c : CtxId) (dva : Nat) (a : Nat) (src : SlotRef) (tensor : Nat) (inst : Nat) (e : RedTarget) (s : State), s.issues k c = true ∧ s.reach c (cacheAddr op dva) .reduction = some a ∧ s.readsBad k c (s.workNo c) { op := tensor } false [src.ref] = none ∧ s.mem.targets = [(a, e)] ∧ s.inputsHeld e = true :=
  ⟨.add32, ⟨0, 0⟩, 0, 64, 805306432, ⟨refG 0, 0⟩, 5, 0, ⟨0, 1, 5, 0, 4, 3⟩, { loadable with ctxs := [(0, { prog := some prog0, pages := [(0, 0x18035)], steps := [stp 1] })], cores := { tbl := [(⟨0, 0⟩, coreG)] }, mem := { hbm := [(805306432, 3)], targets := [(805306432, ⟨0, 1, 5, 0, 4, 3⟩)] } }, by decide +kernel⟩

theorem wit_CacheOperations_4 : ∃ (op : CacheOp) (k : CoreId) (c : CtxId) (dva : Nat) (src : SlotRef) (tensor : Nat) (inst : Nat) (f : CacheFault) (u : Step) (s : State), s.issues k c = true ∧ s.reach c (cacheAddr op dva) .reduction = none ∧ (s.ctx c).steps = [u] ∧ u.state = .forward ∧ u.voted = none ∧ s.shadowing c = false :=
  ⟨.add32, ⟨0, 0⟩, 0, 2097152, ⟨refG 0, 0⟩, 5, 0, .none, stp 1, { loadable with ctxs := [(0, { prog := some prog0, pages := [(0, 0x18035)], steps := [stp 1] })], cores := { tbl := [(⟨0, 0⟩, coreG)] }, mem := { hbm := [(805306432, 3)] } }, by decide⟩

theorem wit_CacheOperations_5 : ∃ (op : AtomicOp) (dpa : Nat) (s : State), s.populated dpa = true ∧ (s.partOf dpa).isSome = true :=
  ⟨.fetchAdd 4, 805306432, { loadable with ctxs := [(0, { prog := some prog0, pages := [(0, 0x18035)], steps := [stp 1] })], cores := { tbl := [(⟨0, 0⟩, coreG)] }, mem := { hbm := [(805306432, 3)] } }, by decide⟩

theorem wit_CacheOperations_6 : ∃ (op : AtomicOp) (dpa : Nat) (s : State), s.populated dpa = true ∧ (s.partOf dpa).isSome = true ∧ s.hub.cpResets = [] ∧ s.tooSoon .cp = false :=
  ⟨.exchange 4, 805306432, { loadable with ctxs := [(0, { prog := some prog0, pages := [(0, 0x18035)], steps := [stp 1] })], cores := { tbl := [(⟨0, 0⟩, coreG)] }, mem := { hbm := [(805306432, 3)] } }, by decide⟩

theorem wit_ArbitrationOutcomes_1 : ∃ (k : CoreId) (a : Arb) (as : List Arb) (u : Step) (f : RefereeFinding) (s : State), (s.core k).arbs = a :: as ∧ (s.core k).strikes = [] ∧ (s.core k).conditional = false ∧ (s.ctx a.ctx).steps = [u] ∧ u.number = a.step ∧ u.attempt = a.attempt ∧ u.state = .checking ∧ u.grads = [] ∧ (s.ctx a.ctx).prog.all (fun p => p.collectives.all (fun e => decide (0 < e.count))) = true ∧ a.referee ≠ some k ∧ s.cores.tbl.all (fun e => !(s.core e.1).struck) = true ∧ a.atSource = false ∧ ((classOf a.unit ≠ 2 ∨ f.sameTag = false)) ∧ f.ownChecks = true ∧ a.equal = true :=
  ⟨⟨0, 0⟩, { arb0 with equal := true }, [], chk, ⟨true, false, []⟩, withCore { status := .active, arbs := [{ arb0 with equal := true }] } { prog := some prog0, steps := [chk] }, by decide +kernel⟩

theorem wit_ArbitrationOutcomes_2 : ∃ (k : CoreId) (a : Arb) (as : List Arb) (u : Step) (f : RefereeFinding) (bs : List (Fin 2048 × SpadBlock)) (key : Nat × Nat × Nat × Nat) (rows : List (List Nat)) (s : State), (s.core k).arbs = a :: as ∧ (s.core k).strikes = [] ∧ (s.core k).conditional = false ∧ (s.ctx a.ctx).steps = [u] ∧ u.number = a.step ∧ u.attempt = a.attempt ∧ u.state = .checking ∧ u.grads = [] ∧ (s.ctx a.ctx).prog.all (fun p => p.collectives.all (fun e => decide (0 < e.count))) = true ∧ a.referee ≠ some k ∧ s.cores.tbl.all (fun e => !(s.core e.1).struck) = true ∧ a.atSource = false ∧ ((classOf a.unit ≠ 2 ∨ f.sameTag = false)) ∧ f.ownChecks = true ∧ a.equal = false ∧ a.fix = .blocks bs [(key, rows)] :=
  ⟨⟨0, 0⟩, arb0, [], chk, ⟨true, false, []⟩, [(2, blkOf refO 1 [9])], (1, 0, 0, 0), [[7]], withCore { status := .active, arbs := [arb0] } { prog := some prog0, steps := [chk] }, by decide +kernel⟩

theorem wit_ArbitrationOutcomes_3 : ∃ (k : CoreId) (a : Arb) (as : List Arb) (u : Step) (f : RefereeFinding) (bs : List (Fin 2048 × SpadBlock)) (acc : RakeAcc) (out : Option (XV × Int × Nat)) (s : State), (s.core k).arbs = a :: as ∧ (s.core k).strikes = [] ∧ (s.core k).conditional = false ∧ (s.ctx a.ctx).steps = [u] ∧ u.number = a.step ∧ u.attempt = a.attempt ∧ u.state = .checking ∧ u.grads = [] ∧ (s.ctx a.ctx).prog.all (fun p => p.collectives.all (fun e => decide (0 < e.count))) = true ∧ a.referee ≠ some k ∧ s.cores.tbl.all (fun e => !(s.core e.1).struck) = true ∧ a.atSource = false ∧ ((classOf a.unit ≠ 2 ∨ f.sameTag = false)) ∧ f.ownChecks = true ∧ a.equal = false ∧ a.fix = .rake acc out bs :=
  ⟨⟨0, 0⟩, { arb0 with fix := .rake {} none [] }, [], chk, ⟨true, false, []⟩, [], {}, none, withCore { status := .active, arbs := [{ arb0 with fix := .rake {} none [] }] } { prog := some prog0, steps := [chk] }, by decide⟩

theorem wit_ArbitrationOutcomes_4 : ∃ (k : CoreId) (a : Arb) (as : List Arb) (u : Step) (f : RefereeFinding) (bs : List (Fin 2048 × SpadBlock)) (out : List Int) (s : State), (s.core k).arbs = a :: as ∧ (s.core k).strikes = [] ∧ (s.core k).conditional = false ∧ (s.ctx a.ctx).steps = [u] ∧ u.number = a.step ∧ u.attempt = a.attempt ∧ u.state = .checking ∧ u.grads = [] ∧ (s.ctx a.ctx).prog.all (fun p => p.collectives.all (fun e => decide (0 < e.count))) = true ∧ a.referee ≠ some k ∧ s.cores.tbl.all (fun e => !(s.core e.1).struck) = true ∧ a.atSource = false ∧ ((classOf a.unit ≠ 2 ∨ f.sameTag = false)) ∧ f.ownChecks = true ∧ a.equal = false ∧ a.fix = .scan out bs :=
  ⟨⟨0, 0⟩, { arb0 with fix := .scan [5] [] }, [], chk, ⟨true, false, []⟩, [], [5], withCore { status := .active, arbs := [{ arb0 with fix := .scan [5] [] }] } { prog := some prog0, steps := [chk] }, by decide⟩

theorem wit_ArbitrationOutcomes_5 : ∃ (k : CoreId) (a : Arb) (u : Step) (f : RefereeFinding) (s : State), (s.core k).arbs = [a] ∧ (s.core k).strikes = [] ∧ (s.core k).conditional = false ∧ u.voted = none ∧ (s.ctx a.ctx).steps = [u] ∧ u.number = a.step ∧ u.attempt = a.attempt ∧ u.state = .checking ∧ u.grads = [] ∧ (s.ctx a.ctx).prog.all (fun p => p.collectives.all (fun e => decide (0 < e.count))) = true ∧ a.referee ≠ some k ∧ s.cores.tbl.all (fun e => !(s.core e.1).struck) = true ∧ a.referee = none ∧ f.ownChecks = false :=
  ⟨⟨0, 0⟩, arb0, chk, ⟨false, false, []⟩, withCore { status := .active, arbs := [arb0] } { prog := some prog0, steps := [chk] }, by decide +kernel⟩

theorem wit_ArbitrationOutcomes_6 : ∃ (k : CoreId) (r : CoreId) (a : Arb) (u : Step) (f : RefereeFinding) (s : State), (s.core k).arbs = [a] ∧ (s.core k).strikes = [] ∧ (s.core k).conditional = false ∧ u.voted = none ∧ (s.ctx a.ctx).steps = [u] ∧ u.number = a.step ∧ u.attempt = a.attempt ∧ u.state = .checking ∧ u.grads = [] ∧ (s.ctx a.ctx).prog.all (fun p => p.collectives.all (fun e => decide (0 < e.count))) = true ∧ a.referee ≠ some k ∧ s.cores.tbl.all (fun e => !(s.core e.1).struck) = true ∧ a.referee = some r ∧ (s.core r).strikes = [] ∧ (s.core r).conditional = false ∧ f.ownChecks = false :=
  ⟨⟨0, 0⟩, ⟨1, 0⟩, { arb0 with referee := some ⟨1, 0⟩ }, chk, ⟨false, false, []⟩, withCore { status := .active, arbs := [{ arb0 with referee := some ⟨1, 0⟩ }] } { prog := some prog0, steps := [chk] }, by decide +kernel⟩

theorem wit_ArbitrationOutcomes_7 : ∃ (k : CoreId) (a : Arb) (b : Arb) (u : Step) (f : RefereeFinding) (s : State), (s.core k).arbs = [a, b] ∧ (s.core k).strikes = [] ∧ (s.core k).conditional = false ∧ u.voted = none ∧ (s.ctx a.ctx).steps = [u] ∧ u.number = a.step ∧ u.attempt = a.attempt ∧ u.state = .checking ∧ u.grads = [] ∧ (s.ctx a.ctx).prog.all (fun p => p.collectives.all (fun e => decide (0 < e.count))) = true ∧ a.referee ≠ some k ∧ s.cores.tbl.all (fun e => !(s.core e.1).struck) = true ∧ a.referee = none ∧ b.ctx = a.ctx ∧ b.step = a.step ∧ f.ownChecks = false :=
  ⟨⟨0, 0⟩, arb0, arb0, chk, ⟨false, false, []⟩, withCore { status := .active, arbs := [arb0, arb0] } { prog := some prog0, steps := [chk] }, by decide +kernel⟩

theorem wit_ArbitrationOutcomes_8 : ∃ (k : CoreId) (w : CoreId) (a : Arb) (as : List Arb) (u : Step) (f : RefereeFinding) (s : State), (s.core k).arbs = a :: as ∧ (s.core k).strikes = [] ∧ (s.core k).conditional = false ∧ (s.ctx a.ctx).steps = [u] ∧ u.number = a.step ∧ u.attempt = a.attempt ∧ u.state = .checking ∧ u.grads = [] ∧ (s.ctx a.ctx).prog.all (fun p => p.collectives.all (fun e => decide (0 < e.count))) = true ∧ a.referee ≠ some k ∧ s.cores.tbl.all (fun e => !(s.core e.1).struck) = true ∧ (s.core w).strikes = [] ∧ (s.core w).conditional = false ∧ u.voted = none ∧ w ≠ k ∧ a.referee ≠ some w ∧ a.writer = some w ∧ f.ownChecks = true ∧ ((a.atSource = true ∨ (classOf a.unit = 2 ∧ f.sameTag = true))) :=
  ⟨⟨0, 0⟩, ⟨1, 0⟩, { arb0 with atSource := true, writer := some ⟨1, 0⟩ }, [], chk, ⟨true, false, []⟩, withCore { status := .active, arbs := [{ arb0 with atSource := true, writer := some ⟨1, 0⟩ }] } { prog := some prog0, steps := [chk] }, by decide +kernel⟩

theorem wit_ArbitrationOutcomes_9 : ∃ (k : CoreId) (a : Arb) (as : List Arb) (u : Step) (f : RefereeFinding) (s : State), (s.core k).arbs = a :: as ∧ (s.ctx a.ctx).steps = [u] ∧ u.number = a.step ∧ u.attempt = a.attempt ∧ u.state = .checking ∧ u.grads = [] ∧ (s.ctx a.ctx).prog.all (fun p => p.collectives.all (fun e => decide (0 < e.count))) = true ∧ a.referee ≠ some k ∧ s.cores.tbl.all (fun e => !(s.core e.1).struck) = true ∧ a.atSource = false ∧ ((classOf a.unit ≠ 2 ∨ f.sameTag = false)) ∧ f.ownChecks = true ∧ a.equal = true ∧ (s.core k).status = .active ∧ (s.core k).live.length = 2 :=
  ⟨⟨0, 0⟩, { arb0 with equal := true }, [], chk, ⟨true, false, []⟩, withCore { status := .active, arbs := [{ arb0 with equal := true }], strikes := [(0, false), (0, true)] } { prog := some prog0, steps := [chk] }, by decide +kernel⟩

theorem wit_SparesAndGrafts_1 : ∃ (k : CoreId) (r : CoreId) (s : State), (s.core k).status = .spare ∧ (s.core k).accepting = true ∧ (s.core k).acceptRef = some r ∧ r ≠ k :=
  ⟨⟨0, 0⟩, ⟨1, 3⟩, { withCore { accepting := true, acceptRef := some ⟨1, 3⟩ } {} with cores := { tbl := [(⟨0, 0⟩, { accepting := true, acceptRef := some ⟨1, 3⟩ }), (⟨1, 3⟩, { status := .active })] } }, by decide⟩

theorem wit_SparesAndGrafts_2 : ∃ (k : CoreId) (e : CaseFail) (s : State), (s.core k).status = .spare ∧ (s.core k).accepting = true ∧ (s.core k).accepted = false ∧ (s.core k).acceptRef = none :=
  ⟨⟨0, 0⟩, ⟨0, 0, 0⟩, withCore { accepting := true } {}, by decide⟩

theorem wit_SparesAndGrafts_3 : ∃ (k : CoreId) (e : Option CaseFail) (s : State), (s.core k).accepting = false :=
  ⟨⟨0, 0⟩, none, withCore {} {}, by decide⟩

theorem wit_SparesAndGrafts_4 : ∃ (p : CoreId) (s : State), s.atBoundary = true ∧ (s.core p).status = .fenced ∧ s.isReferee p = false ∧ (s.cores.tbl.filter (fun e => decide (e.1.die = p.die) && e.2.toGraft)).map (fun e => e.1) = [p] :=
  ⟨⟨0, 0⟩, { withCore { status := .fenced, toGraft := true } {} with cores := { boundary := true, tbl := [(⟨0, 0⟩, { status := .fenced, toGraft := true }), (⟨0, 1⟩, { accepted := true }), (⟨0, 70⟩, { accepted := true })] } }, by decide⟩

theorem wit_SparesAndGrafts_5 : ∃ (d : Die) (s : State), s.atBoundary = false :=
  ⟨0, withCtx { prog := some prog0, steps := [stp 1] }, by decide⟩

theorem wit_SparesAndGrafts_6 : ∃ (k : CoreId) (r : CoreId) (c : CtxId) (cycles : Nat) (bound : Nat) (p : Pass) (ps : List Pass) (u : Step) (s : State), 4 * bound + 70000 ≤ cycles ∧ (s.core k).arbs = [] ∧ s.chooseReferee k false = some r ∧ (s.core k).mx.running = p :: ps ∧ (s.ctx p.ctx).steps = [u] ∧ u.number = p.step :=
  ⟨⟨0, 0⟩, ⟨1, 0⟩, 0, 70400, 100, pass0, [], stp 1, { withCore { status := .active } { prog := some prog0, steps := [stp 1] } with cores := { tbl := [(⟨0, 0⟩, { status := .active, mx := { running := [pass0] } }), (⟨1, 0⟩, { status := .active })] } }, by decide⟩

theorem wit_SparesAndGrafts_7 : ∃ (k : CoreId) (r : CoreId) (c : CtxId) (cycles : Nat) (bound : Nat) (v : VecTile) (u : Step) (s : State), 4 * bound + 70000 ≤ cycles ∧ (s.core k).arbs = [] ∧ s.chooseReferee k (FailedOp.isScan { fix := .vec v }) = some r ∧ (s.ctx c).steps = [u] ∧ u.number = s.opStep k c (vecBlocks v).1 :=
  ⟨⟨0, 0⟩, ⟨1, 0⟩, 0, 70400, 100, .vx .add32 [⟨refA, 0⟩, ⟨refA, 0⟩] ⟨ref0, 0⟩ 0, stp 1, { withCore { status := .active } { prog := some prog0, steps := [stp 1] } with cores := { tbl := [(⟨0, 0⟩, { status := .active }), (⟨1, 0⟩, { status := .active })] } }, by decide⟩

theorem wit_SparesAndGrafts_8 : ∃ (k : CoreId) (c : CtxId) (cycles : Nat) (bound : Nat) (tile : TimedTile) (s : State), cycles < 4 * bound + 70000 :=
  ⟨⟨0, 0⟩, 0, 70399, 100, .pass, withCore { status := .active } {}, by decide⟩

theorem wit_FieldTests_1 : ∃ (c : CtxId) (q : QDesc) (s : State), s.headOf c .service .fieldTest = some q ∧ dMode q.bytes = 0 ∧ s.cores.test = none :=
  ⟨0, qd .fieldTest [(18, 2), (28, 3)], servHead (qd .fieldTest [(18, 2), (28, 3)]) base, by decide⟩

theorem wit_FieldTests_2 : ∃ (c : CtxId) (q : QDesc) (s : State), s.headOf c .service .fieldTest = some q ∧ dMode q.bytes = 1 ∧ s.anyLoaded = true :=
  ⟨0, qd .fieldTest [(16, 1), (18, 2), (28, 3)], servHead (qd .fieldTest [(16, 1), (18, 2), (28, 3)]) (withCtx { prog := some prog0 }), by decide⟩

theorem wit_FieldTests_3 : ∃ (c : CtxId) (q : QDesc) (s : State), s.headOf c .service .fieldTest = some q ∧ dMode q.bytes = 1 ∧ s.anyLoaded = false ∧ s.cores.test = none :=
  ⟨0, qd .fieldTest [(16, 1), (18, 2), (28, 3)], servHead (qd .fieldTest [(16, 1), (18, 2), (28, 3)]) base, by decide⟩

theorem wit_FieldTests_4 : ∃ (f : FieldTest) (k : CoreId) (rest : List CoreId) (s : State), s.cores.test = some f ∧ f.full = false ∧ s.atBoundary = true ∧ ((∀ e ∈ s.cores.tbl, e.2.test = none)) ∧ f.todo = k :: rest ∧ s.isReferee k = false ∧ (s.core k).status = .active :=
  ⟨⟨0, some 0, false, 2, 5, [⟨0, 0⟩], 0⟩, ⟨0, 0⟩, [], { withCore { status := .active } {} with cores := { tbl := [(⟨0, 0⟩, { status := .active })], test := some ⟨0, some 0, false, 2, 5, [⟨0, 0⟩], 0⟩, boundary := true } }, by decide⟩

theorem wit_FieldTests_5 : ∃ (k : CoreId) (r : CoreId) (n : Nat) (ref : Nat) (temp : Nat) (shape : Nat) (x : CoreTest) (s : State), (s.core k).test = some x ∧ n = x.done ∧ s.patternFits x.shapes shape (caseKind k n) = true ∧ TestCond.reached (x.cond n) temp = true ∧ s.condTurn k x = true ∧ s.testRef k x = some r ∧ r ≠ k ∧ x.done + 1 < x.cases :=
  ⟨⟨0, 0⟩, ⟨1, 0⟩, 0, 7, 50, 1, ct0, { withCore {} {} with cores := { tbl := [(⟨0, 0⟩, { status := .testing, test := some ct0 }), (⟨1, 0⟩, { status := .active })] } }, by decide⟩

theorem wit_FieldTests_6 : ∃ (k : CoreId) (r : CoreId) (n : Nat) (ref : Nat) (tested : Nat) (temp : Nat) (shape : Nat) (own : Bool) (x : CoreTest) (s : State), (s.core k).test = some x ∧ n = x.done ∧ s.patternFits x.shapes shape (caseKind k n) = true ∧ TestCond.reached (x.cond n) temp = true ∧ s.condTurn k x = true ∧ s.testRef k x = some r ∧ r ≠ k ∧ ((own = false ∨ ref ≠ tested)) ∧ bitOf (s.reg aFtPol) 1 = false :=
  ⟨⟨0, 0⟩, ⟨1, 0⟩, 0, 7, 8, 50, 1, true, ct0, { withCore {} {} with cores := { tbl := [(⟨0, 0⟩, { status := .testing, test := some ct0 }), (⟨1, 0⟩, { status := .active })] } }, by decide⟩

theorem wit_FieldTests_7 : ∃ (k : CoreId) (r : CoreId) (n : Nat) (ref : Nat) (tested : Nat) (temp : Nat) (shape : Nat) (own : Bool) (x : CoreTest) (s : State), (s.core k).test = some x ∧ n = x.done ∧ s.patternFits x.shapes shape (caseKind k n) = true ∧ TestCond.reached (x.cond n) temp = true ∧ s.condTurn k x = true ∧ s.testRef k x = some r ∧ r ≠ k :=
  ⟨⟨0, 0⟩, ⟨1, 0⟩, 0, 7, 8, 50, 1, true, ct0, { withCore {} {} with cores := { tbl := [(⟨0, 0⟩, { status := .testing, test := some ct0 }), (⟨1, 0⟩, { status := .active })] } }, by decide⟩

theorem wit_FieldTests_8 : ∃ (k : CoreId) (temp : Nat) (limit : Nat) (s : State), (s.core k).condTemp = some limit ∧ (s.core k).status = .active ∧ limit < temp ∧ s.atBoundary = true ∧ s.isReferee k = false :=
  ⟨⟨0, 0⟩, 81, 80, { withCore {} {} with cores := { boundary := true, tbl := [(⟨0, 0⟩, { status := .active, condTemp := some 80 })] } }, by decide⟩

theorem wit_FieldTests_9 : ∃ (k : CoreId) (temp : Nat) (limit : Nat) (s : State), (s.core k).condTemp = some limit ∧ (s.core k).status = .conditional ∧ temp ≤ limit ∧ s.atBoundary = true ∧ s.activeRoom k = true :=
  ⟨⟨0, 0⟩, 80, 80, { withCore {} {} with cores := { boundary := true, tbl := [(⟨0, 0⟩, { status := .conditional, condTemp := some 80 })] } }, by decide⟩

theorem wit_DigestArbitration_1 : ∃ (c : CtxId) (u : Step) (p : Program) (digest : List Byte) (mdigest : List Byte) (crcs : List Nat) (mcrcs : List Nat) (s : State), (s.ctx c).steps = [u] ∧ (s.ctx c).prog = some p ∧ u.state = .checking ∧ u.voted = none ∧ u.ownCompared = false ∧ u.mirCompared = false ∧ u.digestArb = [] ∧ u.digest = mdigest ∧ u.mirrorDigest = digest :=
  ⟨0, { chk with digest := [1], mirrorDigest := [2], crcs := [5] }, prog1, [2], [1], [5], [5], withCtx { prog := some prog1, steps := [{ chk with digest := [1], mirrorDigest := [2], crcs := [5] }] }, by decide⟩

theorem wit_DigestArbitration_2 : ∃ (c : CtxId) (u : Step) (p : Program) (digest : List Byte) (mdigest : List Byte) (crcs : List Nat) (mcrcs : List Nat) (s : State), (s.ctx c).steps = [u] ∧ (s.ctx c).prog = some p ∧ u.state = .checking ∧ u.voted = none ∧ u.ownCompared = false ∧ u.mirCompared = false ∧ u.digestArb = [] ∧ u.digest ≠ mdigest ∧ u.mirrorDigest = digest ∧ crcDiffs u.crcs mcrcs ≠ [] :=
  ⟨0, { chk with digest := [1], mirrorDigest := [2], crcs := [5] }, prog1, [2], [3], [5], [6], withCtx { prog := some prog1, steps := [{ chk with digest := [1], mirrorDigest := [2], crcs := [5] }] }, by decide⟩

theorem wit_DigestArbitration_3 : ∃ (c : CtxId) (tag : StepTag) (digest : List Byte) (mdigest : List Byte) (crcs : List Nat) (mcrcs : List Nat) (s : State), tag.epoch ≠ (s.ctx c).epoch :=
  ⟨0, ⟨1, 5⟩, [2], [1], [5], [5], withCtx { prog := some prog1, steps := [{ chk with digest := [1], mirrorDigest := [2], crcs := [5] }] }, by decide⟩

theorem wit_DigestArbitration_4 : ∃ (c : CtxId) (u : Step) (p : Program) (n : Nat) (flip : Nat) (re : Nat) (peer : Nat) (s : State), (s.ctx c).steps = [u] ∧ (s.ctx c).prog = some p ∧ u.state = .checking ∧ u.voted = none ∧ u.digestArb = [⟨n, true, none⟩] ∧ (s.ctx c).rereadCrc p u true n ^^^ re = u.crcs.getD n 0 :=
  ⟨0, { chk with crcs := [5], digestArb := [⟨0, true, none⟩] }, prog1, 0, 0, (((withCtx { prog := some prog1, steps := [{ chk with crcs := [5], digestArb := [⟨0, true, none⟩] }] }).ctx 0).rereadCrc prog1 ({ chk with crcs := [5], digestArb := [⟨0, true, none⟩] }) true 0 ^^^ 5), 8, withCtx { prog := some prog1, steps := [{ chk with crcs := [5], digestArb := [⟨0, true, none⟩] }] }, by decide⟩

theorem wit_DigestArbitration_5 : ∃ (c : CtxId) (u : Step) (p : Program) (n : Nat) (flip : Nat) (re : Nat) (own : Nat) (ow : Nat) (pw : Nat) (s : State), (s.ctx c).steps = [u] ∧ (s.ctx c).prog = some p ∧ u.state = .checking ∧ u.voted = none ∧ u.digestArb = [⟨n, true, none⟩] ∧ (s.ctx c).recomputedCrc p u true n ^^^ flip = own ∧ (s.ctx c).rereadCrc p u true n ^^^ re = ow ∧ ow ≠ pw ∧ ow ≠ own :=
  ⟨0, { chk with crcs := [5], digestArb := [⟨0, true, none⟩] }, prog1, 0, (((withCtx { prog := some prog1, steps := [{ chk with crcs := [5], digestArb := [⟨0, true, none⟩] }] }).ctx 0).recomputedCrc prog1 ({ chk with crcs := [5], digestArb := [⟨0, true, none⟩] }) true 0 ^^^ 7), (((withCtx { prog := some prog1, steps := [{ chk with crcs := [5], digestArb := [⟨0, true, none⟩] }] }).ctx 0).rereadCrc prog1 ({ chk with crcs := [5], digestArb := [⟨0, true, none⟩] }) true 0 ^^^ 8), 7, 8, 9, withCtx { prog := some prog1, steps := [{ chk with crcs := [5], digestArb := [⟨0, true, none⟩] }] }, by decide⟩

theorem wit_DigestArbitration_6 : ∃ (c : CtxId) (u : Step) (p : Program) (n : Nat) (flip : Nat) (re : Nat) (own : Nat) (peer : Nat) (ow : Nat) (pw : Nat) (m : Nat) (s : State), (s.ctx c).steps = [u] ∧ (s.ctx c).prog = some p ∧ u.state = .checking ∧ u.voted = none ∧ u.digestArb = [⟨n, true, none⟩] ∧ (s.ctx c).recomputedCrc p u true n ^^^ flip = own ∧ (s.ctx c).rereadCrc p u true n ^^^ re = ow ∧ ow ≠ pw ∧ own ≠ peer ∧ s.refereeModule c = some m :=
  ⟨0, { chk with crcs := [5], digestArb := [⟨0, true, none⟩] }, { prog1 with shards := [[0], [1], [9]] }, 0, ((({ withCtx { prog := some { prog1 with shards := [[0], [1], [9]] }, steps := [{ chk with crcs := [5], digestArb := [⟨0, true, none⟩] }] } with regs := { active := base.regs.active ++ [(aRtTable 1, 0x10000), (aRtEntry 1 9, 0x40), (aRtEntry 1 1, 0x40)] } }).ctx 0).recomputedCrc { prog1 with shards := [[0], [1], [9]] } ({ chk with crcs := [5], digestArb := [⟨0, true, none⟩] }) true 0 ^^^ 7), ((({ withCtx { prog := some { prog1 with shards := [[0], [1], [9]] }, steps := [{ chk with crcs := [5], digestArb := [⟨0, true, none⟩] }] } with regs := { active := base.regs.active ++ [(aRtTable 1, 0x10000), (aRtEntry 1 9, 0x40), (aRtEntry 1 1, 0x40)] } }).ctx 0).rereadCrc { prog1 with shards := [[0], [1], [9]] } ({ chk with crcs := [5], digestArb := [⟨0, true, none⟩] }) true 0 ^^^ 8), 7, 6, 8, 9, 9, { withCtx { prog := some { prog1 with shards := [[0], [1], [9]] }, steps := [{ chk with crcs := [5], digestArb := [⟨0, true, none⟩] }] } with regs := { active := base.regs.active ++ [(aRtTable 1, 0x10000), (aRtEntry 1 9, 0x40), (aRtEntry 1 1, 0x40)] } }, by decide⟩

theorem wit_DigestArbitration_7 : ∃ (c : CtxId) (u : Step) (p : Program) (n : Nat) (mine : Nat) (peer : Nat) (s : State), (s.ctx c).steps = [u] ∧ (s.ctx c).prog = some p ∧ u.state = .checking ∧ u.voted = none ∧ u.digestArb = [⟨n, true, some (mine, peer)⟩] :=
  ⟨0, { chk with crcs := [5], digestArb := [⟨0, true, some (5, 6)⟩] }, prog1, 0, 5, 6, withCtx { prog := some prog1, steps := [{ chk with crcs := [5], digestArb := [⟨0, true, some (5, 6)⟩] }] }, by decide⟩

theorem wit_DigestArbitration_8 : ∃ (c : CtxId) (u : Step) (p : Program) (n : Nat) (mine : Nat) (peer : Nat) (found : Nat) (s : State), (s.ctx c).steps = [u] ∧ (s.ctx c).prog = some p ∧ u.state = .checking ∧ u.voted = none ∧ u.digestArb = [⟨n, true, some (mine, peer)⟩] ∧ found ≠ mine :=
  ⟨0, { chk with crcs := [5], digestArb := [⟨0, true, some (5, 6)⟩] }, prog1, 0, 5, 6, 7, withCtx { prog := some prog1, steps := [{ chk with crcs := [5], digestArb := [⟨0, true, some (5, 6)⟩] }] }, by decide⟩

theorem wit_DigestArbitration_9 : ∃ (c : CtxId) (u : Step) (p : Program) (n : Nat) (mine : Nat) (peer : Nat) (gs : List (Nat × Option Bool)) (s : State), (s.ctx c).steps = [u] ∧ (s.ctx c).prog = some p ∧ u.state = .checking ∧ u.voted = none ∧ u.digestArb = [⟨n, true, some (mine, peer)⟩] ∧ gs.all (fun e => e.2.isSome) = true :=
  ⟨0, { chk with crcs := [5], digestArb := [⟨0, true, some (5, 6)⟩] }, prog1, 0, 5, 6, [(0, some true)], withCtx { prog := some prog1, steps := [{ chk with crcs := [5], digestArb := [⟨0, true, some (5, 6)⟩] }] }, by decide⟩

theorem wit_DigestArbitration_10 : ∃ (c : CtxId) (u : Step) (p : Program) (n : Nat) (mine : Nat) (peer : Nat) (gs : List (Nat × Option Bool)) (s : State), (s.ctx c).steps = [u] ∧ (s.ctx c).prog = some p ∧ u.state = .checking ∧ u.voted = none ∧ u.digestArb = [⟨n, true, some (mine, peer)⟩] ∧ gs.any (fun e => e.2.isNone) = true ∧ n < u.slices.length ∧ 0 < u.number :=
  ⟨0, { chk with number := 1, crcs := [5], slices := [(0, ⟨0, 0, [], 0, false, 0⟩)], digestArb := [⟨0, true, some (5, 6)⟩] }, prog1, 0, 5, 6, [(0, none)], withCtx { prog := some prog1, steps := [{ chk with number := 1, crcs := [5], slices := [(0, ⟨0, 0, [], 0, false, 0⟩)], digestArb := [⟨0, true, some (5, 6)⟩] }] }, by decide⟩

theorem wit_DigestArbitration_11 : ∃ (c : CtxId) (u : Step) (p : Program) (n : Nat) (mine : Nat) (peer : Nat) (wrong : Bool) (s : State), (s.ctx c).steps = [u] ∧ (s.ctx c).prog = some p ∧ u.state = .checking ∧ u.voted = none ∧ u.digestArb = [⟨n, true, some (mine, peer)⟩] :=
  ⟨0, { chk with crcs := [5], digestArb := [⟨0, true, some (5, 6)⟩] }, prog1, 0, 5, 6, true, withCtx { prog := some prog1, steps := [{ chk with crcs := [5], digestArb := [⟨0, true, some (5, 6)⟩] }] }, by decide⟩

theorem wit_DigestArbitration_12 : ∃ (c : CtxId) (step : Nat) (n : Nat) (a : ModNo) (b : ModNo) (va : List Nat) (vb : List Nat) (ga : List Nat) (gb : List Nat) (result : Nat) (right : Bool) (s : State), crcDiffs va vb ≠ [] :=
  ⟨0, 1, 0, 1, 2, [1, 4], [1, 5], [], [], 7, true, base, by decide⟩

theorem wit_DigestArbitration_13 : ∃ (c : CtxId) (step : Nat) (n : Nat) (m : Nat) (a : ModNo) (b : ModNo) (va : List Nat) (vb : List Nat) (ga : List Nat) (gb : List Nat) (r : List Nat) (result : Nat) (right : Bool) (s : State), crcDiffs va vb ≠ [] ∧ (s.ctx c).replicaOf a.val b.val = some m :=
  ⟨0, 1, 0, 9, 0, 1, [1, 4], [1, 5], [], [], [1, 4], 7, true, withCtx { prog := some { prog1 with shards := [[0, 1, 9]] } }, by decide⟩

theorem wit_DigestArbitration_14 : ∃ (c : CtxId) (step : Nat) (n : Nat) (a : ModNo) (b : ModNo) (v : List Nat) (ga : List Nat) (gb : List Nat) (result : Nat) (rep : Option (List Nat)) (right : Bool) (s : State), crcDiffs ga gb ≠ [] :=
  ⟨0, 1, 0, 1, 2, [1, 4], [1], [2], 7, none, true, base, by decide⟩

theorem wit_ParityRepairs_1 : ∃ (c : CtxId) (src : ModNo) (key : RefetchKey) (version : Nat) (granule : Nat) (p : Program) (s : State), (s.ctx c).prog = some p ∧ ((key.part = .live ∨ key.part = .mirror)) ∧ key.shard = shardOf p s.ident ∧ ((s.ctx c).liveSlot version).state = .committed ∧ ((s.ctx c).liveSlot version).version = version :=
  ⟨0, 1, ⟨0, .live⟩, 0, 3, prog1, withCtx { prog := some prog1, live := [(0, { state := .committed, version := 0 })], mirror := [(0, { state := .committed, version := 0 })] }, by decide⟩

theorem wit_ParityRepairs_2 : ∃ (c : CtxId) (src : ModNo) (key : RefetchKey) (version : Nat) (granule : Nat) (p : Program) (s : State), (s.ctx c).prog = some p ∧ ((key.part = .live ∨ key.part = .mirror)) ∧ key.shard ≠ shardOf p s.ident ∧ key.shard = s.partShard c .mirror ∧ ((s.ctx c).mirSlot version).state = .committed ∧ ((s.ctx c).mirSlot version).version = version :=
  ⟨0, 1, ⟨1, .mirror⟩, 0, 3, prog1, withCtx { prog := some prog1, live := [(0, { state := .committed, version := 0 })], mirror := [(0, { state := .committed, version := 0 })] }, by decide⟩

theorem wit_ParityRepairs_3 : ∃ (c : CtxId) (src : ModNo) (key : RefetchKey) (slice : Nat) (p : Program) (u : Step) (l : Slice) (s : State), (s.ctx c).prog = some p ∧ (s.ctx c).steps = [u] ∧ ((key.part = .landed ∧ AL.find? slice u.recvSlices = some l ∨ key.part = .received ∧ AL.find? slice u.slices = some l)) :=
  ⟨0, 1, ⟨0, .landed⟩, 4, prog1, { stp 1 with recvSlices := [(4, { tensor := 5, first := 0, vals := [7], sumSq := 49, marker := false, residue := 7 })] }, { tensor := 5, first := 0, vals := [7], sumSq := 49, marker := false, residue := 7 }, withCtx { prog := some prog1, steps := [{ stp 1 with recvSlices := [(4, { tensor := 5, first := 0, vals := [7], sumSq := 49, marker := false, residue := 7 })] }] }, by decide⟩

theorem wit_ParityRepairs_4 : ∃ (c : CtxId) (src : ModNo) (key : RefetchKey) (version : Nat) (granule : Nat) (bad : Bool) (s : State), ((bad = true ∨ (key.part = .live ∨ key.part = .mirror) ∧ ((s.ctx c).liveSlot version).state ≠ .committed ∧ ((s.ctx c).mirSlot version).state ≠ .committed)) :=
  ⟨0, 1, ⟨0, .live⟩, 0, 3, false, withCtx { prog := some prog1 }, by decide⟩

theorem wit_ParityRepairs_5 : ∃ (d : Die) (ch : Nat) (f : WordFault) (c : CtxId) (i : Fin 3) (g : Nat) (m : Nat) (s : State), bitsOf (s.reg aScrub) 15 0 ≠ 0 ∧ s.hub.power ≠ .asleep ∧ s.hub.power ≠ .dormant ∧ f.loc = .live c i g ∧ f.uncorrected = false ∧ (AL.get {} i (s.ctx c).live).state = .committed ∧ wordFails f (s.wordAt f) = true ∧ s.buddy c = some m :=
  ⟨0, 5, flip0, 0, 0, 3, 1, withCtx { prog := some prog1, live := [(0, { state := .committed, version := 0 })], mirror := [(0, { state := .committed, version := 0 })] }, by decide +kernel⟩

theorem wit_ParityRepairs_6 : ∃ (d : Die) (ch : Nat) (f : WordFault) (s : State), bitsOf (s.reg aScrub) 15 0 ≠ 0 ∧ s.hub.power ≠ .asleep ∧ s.hub.power ≠ .dormant ∧ wordFails f (s.wordAt f) = false :=
  ⟨0, 5, flip2, withCtx { prog := some prog1, live := [(0, { state := .committed, version := 0 })], mirror := [(0, { state := .committed, version := 0 })] }, by decide +kernel⟩

theorem wit_ParityRepairs_7 : ∃ (d : Die) (ch : Nat) (f : WordFault) (s : State), bitsOf (s.reg aScrub) 15 0 ≠ 0 ∧ s.hub.power ≠ .asleep ∧ s.hub.power ≠ .dormant ∧ wordFails f (s.wordAt f) = true ∧ s.scrubbed f.loc = false :=
  ⟨0, 5, { flip0 with loc := .workOther 0 true }, base, by decide⟩

theorem wit_ParityRepairs_8 : ∃ (d : Die) (ch : Nat) (s : State), bitsOf (s.reg aScrub) 15 0 ≠ 0 ∧ s.hub.power ≠ .asleep ∧ s.hub.power ≠ .dormant :=
  ⟨0, 5, base, by decide⟩

theorem wit_ParityRepairs_9 : ∃ (d : Die) (ch : Nat) (bad : Option WordFault) (s : State), bitsOf (s.reg aScrub) 15 0 = 0 :=
  ⟨0, 5, none, { base with regs := { active := (aScrub, 0) :: base.regs.active } }, by decide⟩

theorem wit_ParityRepairs_10 : ∃ (f : WordFault) (w : Word), f.retries ≤ 4 ∧ f.uncorrected = false :=
  ⟨flip0, 5, by decide⟩

theorem wit_ParityRepairs_11 : ∃ (c : CtxId) (loc : Loc) (tried : Bool) (bytes : List Byte) (u : Step) (s : State), s.mem.repairs.find? (fun e => e.1 == loc) = some (loc, tried) ∧ (s.ctx c).steps = [u] :=
  ⟨0, .workOther 0 true, false, [], stp 1, rep0 (.workOther 0 true) false, by decide⟩

theorem wit_ParityRepairs_12 : ∃ (c : CtxId) (i : Fin 3) (g : Nat) (tried : Bool) (bytes : List Byte) (p : Program) (s : State), s.mem.repairs.find? (fun e => e.1 == .live c i g) = some (.live c i g, tried) ∧ (s.ctx c).prog = some p :=
  ⟨0, 0, 3, false, [1], prog1, rep0 (.live 0 0 3) false, by decide⟩

theorem wit_ParityRepairs_13 : ∃ (c : CtxId) (i : Fin 3) (g : Nat) (m : Nat) (b1 : Bool) (b2 : Bool) (s : State), s.mem.repairs.find? (fun e => e.1 == .live c i g) = some (.live c i g, false) ∧ s.replica c (s.partShard c .live) = some m :=
  ⟨0, 0, 3, 5, true, true, { withCtx { prog := some { prog1 with buddies := [(0, 1)], shards := [[0, 5], [1]] } } with mem := { repairs := [(.live 0 0 3, false)] } }, by decide⟩

theorem wit_ParityRepairs_14 : ∃ (c : CtxId) (i : Fin 3) (g : Nat) (b1 : Bool) (b2 : Bool) (s : State), s.mem.repairs.find? (fun e => e.1 == .live c i g) = some (.live c i g, false) ∧ s.replica c (s.partShard c .live) = none ∧ (s.ctx c).steps = [] ∧ s.mem.targets = [] :=
  ⟨0, 0, 3, true, true, { withCtx { prog := some prog1 } with mem := { repairs := [(.live 0 0 3, false)] } }, by decide⟩

theorem wit_ChannelMapOuts_1 : ∃ (d : Die) (l : Nat) (m : MapOut) (s : State), s.mem.mapouts = [m] ∧ m.die = d.val ∧ m.logical = l ∧ m.readable = true ∧ s.mem.upsets = [] ∧ s.mem.repairs = [] :=
  ⟨1, 7, ⟨1, 7, (1, 158), true, false⟩, { base with mem := { mapouts := [⟨1, 7, (1, 158), true, false⟩] } }, by decide⟩

theorem wit_ChannelMapOuts_2 : ∃ (d : Die) (l : Nat) (m : MapOut) (s : State), s.mem.mapouts = [m] ∧ m.die = d.val ∧ m.logical = l ∧ m.readable = false ∧ s.mem.repairs = [] ∧ ((∀ c, (s.ctx c).snapshot = none)) :=
  ⟨1, 7, ⟨1, 7, (1, 158), false, false⟩, { base with mem := { mapouts := [⟨1, 7, (1, 158), false, false⟩] } }, by decide⟩

theorem wit_ChannelMapOuts_3 : ∃ (d : Die) (l : Nat) (m : MapOut) (r : Loc × Bool) (a : Nat) (s : State), s.mem.mapouts = [m] ∧ m.die = d.val ∧ m.logical = l ∧ m.readable = false ∧ s.mem.repairs = [r] ∧ s.locAddr r.1 = some a ∧ s.logicalOf a = (d.val, l) :=
  ⟨1, 7, ⟨1, 7, (1, 158), false, false⟩, (.snapshot 0 7, false), 549755817472, { withCtx { regions := [(4, [(1, 0, 1)])] } with mem := { mapouts := [⟨1, 7, (1, 158), false, false⟩], repairs := [(.snapshot 0 7, false)] } }, by decide⟩

theorem wit_ChannelMapOuts_4 : ∃ (d : Die) (l : Nat) (m : MapOut) (s : State), s.mem.mapouts = [m] ∧ m.die = d.val ∧ m.logical = l ∧ m.copied = true ∧ s.atBoundary = true :=
  ⟨1, 7, ⟨1, 7, (1, 158), true, true⟩, { { base with mem := { mapouts := [⟨1, 7, (1, 158), true, true⟩] } } with cores := { boundary := true } }, by decide⟩

theorem wit_ChannelMapOuts_5 : ∃ (d : Die) (l : Nat) (s : State), ((s.mem.mapouts = [] ∨ s.atBoundary = false)) :=
  ⟨1, 7, base, by decide⟩

theorem wit_ChannelMapOuts_6 : ∃ (k : Fin 20) (x : ChanTraining) (s : State), x.ch < 160 ∧ x.ch % 5 = k.val % 5 ∧ x.restored = true ∧ x.lanes ≠ [] :=
  ⟨2, train7, base, by decide⟩

theorem wit_ChannelMapOuts_7 : ∃ (d : Die) (ch : Nat) (m : Margins) (s : State), (d.val, ch) ∈ s.mem.margining ∧ marginsOk m = true ∧ ch < 160 ∧ m.repair.restored = true :=
  ⟨1, 7, marg0, { base with mem := { margining := [(1, 7)], hbm := [(5, 1)] } }, by decide⟩

theorem wit_ResetDomains_1 : ∃ (s : State), s.inReset .cp = false ∧ s.hub.cpResets = [] ∧ s.tooSoon .cp = false :=
  ⟨base, by decide⟩

theorem wit_ResetDomains_2 : ∃ (at_ : Nat) (s : State), s.inReset .cp = false ∧ s.hub.cpResets = [] ∧ (s.dom .cp).lastAt = some at_ ∧ s.now < at_ + 1000 :=
  ⟨6, dom0 .cp { lastAt := some 6 }, by decide⟩

theorem wit_ResetDomains_3 : ∃ (a : Nat) (b : Nat) (d : Nat) (s : State), s.inReset .cp = false ∧ s.hub.cpResets = [a, b, d] ∧ s.now < a + 10000000 ∧ s.now < b + 10000000 ∧ s.now < d + 10000000 ∧ s.tooSoon .warm = false :=
  ⟨1, 2, 3, { base with hub := { base.hub with cpResets := [1, 2, 3] } }, by decide⟩

theorem wit_ResetDomains_4 : ∃ (d : Domain) (s : State), d ≠ .cold ∧ (s.dom d).held = true ∧ s.tooSoon d = false :=
  ⟨.mss, dom0 .mss { lastAt := some 5, held := true, inReset := true }, by decide⟩

theorem wit_ResetDomains_5 : ∃ (s : State), (s.dom .cold).held = true ∧ s.tooSoon .cold = false :=
  ⟨dom0 .cold { lastAt := some 5, held := true, inReset := true }, by decide⟩

theorem wit_ResetDomains_6 : ∃ (d : Domain) (s : State), (((s.dom d).held = false ∨ s.tooSoon d = true)) :=
  ⟨.mss, dom0 .mss { lastAt := some 6, held := true, inReset := true }, by decide⟩

theorem wit_ResetDomains_7 : ∃ (d : Domain) (at_ : Nat) (s : State), (s.dom d).lastAt = some at_ ∧ s.now < at_ + 1000 :=
  ⟨.mss, 6, dom0 .mss { lastAt := some 6, held := true, inReset := true }, by decide⟩

theorem wit_ResetDomains_8 : ∃ (k : CoreId) (s : State), (s.dom (.core k)).inReset = true ∧ (s.dom (.core k)).held = false :=
  ⟨⟨0, 3⟩, dom0 (.core ⟨0, 3⟩) { inReset := true }, by decide⟩

theorem wit_ResetDomains_9 : ∃ (d : Domain) (s : State), (s.dom d).held = true :=
  ⟨.mss, dom0 .mss { lastAt := some 5, held := true, inReset := true }, by decide⟩

theorem wit_ResetDomains_10 : ∃ (s : State), s.hub.tripped = true :=
  ⟨{ base with hub := { base.hub with domains := [(.warm, { inReset := true })], tripped := true } }, by decide⟩

theorem wit_MssResets_1 : ∃ (s : State), s.mssRuns = true ∧ s.tooSoon .mss = false ∧ s.hub.mssResets = [] ∧ s.hub.starting = .none ∧ s.mss.update.state = .idle :=
  ⟨base, by decide⟩

theorem wit_MssResets_2 : ∃ (s : State), s.mssRuns = true :=
  ⟨base, by decide⟩

theorem wit_MssResets_3 : ∃ (s : State), s.mssRuns = true :=
  ⟨base, by decide⟩

theorem wit_MssResets_4 : ∃ (a : Nat) (b : Nat) (d : Nat) (s : State), s.mssRuns = true ∧ s.hub.mssResets = [a, b, d] ∧ s.now < a + 60000000 ∧ s.now < b + 60000000 ∧ s.now < d + 60000000 ∧ s.inClearing = true :=
  ⟨1, 2, 3, { base with regs := { active := base.regs.active ++ [(aRtTable 1, 0x10005)] }, hub := { base.hub with mssResets := [1, 2, 3] } }, by decide⟩

theorem wit_MssResets_5 : ∃ (at_ : Nat) (s : State), (s.dom .mss).outAt = some at_ ∧ (s.dom .mss).inReset = false ∧ s.hub.mssLost = false ∧ at_ + 100000 ≤ s.now :=
  ⟨0, { base with hub := { base.hub with domains := [(.mss, { outAt := some 0 })], timeUs := 100000 } }, by decide⟩

theorem wit_MssResets_6 : ∃ (n : Nat) (s : State), s.mssRuns = true ∧ s.hub.toMss = [] ∧ s.hub.fromMss = [] ∧ s.hub.postWait = [] ∧ s.regs.mssHeld = [] :=
  ⟨9, base, by decide⟩

theorem wit_MssResets_7 : ∃ (n : Nat) (s : State), s.inReset .cp = false ∧ s.hub.toMss = [] ∧ s.hub.fromMss = [] ∧ s.hub.postWait = [] ∧ s.regs.mssHeld = [] :=
  ⟨9, base, by decide⟩

theorem wit_MssResets_8 : ∃ (n : Nat) (g : BitVec 8) (s : State), s.mssRuns = true ∧ s.hub.toMss = [] ∧ s.hub.fromMss = [] ∧ s.hub.postWait = [] ∧ s.regs.mssHeld = [] :=
  ⟨9, 0, base, by decide⟩

theorem wit_MssResets_9 : ∃ (m : MailMsg) (s : State), s.inReset .mss = true ∧ s.inReset .cp = true ∧ s.hub.toMss.length < 64 :=
  ⟨.command 9, { base with hub := { base.hub with domains := [(.mss, { inReset := true }), (.cp, { inReset := true })] } }, by decide⟩

theorem wit_MssResets_10 : ∃ (m : MailMsg) (s : State), s.inReset .mss = true ∧ s.inReset .cp = true ∧ s.hub.toMss.length = 64 :=
  ⟨.command 9, { base with hub := { base.hub with domains := [(.mss, { inReset := true }), (.cp, { inReset := true })], toMss := List.replicate 64 (.plain (.command 0)) } }, by decide⟩

theorem wit_SuspectsAndProbes_1 : ∃ (c : CtxId) (peer : ModNo) (bytes : Nat) (elapsed : Nat) (loc : Option Loc) (s : State), ((s.sinceResume c elapsed ≤ s.peerTimeoutUs bytes * (1 + AL.get 0 peer.val (s.ctx c).waitsOn) ∨ (s.ctx c).paused = true)) :=
  ⟨0, 1, 0, 0, none, base, by decide⟩

theorem wit_SuspectsAndProbes_2 : ∃ (c : CtxId) (peer : ModNo) (bytes : Nat) (elapsed : Nat) (m : Nat) (s : State), s.peerTimeoutUs bytes * (1 + AL.get 0 peer.val (s.ctx c).waitsOn) < s.sinceResume c elapsed ∧ (s.ctx c).paused = false ∧ s.stewardOf c (groveOf peer.val) (some peer.val) = some m :=
  ⟨0, 1, 0, 1000000000, 0, clearing, by decide⟩

theorem wit_SuspectsAndProbes_3 : ∃ (c : CtxId) (peer : ModNo) (bytes : Nat) (elapsed : Nat) (g : Nat) (m : Nat) (i : Fin 3) (s : State), s.peerTimeoutUs bytes * (1 + AL.get 0 peer.val (s.ctx c).waitsOn) < s.sinceResume c elapsed ∧ (s.ctx c).paused = false ∧ s.mem.repairs.find? (fun e => e.1 == .live c i g) = some (.live c i g, false) ∧ s.replica c (s.partShard c .live) = some m :=
  ⟨0, 1, 0, 1000000000, 3, 5, 0, { withCtx { prog := some { prog1 with buddies := [(0, 1)], shards := [[0, 5], [1]] } } with mem := { repairs := [(.live 0 0 3, false)] } }, by decide⟩

theorem wit_SuspectsAndProbes_4 : ∃ (c : CtxId) (src : ModNo) (peer : ModNo) (s : State), s.stewardFor c peer.val = true ∧ (s.ctx c).lostMods.contains peer.val = false ∧ s.isMember c src.val = true ∧ AL.find? peer.val (s.ctx c).probes = none :=
  ⟨0, 0, 1, clearing, by decide⟩

theorem wit_SuspectsAndProbes_5 : ∃ (src : ModNo) (path : Nat) (s : State), s.inReset .warm = false :=
  ⟨1, 2, base, by decide⟩

theorem wit_SuspectsAndProbes_6 : ∃ (src : ModNo) (path : Nat) (s : State), s.inReset .warm = true :=
  ⟨1, 2, { base with hub := { base.hub with domains := [(.warm, { inReset := true })] } }, by decide⟩

theorem wit_SuspectsAndProbes_7 : ∃ (c : CtxId) (peer : ModNo) (ps : List Nat) (paths : List Nat) (progress : Bool) (s : State), AL.find? peer.val (s.ctx c).probes = some ps ∧ paths ≠ [] ∧ ps.all (fun p => paths.contains p) = true ∧ ((progress = true ∨ AL.get 0 peer.val (s.ctx c).extensions < 4)) :=
  ⟨0, 1, [4096], [4096], true, { base with grove := { spare := false }, ctxs := [(0, { probes := [(1, [4096])] })] }, by decide⟩

theorem wit_SuspectsAndProbes_8 : ∃ (c : CtxId) (peer : ModNo) (ps : List Nat) (paths : List Nat) (s : State), AL.find? peer.val (s.ctx c).probes = some ps ∧ paths ≠ [] ∧ 4 ≤ AL.get 0 peer.val (s.ctx c).extensions ∧ s.isMember c peer.val = true ∧ s.grove.sapling = none :=
  ⟨0, 1, [4096], [4096], { clearing with ctxs := [(0, { prog := some prog1, probes := [(1, [4096])], extensions := [(1, 4)] })] }, by decide⟩

theorem wit_SuspectsAndProbes_9 : ∃ (c : CtxId) (peer : ModNo) (s : State), (AL.find? peer.val (s.ctx c).probes).isSome = true ∧ s.isMember c peer.val = true ∧ (s.ctx c).lostMods.contains peer.val = false ∧ s.grove.sapling = none :=
  ⟨0, 1, { clearing with ctxs := [(0, { prog := some prog1, probes := [(1, [4096])] })] }, by decide⟩

theorem wit_SuspectsAndProbes_10 : ∃ (c : CtxId) (peer : ModNo) (s : State), s.stewardFor c peer.val = true ∧ s.isMember c peer.val = true ∧ (s.ctx c).lostMods.contains peer.val = false ∧ s.grove.sapling = none :=
  ⟨0, 1, { clearing with ctxs := [(0, { prog := some prog1, probes := [(1, [4096])] })] }, by decide⟩

theorem wit_SuspectsAndProbes_11 : ∃ (c : CtxId) (peer : ModNo) (s : State), s.stewardFor c peer.val = true ∧ s.isMember c peer.val = true ∧ (s.ctx c).lostMods.contains peer.val = false ∧ s.grove.sapling = none :=
  ⟨0, 1, { clearing with ctxs := [(0, { prog := some prog1, probes := [(1, [4096])] })] }, by decide⟩

theorem wit_SuspectsAndProbes_12 : ∃ (c : CtxId) (peer : ModNo) (s : State), AL.find? peer.val (s.ctx c).probes = none :=
  ⟨0, 1, base, by decide⟩

theorem wit_SuspectsAndProbes_13 : ∃ (lane : Nat) (i : Nat) (p : PortId) (s : State), lane ≠ 5 ∧ (s.port p).waiting.findIdx? (fun e => e.1 == lane) = some i :=
  ⟨1, 0, 3, port3 { waiting := [(1, pkt)] }, by decide⟩

theorem wit_SuspectsAndProbes_14 : ∃ (lane : Nat) (i : Nat) (p : PortId) (s : State), lane ≠ 5 ∧ (s.port p).waiting.findIdx? (fun e => e.1 == lane) = none ∧ (s.port p).replay.findIdx? (fun f => f.vl == lane && f.kind == 1) = some i :=
  ⟨1, 0, 3, port3 { replay := [fl1] }, by decide⟩

theorem wit_SuspectsAndProbes_15 : ∃ (p : PortId) (s : State), (s.port p).vl5Wait ≠ [] :=
  ⟨3, port3 { vl5Wait := [pkt] }, by decide⟩

theorem wit_OrdersOfTheSteward_1 : ∃ (c : CtxId) (k : DeclKind) (issuer : ModNo) (n : Nat) (subject : ModNo) (physical : ModNo) (gen : BitVec 8) (level : Nat) (s : State), s.fromSteward c issuer.val (some subject.val) = false :=
  ⟨0, .lost, 40, 1, 2, 2, 0, 1, base, by decide⟩

theorem wit_OrdersOfTheSteward_2 : ∃ (c : CtxId) (issuer : ModNo) (n : Nat) (subject : ModNo) (physical : ModNo) (gen : BitVec 8) (level : Nat) (s : State), s.fromSteward c issuer.val (some subject.val) = true ∧ s.grove.declWait = [] ∧ n < 2 ^ 32 ∧ n = AL.get 0 (groveOf issuer.val) s.grove.seqNos + 1 ∧ s.grove.sapling = none :=
  ⟨0, 1, 1, 2, 2, 0, 1, base, by decide⟩

theorem wit_OrdersOfTheSteward_3 : ∃ (c : CtxId) (issuer : ModNo) (n : Nat) (subject : ModNo) (physical : ModNo) (gen : BitVec 8) (level : Nat) (s : State), s.fromSteward c issuer.val (some subject.val) = true ∧ s.grove.declWait = [] ∧ n < 2 ^ 32 ∧ n = AL.get 0 (groveOf issuer.val) s.grove.seqNos + 1 :=
  ⟨0, 1, 1, 2, 2, 0, 1, base, by decide⟩

theorem wit_OrdersOfTheSteward_4 : ∃ (c : CtxId) (issuer : ModNo) (n : Nat) (subject : ModNo) (physical : ModNo) (gen : BitVec 8) (level : Nat) (s : State), s.fromSteward c issuer.val (some subject.val) = true ∧ s.grove.declWait = [] ∧ n < 2 ^ 32 ∧ n = AL.get 0 (groveOf issuer.val) s.grove.seqNos + 1 ∧ subject.val ≠ s.ident :=
  ⟨0, 1, 1, 2, 2, 0, 1, base, by decide⟩

theorem wit_OrdersOfTheSteward_5 : ∃ (c : CtxId) (issuer : ModNo) (n : Nat) (subject : ModNo) (physical : ModNo) (gen : BitVec 8) (level : Nat) (s : State), s.fromSteward c issuer.val (some subject.val) = true ∧ s.grove.declWait = [] ∧ n < 2 ^ 32 ∧ n = AL.get 0 (groveOf issuer.val) s.grove.seqNos + 1 ∧ physical.val ≠ s.phys ∧ s.isSteward c = false :=
  ⟨0, 1, 1, 2, 2, 0, 1, base, by decide⟩

theorem wit_OrdersOfTheSteward_6 : ∃ (c : CtxId) (k : DeclKind) (issuer : ModNo) (subject : ModNo) (physical : ModNo) (gen : BitVec 8) (level : Nat) (s : State), s.fromSteward c issuer.val (some subject.val) = true ∧ AL.get 0 (groveOf issuer.val) s.grove.seqNos < 2 ^ 32 :=
  ⟨0, .lost, 1, 2, 2, 0, 1, base, by decide⟩

theorem wit_OrdersOfTheSteward_7 : ∃ (c : CtxId) (k : DeclKind) (issuer : ModNo) (n : Nat) (subject : ModNo) (physical : ModNo) (gen : BitVec 8) (level : Nat) (s : State), s.fromSteward c issuer.val (some subject.val) = true ∧ AL.get 0 (groveOf issuer.val) s.grove.seqNos + 1 < n ∧ n < 2 ^ 31 :=
  ⟨0, .lost, 1, 2, 2, 2, 0, 1, base, by decide⟩

theorem wit_OrdersOfTheSteward_8 : ∃ (c : CtxId) (issuer : ModNo) (e : BitVec 16) (s : State), s.fromSteward c issuer.val none = false :=
  ⟨0, 40, 0, base, by decide⟩

theorem wit_OrdersOfTheSteward_9 : ∃ (c : CtxId) (issuer : ModNo) (s : State), s.fromSteward c issuer.val none = true ∧ (s.ctx c).loaded = true :=
  ⟨0, 1, withCtx { prog := some prog1, steps := [stp 1] }, by decide⟩

theorem wit_OrdersOfTheSteward_10 : ∃ (c : CtxId) (issuer : ModNo) (e : BitVec 16) (s : State), s.fromSteward c issuer.val none = true ∧ 0 < ((s.ctx c).epoch - e).toNat ∧ ((s.ctx c).epoch - e).toNat < 2 ^ 15 :=
  ⟨0, 1, 4, withCtx { prog := some prog1, epoch := 5 }, by decide⟩

theorem wit_OrdersOfTheSteward_11 : ∃ (c : CtxId) (issuer : ModNo) (e : BitVec 16) (s : State), (s.ctx c).loaded = true ∧ s.epochPast c e = false ∧ issuer.val ≠ s.ident ∧ (s.clearingMods c).contains issuer.val = true :=
  ⟨0, 1, 0, { clearing with ctxs := [(0, { prog := some prog1 })] }, by decide⟩

theorem wit_OrdersOfTheSteward_12 : ∃ (c : CtxId) (issuer : ModNo) (e : BitVec 16) (s : State), (((s.ctx c).loaded = false ∨ s.epochPast c e = true ∨ issuer.val = s.ident ∨ (s.clearingMods c).contains issuer.val = false)) :=
  ⟨0, 0, 0, base, by decide⟩

theorem wit_OrdersOfTheSteward_13 : ∃ (c : CtxId) (m : ModNo) (sp : Nat) (s : State), s.isSteward c = true ∧ groveOf m.val = groveOf s.ident ∧ s.hotSpare c = some sp :=
  ⟨0, 1, 2, { base with grove := { spare := false }, link := nearSpare }, by decide⟩

theorem wit_OrdersOfTheSteward_14 : ∃ (c : CtxId) (m : ModNo) (s : State), s.isSteward c = true ∧ groveOf m.val = groveOf s.ident ∧ s.hotSpare c = none :=
  ⟨0, 1, { base with grove := { spare := false } }, by decide⟩

theorem wit_OrdersOfTheSteward_15 : ∃ (c : CtxId) (m : ModNo) (sp : Nat) (s : State), s.isSteward c = true ∧ groveOf m.val = groveOf s.ident ∧ s.hotSpare c = some sp :=
  ⟨0, 1, 2, { base with grove := { spare := false }, link := nearSpare }, by decide⟩

theorem wit_OrdersOfTheSteward_16 : ∃ (c : CtxId) (m : ModNo) (s : State), s.isSteward c = true ∧ groveOf m.val = groveOf s.ident ∧ s.hotSpare c = none :=
  ⟨0, 1, { base with grove := { spare := false } }, by decide⟩

theorem wit_TakeoversAndSwaps_1 : ∃ (c : CtxId) (src : ModNo) (step : Nat) (attempt : Nat) (desc : List Byte) (upd : UpdateRec) (c0 : Nat) (c1 : Nat) (p2 : Nat) (b : Bool) (crcs : List Nat) (s : State), s.buddy c = some src.val :=
  ⟨0, 1, 1, 0, [1], {}, 0, 0, 0, false, [], { clearing with ctxs := [(0, { prog := some prog1 })] }, by decide⟩

theorem wit_TakeoversAndSwaps_2 : ∃ (c : CtxId) (src : ModNo) (step : Nat) (attempt : Nat) (p : Program) (upd : UpdateRec) (c0 : Nat) (c1 : Nat) (p2 : Nat) (b : Bool) (crcs : List Nat) (s : State), s.buddy c = some src.val :=
  ⟨0, 1, 1, 0, prog1, {}, 0, 0, 0, false, [], { clearing with ctxs := [(0, { prog := some prog1 })] }, by decide⟩

theorem wit_TakeoversAndSwaps_3 : ∃ (c : CtxId) (issuer : ModNo) (lost : ModNo) (a : ModNo) (b : ModNo) (clr : Nat) (s : State), s.fromSteward c issuer.val (some lost.val) = true ∧ s.mayTakeOver lost.val = true ∧ (s.ctx c).loaded = false :=
  ⟨0, 1, 4, 5, 6, 9, spareMod, by decide⟩

theorem wit_TakeoversAndSwaps_4 : ∃ (c : CtxId) (issuer : ModNo) (lost : ModNo) (src : CopySource) (clr : Nat) (s : State), s.fromSteward c issuer.val (some lost.val) = true ∧ s.mayTakeOver lost.val = false :=
  ⟨0, 1, 4, ⟨5, 6⟩, 9, { spareMod with hub := {} }, by decide⟩

theorem wit_TakeoversAndSwaps_5 : ∃ (c : CtxId) (w : ModNo) (admitted : ModNo) (step : Nat) (o : SwapOrder) (s : State), s.fromSteward c o.issuer.val (some w.val) = false :=
  ⟨0, 4, 5, 7, ⟨40, 0⟩, base, by decide⟩

theorem wit_TakeoversAndSwaps_6 : ∃ (c : CtxId) (w : ModNo) (admitted : ModNo) (step : Nat) (o : SwapOrder) (s : State), s.fromSteward c o.issuer.val (some w.val) = true ∧ admitted.val ≠ s.phys ∧ (s.ctx c).loaded = true :=
  ⟨0, 4, 5, 7, ⟨1, 0⟩, withCtx { prog := some prog1 }, by decide⟩

theorem wit_TakeoversAndSwaps_7 : ∃ (c : CtxId) (w : ModNo) (admitted : ModNo) (step : Nat) (o : SwapOrder) (s : State), s.fromSteward c o.issuer.val (some w.val) = true ∧ admitted.val = s.phys ∧ s.mayTakeOver w.val = true :=
  ⟨0, 4, 0, 7, ⟨1, 0⟩, spareMod, by decide⟩

theorem wit_TakeoversAndSwaps_8 : ∃ (c : CtxId) (lost : ModNo) (ver : Nat) (live : SlotData) (mirror : SlotData) (l : SlotData) (m : SlotData) (p : Program) (lists : Option CopyLists) (again : SlotData × SlotData) (c0 : Nat) (c1 : Nat) (p2 : Nat) (e : TakeoverPoint) (recs : List TakeoverRec) (s : State), (s.ctx c).takeoverOf = [(lost.val, some s.phys)] ∧ (s.ctx c).loaded = false ∧ (s.ctx c).swapAfter = none ∧ (((l, m) = (live, mirror) ∨ copiesAgree p false lists live mirror = false ∧ (l, m) = again)) ∧ copiesAgree p false lists l m = true :=
  ⟨0, 4, 6, {}, {}, {}, {}, prog1, none, ({}, {}), 1, 0, 0, ⟨3, some 6, 0⟩, [⟨1, 0, desc [(0, 3)], {}, 1, 0, 1, true, []⟩], { spareMod with ctxs := [(0, { takeoverOf := [(4, some 0)] })] }, by decide⟩

theorem wit_TakeoversAndSwaps_9 : ∃ (c : CtxId) (lost : ModNo) (ver : Nat) (live : SlotData) (mirror : SlotData) (p : Program) (lists : Option CopyLists) (again : SlotData × SlotData) (c0 : Nat) (c1 : Nat) (p2 : Nat) (b : Nat) (r : Nat) (q : Nat) (e : TakeoverPoint) (recs : List TakeoverRec) (s : State), (s.ctx c).takeoverOf = [(lost.val, some s.phys)] ∧ (s.ctx c).loaded = false ∧ (s.ctx c).swapAfter = none ∧ copiesAgree p false lists live mirror = false ∧ copiesAgree p false lists again.1 again.2 = false ∧ (s.ctx c).aliveReplica p lost.val = some r ∧ buddyOf p lost.val = some b ∧ (s.ctx c).aliveReplica p b = some q :=
  ⟨0, 1, 6, {}, {}, { prog1 with shards := [[0, 5], [1, 6]] }, some ⟨⟨{}, [], [9]⟩, ⟨{}, [], [9]⟩⟩, ({}, {}), 1, 0, 0, 0, 6, 5, ⟨3, none, 0⟩, [⟨1, 0, desc [(0, 3)], {}, 1, 0, 1, true, []⟩], { spareMod with ctxs := [(0, { takeoverOf := [(1, some 0)] })] }, by decide⟩

theorem wit_TakeoversAndSwaps_10 : ∃ (c : CtxId) (lost : ModNo) (ver : Nat) (live : SlotData) (mirror : SlotData) (p : Program) (lists : Option CopyLists) (again : SlotData × SlotData) (c0 : Nat) (c1 : Nat) (p2 : Nat) (e : TakeoverPoint) (recs : List TakeoverRec) (s : State), (s.ctx c).takeoverOf = [(lost.val, some s.phys)] ∧ (s.ctx c).loaded = false ∧ (s.ctx c).swapAfter = none ∧ copiesAgree p false lists live mirror = false ∧ copiesAgree p false lists again.1 again.2 = false ∧ (s.ctx c).aliveReplica p lost.val = none :=
  ⟨0, 1, 6, {}, {}, prog1, some ⟨⟨{}, [], [9]⟩, ⟨{}, [], [9]⟩⟩, ({}, {}), 1, 0, 0, ⟨3, none, 0⟩, [⟨1, 0, desc [(0, 3)], {}, 1, 0, 1, true, []⟩], { spareMod with ctxs := [(0, { takeoverOf := [(1, some 0)] })] }, by decide⟩

theorem wit_TakeoversAndSwaps_11 : ∃ (c : CtxId) (issuer : ModNo) (ident : ModNo) (spare : ModNo) (gw : List (Nat × Nat)) (k : Nat) (q : PortId) (s : State), s.isSteward c = false ∧ s.fromSteward c issuer.val none = true ∧ s.tableOf c = some k ∧ spare.val ≠ s.phys ∧ groveOf ident.val ≠ groveOf s.phys ∧ s.portTo spare.val = some q :=
  ⟨0, 1, 40, 2, [], 1, 3, { base with regs := { active := base.regs.active ++ [(aPlanSelf, 3), (aRtTable 1, 0x10005), (aRtEntry 1 1, 64), (aRtEntry 1 40, 64)] }, link := nearSpare, grove := { spare := false } }, by decide⟩

theorem wit_WearAndSaplings_1 : ∃ (u : WearUnit) (i : Indicator) (v : Nat) (s : State), (indicatorsOf u).contains i = true ∧ s.mssRuns = true ∧ i ≠ .eccRate :=
  ⟨.port 3, .portBer, 7, base, by decide⟩

theorem wit_WearAndSaplings_2 : ∃ (d : Die) (ch : Nat) (v : Nat) (s : State), s.mssRuns = true :=
  ⟨0, 7, 5, base, by decide⟩

theorem wit_WearAndSaplings_3 : ∃ (u : WearUnit) (i : Indicator) (v : Nat) (s : State), (indicatorsOf u).contains i = false :=
  ⟨.port 3, .slack, 7, base, by decide⟩

theorem wit_WearAndSaplings_4 : ∃ (s : State), s.now < s.mss.eolAt + 3600000000 :=
  ⟨base, by decide⟩

theorem wit_WearAndSaplings_5 : ∃ (p : PortId) (w : WearSt) (s : State), s.mssRuns = true ∧ (s.regs.bank .mssEol).pending = none ∧ s.mss.eolAt + 3600000000 ≤ s.now ∧ s.mss.wear = [((.port p, .portBer), w)] ∧ w.told = false ∧ w.acted = false ∧ s.hub.toMss = [] ∧ s.hub.fromMss = [] ∧ s.hub.postWait = [] ∧ s.regs.mssHeld = [] ∧ s.inReset .cp = false ∧ bitOf (s.reg aEolPol) 16 = true ∧ (predict .portBer s.now (closeHour s.now (bitsOf (s.reg aEolPol) 15 8) ((.port p, .portBer), w)).2).below (bitsOf (s.reg aEolPol) 7 0) = true ∧ (s.port p).state ≠ 5 ∧ ((∀ c : CtxId, (s.ctx c).steps = [])) ∧ s.hub.eolDue = [] :=
  ⟨3, ⟨some 1, 200000000, 1, 1, List.replicate 24 (1, 1, 1), false, false⟩, { base with regs := { active := (aEolPol, 0x10A5A) :: base.regs.active }, hub := { base.hub with timeUs := 3600000000 }, mss := { wear := [((.port 3, .portBer), ⟨some 1, 200000000, 1, 1, List.replicate 24 (1, 1, 1), false, false⟩)] } }, by decide⟩

theorem wit_WearAndSaplings_6 : ∃ (c : CtxId) (p : PortId) (w : WearSt) (s : State), s.mssRuns = true ∧ (s.regs.bank .mssEol).pending = none ∧ s.mss.eolAt + 3600000000 ≤ s.now ∧ s.mss.wear = [((.port p, .portBer), w)] ∧ w.told = false ∧ w.acted = false ∧ s.hub.toMss = [] ∧ s.hub.fromMss = [] ∧ s.hub.postWait = [] ∧ s.regs.mssHeld = [] ∧ s.inReset .cp = false ∧ bitOf (s.reg aEolPol) 16 = true ∧ (predict .portBer s.now (closeHour s.now (bitsOf (s.reg aEolPol) 15 8) ((.port p, .portBer), w)).2).below (bitsOf (s.reg aEolPol) 7 0) = true ∧ (s.ctx c).steps ≠ [] :=
  ⟨0, 3, ⟨some 1, 200000000, 1, 1, List.replicate 24 (1, 1, 1), false, false⟩, { base with regs := { active := (aEolPol, 0x10A5A) :: base.regs.active }, hub := { base.hub with timeUs := 3600000000 }, mss := { wear := [((.port 3, .portBer), ⟨some 1, 200000000, 1, 1, List.replicate 24 (1, 1, 1), false, false⟩)] }, ctxs := [(0, { steps := [stp 1] })] }, by decide⟩

theorem wit_WearAndSaplings_7 : ∃ (p : PortId) (w : WearSt) (s : State), s.mssRuns = true ∧ (s.regs.bank .mssEol).pending = none ∧ s.mss.eolAt + 3600000000 ≤ s.now ∧ s.mss.wear = [((.port p, .portBer), w)] ∧ w.told = false ∧ bitOf (s.reg aEolPol) 16 = false ∧ (predict .portBer s.now (closeHour s.now (bitsOf (s.reg aEolPol) 15 8) ((.port p, .portBer), w)).2).below (bitsOf (s.reg aEolPol) 7 0) = true ∧ s.hub.eolDue = [] :=
  ⟨3, ⟨some 1, 200000000, 1, 1, List.replicate 24 (1, 1, 1), false, false⟩, { base with regs := { active := (aEolPol, 0x00A5A) :: base.regs.active }, hub := { base.hub with timeUs := 3600000000 }, mss := { wear := [((.port 3, .portBer), ⟨some 1, 200000000, 1, 1, List.replicate 24 (1, 1, 1), false, false⟩)] } }, by decide⟩

theorem wit_WearAndSaplings_8 : ∃ (s : State), s.mssRuns = true ∧ (s.regs.bank .mssEol).pending = none ∧ s.mss.eolAt + 3600000000 ≤ s.now ∧ s.mss.wear = [] ∧ s.hub.eolDue = [] :=
  ⟨{ base with hub := { base.hub with timeUs := 3600000000 } }, by decide⟩

theorem wit_WearAndSaplings_9 : ∃ (c : CtxId) (sap : ModNo) (w : ModNo) (b : Bool) (v : Nat) (acr : Nat) (p : Program) (d : SlotData) (s : State), sap.val = s.phys ∧ s.inClearing = false ∧ (s.ctx c).loaded = false ∧ s.acrOk acr = true ∧ (s.regs.bank .mssSap).pending = none :=
  ⟨0, 0, 1, false, 5, 0x100, prog1, {}, loadable, by decide⟩

theorem wit_WearAndSaplings_10 : ∃ (c : CtxId) (sap : ModNo) (w : ModNo) (b : Bool) (v : Nat) (acr : Nat) (p : Program) (d : SlotData) (s : State), sap.val = s.phys ∧ s.inClearing = false ∧ (s.ctx c).loaded = false ∧ s.acrOk acr = false :=
  ⟨0, 0, 1, false, 5, 0x100, prog1, {}, base, by decide⟩

theorem wit_WearAndSaplings_11 : ∃ (c : CtxId) (sap : ModNo) (w : ModNo) (b : Bool) (v : Nat) (acr : Nat) (p : Program) (d : SlotData) (s : State), sap.val ≠ s.phys ∧ ((s.isSteward c = true → s.levelBelow sap.val acr = false ∧ s.mayShadow c sap.val ⟨w, b⟩ = true)) ∧ ((w.val = s.ident ∨ s.isSteward c = true)) ∧ ((w.val = s.ident → (s.ctx c).steps = [])) :=
  ⟨0, 5, 0, false, 5, 0x100, prog1, {}, base, by decide⟩

theorem wit_WearAndSaplings_12 : ∃ (c : CtxId) (sap : ModNo) (w : ShadowPlan) (v : Nat) (acr : Nat) (p : Program) (d : SlotData) (s : State), sap.val ≠ s.phys ∧ s.isSteward c = true ∧ s.levelBelow sap.val acr = false ∧ s.mayShadow c sap.val w = false :=
  ⟨0, 5, ⟨1, false⟩, 5, 0x100, prog1, {}, clearing, by decide⟩

theorem wit_WearAndSaplings_13 : ∃ (c : CtxId) (g : Sapling) (p : Program) (n : Nat) (desc : List Byte) (batch : List (List Byte)) (upd : UpdateRec) (s : State), s.grove.sapling = some g ∧ g.ctx = c ∧ g.admitted = false ∧ (s.ctx c).prog = some p ∧ n = (s.ctx c).committed + (s.ctx c).steps.length + 1 ∧ n ≤ (s.ctx c).committed + 16 :=
  ⟨0, sap, prog1, 1, [], [], {}, saplingWith sap { prog := some prog1 }, by decide⟩

theorem wit_WearAndSaplings_14 : ∃ (c : CtxId) (g : Sapling) (p : Program) (slice : Nat) (tensor : Nat) (first : Nat) (vals : List Int) (u : Step) (s : State), s.grove.sapling = some g ∧ g.ctx = c ∧ g.admitted = false ∧ (s.ctx c).prog = some p ∧ (s.ctx c).steps = [u] :=
  ⟨0, sap, prog1, 4, 5, 0, [7], stp 1, saplingWith sap { prog := some prog1, steps := [stp 1] }, by decide⟩

theorem wit_WearAndSaplings_15 : ∃ (c : CtxId) (g : Sapling) (p : Program) (k : Option Word) (u : Step) (s : State), s.grove.sapling = some g ∧ g.ctx = c ∧ g.admitted = false ∧ (s.ctx c).prog = some p ∧ (s.ctx c).steps = [u] :=
  ⟨0, sap, prog1, none, stp 1, saplingWith sap { prog := some prog1, steps := [stp 1] }, by decide⟩

theorem wit_WearAndSaplings_16 : ∃ (c : CtxId) (g : Sapling) (p : Program) (n : Nat) (s : State), s.grove.sapling = some g ∧ g.ctx = c ∧ g.admitted = false ∧ (s.ctx c).prog = some p :=
  ⟨0, sap, prog1, 1, saplingWith sap { prog := some prog1, steps := [stp 1] }, by decide⟩

theorem wit_WearAndSaplings_17 : ∃ (c : CtxId) (g : Sapling) (u : Step) (n : Nat) (bs : List Byte) (s : State), s.grove.sapling = some g ∧ g.ctx = c ∧ g.admitted = false ∧ g.reexec = none ∧ (s.ctx c).steps = [u] ∧ u.number = n ∧ u.state = .checking ∧ bs = kiythCompared (s.kiyth c u false) :=
  ⟨0, sap, chkd, 1, (kiythCompared ((saplingWith sap { prog := some prog1, steps := [chkd] }).kiyth 0 chkd false)), saplingWith sap { prog := some prog1, steps := [chkd] }, rfl, rfl, rfl, rfl, rfl, rfl, rfl, rfl⟩

theorem wit_WearAndSaplings_18 : ∃ (c : CtxId) (g : Sapling) (u : Step) (n : Nat) (bs : List Byte) (s : State), s.grove.sapling = some g ∧ g.ctx = c ∧ g.admitted = false ∧ g.reexec = none ∧ (s.ctx c).steps = [u] ∧ u.number = n ∧ u.state = .checking ∧ bs ≠ kiythCompared (s.kiyth c u false) :=
  ⟨0, sap, chkd, 1, [], saplingWith sap { prog := some prog1, steps := [chkd] }, by decide⟩

theorem wit_WearAndSaplings_19 : ∃ (c : CtxId) (m : ModNo) (n : Nat) (e : Shadow) (s : State), s.isSteward c = true ∧ s.shadowOf c m.val = some e ∧ e.equal + 1 < e.needed :=
  ⟨0, 5, 1, shd, clearSh, by decide⟩

theorem wit_WearAndSaplings_20 : ∃ (c : CtxId) (g : Sapling) (u : Step) (n : Nat) (tensor : Nat) (third : Option Bool) (s : State), s.grove.sapling = some g ∧ g.ctx = c ∧ g.reexec = some n ∧ (s.ctx c).steps = [u] ∧ u.number = n ∧ u.state = .checking ∧ kiythCompared (s.kiyth c u false) = g.theirs :=
  ⟨0, { sap with reexec := some 1, theirs := (kiythCompared ((saplingWith sap { prog := some prog1, steps := [chkd] }).kiyth 0 chkd false)) }, chkd, 1, 0, none, saplingWith { sap with reexec := some 1, theirs := (kiythCompared ((saplingWith sap { prog := some prog1, steps := [chkd] }).kiyth 0 chkd false)) } { prog := some prog1, steps := [chkd] }, rfl, rfl, rfl, rfl, rfl, rfl, rfl⟩

theorem wit_WearAndSaplings_21 : ∃ (c : CtxId) (m : ModNo) (n : Nat) (tensor : Nat) (e : Shadow) (s : State), s.isSteward c = true ∧ s.shadowOf c m.val = some e :=
  ⟨0, 5, 1, 0, shd, clearSh, by decide⟩

theorem wit_WearAndSaplings_22 : ∃ (c : CtxId) (m : ModNo) (n : Nat) (tensor : Nat) (e : Shadow) (s : State), s.isSteward c = true ∧ s.shadowOf c m.val = some e ∧ e.limit ≤ e.mismatch + 1 :=
  ⟨0, 5, 1, 0, shd, clearSh, by decide⟩

theorem wit_WearAndSaplings_23 : ∃ (c : CtxId) (g : Sapling) (u : Step) (n : Nat) (tensor : Nat) (third : Option Bool) (s : State), s.grove.sapling = some g ∧ g.ctx = c ∧ g.reexec = some n ∧ (s.ctx c).steps = [u] ∧ u.number = n ∧ u.state = .checking ∧ kiythCompared (s.kiyth c u false) ≠ g.theirs ∧ (s.hotSpare c).isSome = true ∧ third = some true :=
  ⟨0, { sap with reexec := some 1 }, chkd, 1, 0, some true, { saplingWith { sap with reexec := some 1 } { prog := some prog1, steps := [chkd] } with link := nearSpare }, by decide⟩

theorem wit_WearAndSaplings_24 : ∃ (c : CtxId) (g : Sapling) (u : Step) (n : Nat) (tensor : Nat) (third : Option Bool) (s : State), s.grove.sapling = some g ∧ g.ctx = c ∧ g.reexec = some n ∧ (s.ctx c).steps = [u] ∧ u.number = n ∧ u.state = .checking ∧ kiythCompared (s.kiyth c u false) ≠ g.theirs ∧ ((third ≠ some true ∨ s.hotSpare c = none)) ∧ g.limit ≤ g.mismatch + 1 :=
  ⟨0, { sap with reexec := some 1 }, chkd, 1, 0, none, saplingWith { sap with reexec := some 1 } { prog := some prog1, steps := [chkd] }, by decide⟩

theorem wit_CheckpointsRun_1 : ∃ (c : CtxId) (n : Nat) (rest : List Nat) (s : State), (s.ctx c).ckptDue = n :: rest ∧ (s.ctx c).quick = none :=
  ⟨0, 1, [], withCtx { prog := some prog1, committed := 1, ckptDue := [1] }, by decide⟩

theorem wit_CheckpointsRun_2 : ∃ (c : CtxId) (n : Nat) (rest : List Nat) (s : State), (s.ctx c).ckptDue = n :: rest :=
  ⟨0, 1, [], withCtx { prog := some prog1, committed := 1, ckptDue := [1] }, by decide⟩

theorem wit_CheckpointsRun_3 : ∃ (c : CtxId) (q : QuickCopy) (p : Program) (s : State), (s.ctx c).quick = some q ∧ (s.ctx c).prog = some p ∧ s.mem.upsets = [] :=
  ⟨0, ⟨1, 1, {}, []⟩, prog1, withCtx { prog := some prog1, quick := some ⟨1, 1, {}, []⟩ }, by decide⟩

theorem wit_CheckpointsRun_4 : ∃ (c : CtxId) (d : Drain) (i : Nat) (p : Program) (f : Frozen) (s : State), (s.ctx c).drain = some d ∧ (s.ctx c).prog = some p ∧ (s.ctx c).snapshot = some f ∧ d.sDone = none ∧ d.sSlot = some i ∧ d.sErrors < 2 ∧ ((d.sStage = 1 → s.mem.upsets = [])) :=
  ⟨0, drain0, 0, prog1, frozen1, draining drain0, by decide⟩

theorem wit_CheckpointsRun_5 : ∃ (c : CtxId) (d : Drain) (i : Nat) (p : Program) (f : Frozen) (s : State), (s.ctx c).drain = some d ∧ (s.ctx c).prog = some p ∧ (s.ctx c).snapshot = some f ∧ d.sDone = none ∧ d.sSlot = some i ∧ 2 ≤ d.sErrors ∧ ((d.sStage = 1 → s.mem.upsets = [])) :=
  ⟨0, { drain0 with sErrors := 2 }, 0, prog1, frozen1, draining { drain0 with sErrors := 2 }, by decide⟩

theorem wit_CheckpointsRun_6 : ∃ (c : CtxId) (d : Drain) (i : Nat) (p : Program) (f : Frozen) (s : State), (s.ctx c).drain = some d ∧ (s.ctx c).prog = some p ∧ (s.ctx c).snapshot = some f ∧ d.sDone = none ∧ d.sSlot = some i ∧ d.sStage < 3 ∧ ((d.sStage = 1 → s.mem.upsets = [])) :=
  ⟨0, drain0, 0, prog1, frozen1, draining drain0, by decide⟩

theorem wit_CheckpointsRun_7 : ∃ (c : CtxId) (d : Drain) (i : Nat) (p : Program) (f : Frozen) (s : State), (s.ctx c).drain = some d ∧ (s.ctx c).prog = some p ∧ (s.ctx c).snapshot = some f ∧ d.sDone = none ∧ d.sSlot = some i ∧ 3 ≤ d.sStage ∧ s.mss.idKey = true :=
  ⟨0, { drain0 with sStage := 3 }, 0, prog1, frozen1, draining { drain0 with sStage := 3 }, by decide⟩

theorem wit_CheckpointsRun_8 : ∃ (w : ModNo) (k : CtxId) (set : Nat) (rows : Nat) (s : State), s.hub.power ≠ .dormant ∧ groveOf w.val = groveOf s.ident ∧ s.rowsElse (seatOf w.val) k.val set + rows ≤ s.stripeUnits :=
  ⟨1, 0, 0, 3, loadable, by decide⟩

theorem wit_CheckpointsRun_9 : ∃ (w : ModNo) (k : CtxId) (set : Nat) (rows : Nat) (s : State), s.hub.power ≠ .dormant ∧ groveOf w.val = groveOf s.ident ∧ s.stripeUnits < s.rowsElse (seatOf w.val) k.val set + rows :=
  ⟨1, 0, 0, 3, base, by decide⟩

theorem wit_CheckpointsRun_10 : ∃ (src : ModNo) (k : CtxId) (set : Nat) (row : Nat) (unit : Nat) (bytes : List Byte) (r : StripeRegion) (s : State), groveOf src.val = groveOf s.ident ∧ AL.find? (seatOf src.val, k.val) s.ckpt.stripes = some r ∧ row < AL.get 0 set r.rows ∧ unit < 32 ∧ unitSeat (seatOf src.val) row unit = seatOf s.ident :=
  ⟨1, 0, 0, 0, 31, [7], region0, { { base with ckpt := { stripes := [((1, 0), region0)] } } with regs := { active := (aPlanSelf, 0) :: base.regs.active } }, by decide⟩

theorem wit_CheckpointsRun_11 : ∃ (src : ModNo) (k : CtxId) (set : Nat) (seat : Nat) (row : Nat) (unit : Nat) (bytes : List Byte) (ok : Bool) (s : State), (unitSeat seat row unit ≠ seatOf s.ident ∨ seatOf src.val ≠ seat) :=
  ⟨1, 0, 0, 1, 0, 30, [7], true, base, by decide⟩

theorem wit_CheckpointsRun_12 : ∃ (c : CtxId) (answers : List (Nat × Bool)) (d : Drain) (p : Program) (f : Frozen) (s : State), (s.ctx c).drain = some d ∧ (s.ctx c).prog = some p ∧ (s.ctx c).snapshot = some f ∧ d.gDone = none ∧ d.gWait = [] ∧ s.mem.upsets = [] ∧ 2 < ((List.range 32).filter (fun q => !answers.any (fun a => a.1 == q && a.2))).length :=
  ⟨0, [(0, true)], { drain0 with gRows := 1 }, prog1, frozen1, draining { drain0 with gRows := 1 }, by decide⟩

theorem wit_CheckpointsRun_13 : ∃ (c : CtxId) (answers : List (Nat × Bool)) (d : Drain) (p : Program) (f : Frozen) (s : State), (s.ctx c).drain = some d ∧ (s.ctx c).prog = some p ∧ (s.ctx c).snapshot = some f ∧ d.gDone = none ∧ d.gWait = [] ∧ s.mem.upsets = [] ∧ 0 < d.gRows ∧ (List.range 32).filter (fun q => !answers.any (fun a => a.1 == q && a.2)) = [] :=
  ⟨0, (List.range 32).map (fun q => (q, true)), { drain0 with gRows := 1 }, prog1, frozen1, draining { drain0 with gRows := 1 }, by decide⟩

theorem wit_CheckpointsRun_14 : ∃ (c : CtxId) (pos : Nat) (row : Nat) (unit : Nat) (d : Drain) (p : Program) (f : Frozen) (s : State), (s.ctx c).drain = some d ∧ (s.ctx c).prog = some p ∧ (s.ctx c).snapshot = some f ∧ d.gDone = none ∧ d.gWait = [(row, unit)] ∧ d.gBad.length ≤ 2 ∧ unitSeat (seatOf s.ident) row unit = pos ∧ s.mss.idKey = true :=
  ⟨0, 5, 0, 5, { drain0 with gRows := 1, gWait := [(0, 5)] }, prog1, frozen1, draining { drain0 with gRows := 1, gWait := [(0, 5)] }, by decide⟩

theorem wit_CheckpointsRun_15 : ∃ (c : CtxId) (step : Nat) (b : Bool) (g : Bool) (s : State), step ≤ (s.ctx c).committed ∧ (s.ctx c).quick = none :=
  ⟨0, 1, true, false, withCtx { prog := some prog1, committed := 1, ckptNamed := [(1, 0), (3, 1)] }, by decide⟩

theorem wit_CheckpointsRun_16 : ∃ (w : ModNo) (k : CtxId) (s : State), groveOf w.val = groveOf s.ident :=
  ⟨1, 0, { base with ckpt := { stripes := [((1, 0), region0)] } }, by decide⟩

theorem wit_CheckpointsRun_17 : ∃ (issuer : ModNo) (s : State), groveOf issuer.val = groveOf s.ident :=
  ⟨1, { base with ckpt := { stripes := [((1, 0), region0)] } }, by decide⟩

theorem wit_CheckpointsRun_18 : ∃ (issuer : ModNo) (e : RebuildUnit) (b : List Nat) (s : State), groveOf issuer.val = groveOf s.ident ∧ rebuildUnit (e.avail.map (fun u => (u.1, u.2.map BitVec.toNat))) e.unit = some b ∧ e.row < s.stripeUnits :=
  ⟨1, ⟨2, 0, 0, 0, 0, ((List.range 32).filter (fun j => j != 0)).map (fun j => (j, [0]))⟩, [0], loadable, by decide⟩

theorem wit_StripesRecoverTwo_1 : ∃ (n : Nat) (a : Nat) (b : Nat) (ds : List UnitBytes), ds.length = 30 ∧ ((∀ u ∈ ds, u.length = n ∧ ∀ x ∈ u, x < 256)) ∧ a < 32 ∧ b < 32 :=
  ⟨1, 3, 7, List.replicate 30 [1], by decide⟩

theorem wit_RestoresComplete_1 : ∃ (c : CtxId) (q : QDesc) (p : Program) (i : Fin 3) (r0 : RestoreInput) (s : State), s.headOf c .step .restore = some q ∧ (s.ctx c).prog = some p ∧ (s.ctx c).restoreSlot = some i ∧ (s.ctx c).mayRestore = true ∧ ((dSource q.bytes ≠ 0 ∨ dSourceId q.bytes = s.ident ∨ r0.sourceOk = false)) :=
  ⟨0, restoreQ, prog1, 0, badInput, stepHead restoreQ (withCtx { prog := some prog1 }), by decide⟩

theorem wit_RestoresComplete_2 : ∃ (c : CtxId) (q : QDesc) (p : Program) (i : Fin 3) (r : RestoreInput) (s : State), s.headOf c .step .restore = some q ∧ (s.ctx c).prog = some p ∧ (s.ctx c).restoreSlot = some i ∧ (s.ctx c).mayRestore = true ∧ dSource q.bytes = 0 ∧ dSourceId q.bytes ≠ s.ident ∧ r.sourceOk = true ∧ s.seedBlocks c = [] ∧ 0 < imageBlocks p r.image.data :=
  ⟨0, restoreT, prog1, 0, badInput, stepHead restoreT (withCtx { prog := some prog1 }), by decide⟩

theorem wit_RestoresComplete_3 : ∃ (c : CtxId) (input : Fetch RestoreInput) (s : State), (s.ctx c).mayRestore = false :=
  ⟨0, .data badInput, stepHead restoreQ base, by decide⟩

theorem wit_RestoresComplete_4 : ∃ (c : CtxId) (src : ModNo) (ix : Nat) (bytes : List Byte) (q : QDesc) (s : State), s.headOf c .step .restore = some q ∧ dSource q.bytes = 0 ∧ dSourceId q.bytes = src.val :=
  ⟨0, 3, 3, [7], restoreT, stepHead restoreT (withCtx { prog := some prog1 }), by decide⟩

theorem wit_RestoresComplete_5 : ∃ (c : CtxId) (d : SlotData) (ok : Bool) (r : Restoring) (s : State), (s.ctx c).restoring = some r ∧ r.voted = false ∧ r.mirrorIn = false :=
  ⟨0, {}, true, ⟨4, 1, none, false, false⟩, withCtx { prog := some prog1, restoring := some ⟨4, 1, none, false, false⟩ }, by decide⟩

theorem wit_RestoresComplete_6 : ∃ (c : CtxId) (r : Restoring) (f : Flow) (s : State), (s.ctx c).restoring = some r ∧ s.flowOf c .step .restore = some f ∧ r.voted = true :=
  ⟨0, ⟨4, 1, none, true, true⟩, ⟨0, .restore, 0, none⟩, withRing { step := { flow := [⟨0, .restore, 0, none⟩], consumer := 1 } } (withCtx { prog := some prog1, restoring := some ⟨4, 1, none, true, true⟩ }), by decide⟩

theorem wit_RestoresComplete_7 : ∃ (c : CtxId) (r : Restoring) (f : Flow) (mask : Word) (s : State), (s.ctx c).restoring = some r ∧ s.flowOf c .step .restore = some f ∧ r.voted = true ∧ mask ≠ 0 :=
  ⟨0, ⟨4, 1, none, true, true⟩, ⟨0, .restore, 0, none⟩, 1, withRing { step := { flow := [⟨0, .restore, 0, none⟩], consumer := 1 } } (withCtx { prog := some prog1, restoring := some ⟨4, 1, none, true, true⟩ }), by decide⟩

theorem wit_RestoredVersion_1 : ∃ (c : CtxId) (r : Restoring) (f : Flow) (s : State), (s.ctx c).restoring = some r ∧ s.flowOf c .step .restore = some f ∧ r.voted = true :=
  ⟨0, ⟨4, 1, none, true, true⟩, ⟨0, .restore, 0, none⟩, withRing { step := { flow := [⟨0, .restore, 0, none⟩], consumer := 1 } } (withCtx { prog := some prog1, restoring := some ⟨4, 1, none, true, true⟩ }), by decide⟩

theorem wit_RestoredVersion_2 : ∃ (c : CtxId) (q : QDesc) (b : List (List Byte)) (n : Nat) (s : State), (s.ctx c).committed = n ∧ (s.ctx c).steps = [] ∧ s.headOf c .step .step = some q ∧ s.admits c = true :=
  ⟨0, qd .step [(16, 1)], [], 0, stepHead (qd .step [(16, 1)]) (withCtx { prog := some prog1 }), by decide⟩

theorem wit_PortsComeAndGo_1 : ∃ (p : PortId) (f : Flit) (s : State), 2 ≤ (s.port p).state ∧ (s.port p).state < 5 ∧ crc32 (flitBytes f) = f.crc ∧ f.nak = false ∧ f.seq = (s.port p).rxNext ∧ f.vl ≠ 7 ∧ (s.port p).sinceIdle < 63 ∧ s.quiet = true :=
  ⟨3, flit0, withPort3 { state := 4 }, by decide +kernel⟩

theorem wit_PortsComeAndGo_2 : ∃ (p : PortId) (f : Flit) (bad : Bool) (s : State), 2 ≤ (s.port p).state ∧ (s.port p).state < 5 ∧ ((bad = true ∨ crc32 (flitBytes f) ≠ f.crc)) ∧ (s.port p).nakked = false :=
  ⟨3, flit0, true, withPort3 { state := 4 }, by decide⟩

theorem wit_PortsComeAndGo_3 : ∃ (p : PortId) (s : State), 2 ≤ (s.port p).state ∧ (s.port p).state ≤ 4 :=
  ⟨3, withPort3 { state := 4 }, by decide⟩

theorem wit_PortsComeAndGo_4 : ∃ (p : PortId) (cause : DownCause) (s : State), downNow cause = true ∧ 2 ≤ (s.port p).state ∧ (s.port p).state ≤ 4 ∧ s.quiet = true :=
  ⟨3, .lossOfLock, withPort3 { state := 4 }, by decide⟩

theorem wit_PortsComeAndGo_5 : ∃ (p : PortId) (cause : DownCause) (s : State), downNow cause = false :=
  ⟨3, .fecErrors 100, withPort3 { state := 4 }, by decide⟩

theorem wit_PortsComeAndGo_6 : ∃ (ld : Fin 2) (ch : Fin 24) (p : PortId) (k : Nat) (s : State), linkDieOf p = ld.val ∧ s.laserSt ld.val ch.val = .feeds p ∧ s.laserOf p = ch.val ∧ (List.range 24).find? (fun j => decide (s.laserSt ld.val j = .spare)) = some k ∧ 2 ≤ (s.port p).state ∧ (s.port p).state ≤ 4 ∧ (s.port p).holdOff = false ∧ s.dark p = false ∧ s.quiet = true :=
  ⟨0, 3, 3, 20, { withPort3 { state := 4 } with regs := { active := base.regs.active ++ [(aPlanPort 3, 1)] } }, by decide⟩

theorem wit_PortsComeAndGo_7 : ∃ (ld : Fin 2) (ch : Fin 24) (p : PortId) (s : State), linkDieOf p = ld.val ∧ s.laserSt ld.val ch.val = .feeds p ∧ s.laserOf p = ch.val ∧ (List.range 24).find? (fun j => decide (s.laserSt ld.val j = .spare)) = none ∧ (s.port p).state ≠ 5 ∧ s.dark p = false ∧ s.quiet = true :=
  ⟨0, 3, 3, { base with link := { ports := [(3, { state := 4 })], lasers := [((0, 20), .failed), ((0, 21), .failed), ((0, 22), .failed), ((0, 23), .failed)] }, regs := { active := base.regs.active ++ [(aPlanPort 3, 1)] } }, by decide⟩

theorem wit_PortsComeAndGo_8 : ∃ (p : PortId) (s : State), (s.port p).holdOff = true :=
  ⟨3, withPort3 { holdOff := true }, by decide⟩

theorem wit_PortsComeAndGo_9 : ∃ (p : PortId) (stage : BringUpStage) (s : State), (s.port p).state = 1 ∧ (s.port p).stage = stageBefore stage :=
  ⟨3, .fec, withPort3 { state := 1, stage := some .lock }, by decide⟩

theorem wit_PortsComeAndGo_10 : ∃ (p : PortId) (s : State), ((s.port p).state = 1 ∨ (s.port p).state = 2) ∧ (s.port p).attempts < 2 :=
  ⟨3, withPort3 { state := 1 }, by decide⟩

theorem wit_PortsComeAndGo_11 : ∃ (p : PortId) (s : State), ((s.port p).state = 1 ∨ (s.port p).state = 2) ∧ 2 ≤ (s.port p).attempts ∧ s.quiet = true :=
  ⟨3, withPort3 { state := 1, attempts := 2 }, by decide⟩

theorem wit_PortsComeAndGo_12 : ∃ (p : PortId) (s : State), 2 ≤ (s.port p).state ∧ (s.port p).state ≤ 4 :=
  ⟨3, withPort3 { state := 3 }, by decide⟩

theorem wit_PortsComeAndGo_13 : ∃ (p : PortId) (b : Beacon) (s : State), ((s.port p).state = 2 ∨ (s.port p).state = 3) ∧ b.planId = s.reg aPlanIdLo + 2 ^ 32 * s.reg aPlanIdHi ∧ bitsOf (s.reg aLinkPol) 15 8 ≤ b.level ∧ b.phys = s.planPhys p ∧ b.port = s.planPort p ∧ s.replacedBy p = none :=
  ⟨3, bcn, withPort3 { state := 2 }, by decide⟩

theorem wit_PortsComeAndGo_14 : ∃ (p : PortId) (b : Beacon) (s : State), (s.port p).state = 2 ∧ b.planId ≠ s.reg aPlanIdLo + 2 ^ 32 * s.reg aPlanIdHi ∧ s.crossedWith p b = none :=
  ⟨3, { bcn with planId := 9 }, withPort3 { state := 2 }, by decide⟩

theorem wit_PortsComeAndGo_15 : ∃ (p : PortId) (lane : Nat) (s : State), (s.port p).state = 4 ∧ (s.port p).detour = true ∧ lane < 7 ∧ (List.range 7).all (fun l => l == lane || (s.port p).markers.contains l) = true ∧ s.quiet = true :=
  ⟨3, 6, withPort3 { state := 4, detour := true, markers := [0, 1, 2, 3, 4, 5] }, by decide⟩

theorem wit_PortsComeAndGo_16 : ∃ (p : PortId) (ber : Nat) (s : State), s.mssRuns = false :=
  ⟨3, 9, { base with hub := { base.hub with domains := [(.mss, { inReset := true })] } }, by decide⟩

theorem wit_PortsComeAndGo_17 : ∃ (p : PortId) (ber : Nat) (s : State), s.mssRuns = true :=
  ⟨3, 9, base, by decide⟩

theorem wit_PacketsAndTheTree_1 : ∃ (p : PortId) (lane : Nat) (h : PacketHdr) (s : State), (s.port p).state = 4 ∧ 5 ≤ h.hops :=
  ⟨3, 4, { pkt with hops := 5 }, withPort3 { state := 4 }, by decide⟩

theorem wit_PacketsAndTheTree_2 : ∃ (p : PortId) (lane : Nat) (h : PacketHdr) (g : BitVec 8) (s : State), (s.port p).state = 4 ∧ h.hops < 5 ∧ AL.find? h.src s.link.gens = some g ∧ g ≠ h.srcGen :=
  ⟨3, 4, pkt, 9, { withPort3 { state := 4 } with link := { ports := [(3, { state := 4 })], gens := [(5, 9)] } }, by decide⟩

theorem wit_PacketsAndTheTree_3 : ∃ (p : PortId) (lane : Nat) (h : PacketHdr) (s : State), (s.port p).state = 4 ∧ h.hops < 5 ∧ ((AL.find? h.src s.link.gens = none ∨ AL.find? h.src s.link.gens = some h.srcGen)) ∧ h.dest = s.ident ∧ h.clearing = 0 ∧ groveOf h.src = groveOf s.ident ∧ (lane = 3 ∨ lane = 4 ∨ lane = 6) ∧ typeLane h.type = some lane ∧ h.reply = false :=
  ⟨3, 3, pkt, withPort3 { state := 4 }, by decide⟩

theorem wit_PacketsAndTheTree_4 : ∃ (p : PortId) (lane : Nat) (k : Nat) (h : PacketHdr) (s : State), (s.port p).state = 4 ∧ h.hops < 5 ∧ AL.find? h.src s.link.gens = none ∧ h.dest = s.ident ∧ h.clearing ≠ 0 ∧ s.tableOfClearing h.clearing = some k ∧ s.routeValid k h.src = true ∧ (s.ctx (Fin.ofNat 16 (s.tableCtx k))).epoch ≠ h.epoch :=
  ⟨3, 3, 1, { pkt with clearing := 5, epoch := 3 }, { withPort3 { state := 4 } with regs := { active := tabled } }, by decide⟩

theorem wit_PacketsAndTheTree_5 : ∃ (p : PortId) (lane : Nat) (h : PacketHdr) (s : State), (s.port p).state = 4 ∧ h.hops < 5 ∧ AL.find? h.src s.link.gens = none ∧ h.dest = s.ident ∧ h.clearing = 0 ∧ groveOf h.src ≠ groveOf s.ident :=
  ⟨3, 3, { pkt with src := 40 }, withPort3 { state := 4 }, by decide⟩

theorem wit_PacketsAndTheTree_6 : ∃ (p : PortId) (lane : Nat) (h : PacketHdr) (s : State), (s.port p).state = 4 ∧ h.hops < 5 ∧ AL.find? h.src s.link.gens = none ∧ h.dest = s.ident ∧ h.clearing ≠ 0 ∧ s.tableOfClearing h.clearing = none :=
  ⟨3, 3, { pkt with clearing := 6 }, withPort3 { state := 4 }, by decide⟩

theorem wit_PacketsAndTheTree_7 : ∃ (p : PortId) (lane : Nat) (k : Nat) (q : Nat) (h : PacketHdr) (s : State), (s.port p).state = 4 ∧ h.hops < 5 ∧ AL.find? h.src s.link.gens = none ∧ h.dest ≠ s.ident ∧ h.clearing ≠ 0 ∧ s.tableOfClearing h.clearing = some k ∧ s.egress k h.dest lane = some q ∧ q < 40 ∧ s.outLane lane h = lane ∧ s.hasRoom q lane h = true ∧ lane ≠ 5 ∧ s.quiet = true :=
  ⟨3, 0, 1, 3, { pkt with dest := 9, clearing := 5 }, { withPort3 { state := 4 } with regs := { active := tabled } }, by decide⟩

theorem wit_PacketsAndTheTree_8 : ∃ (p : PortId) (lane : Nat) (h : PacketHdr) (s : State), (s.port p).state = 4 ∧ h.hops < 5 ∧ AL.find? h.src s.link.gens = none ∧ h.dest ≠ s.ident ∧ h.clearing ≠ 0 ∧ s.tableOfClearing h.clearing = none ∧ lane ≠ 5 :=
  ⟨3, 3, { pkt with dest := 9, clearing := 5 }, withPort3 { state := 4 }, by decide⟩

theorem wit_PacketsAndTheTree_9 : ∃ (p : PortId) (lane : Nat) (h : PacketHdr) (s : State), (s.port p).state ≠ 4 ∧ lane ≠ 6 :=
  ⟨3, 3, pkt, base, by decide⟩

theorem wit_PacketsAndTheTree_10 : ∃ (c : CtxId) (src : ModNo) (reason : Nat) (u : Step) (s : State), (s.ctx c).steps = [u] ∧ u.voted = none ∧ (s.ctx c).working = some u :=
  ⟨0, 1, 2, stp 1, withCtx { steps := [stp 1] }, by decide⟩

theorem wit_PacketsAndTheTree_11 : ∃ (c : CtxId) (src : ModNo) (reason : Nat) (s : State), (s.ctx c).steps = [] :=
  ⟨0, 1, 2, base, by decide⟩

theorem wit_PacketsAndTheTree_12 : ∃ (c : CtxId) (k : ControlKind) (src : ModNo) (st : Bool) (mask : Word) (s : State), s.isSteward c = false :=
  ⟨0, .rollbackAck, 0, false, 0, base, by decide⟩

theorem wit_PacketsAndTheTree_13 : ∃ (c : CtxId) (k : ControlKind) (src : ModNo) (mask : Word) (old : Word) (who : List Nat) (s : State), s.isSteward c = true ∧ AL.get ([], if combinesByAnd k then 0xFFFFFFFF else 0) k (s.ctx c).control = (who, old) ∧ who.contains src.val = false ∧ (s.awaited c).2 = [] ∧ (s.awaited c).1.all (fun m => (who ++ [src.val]).contains m) = true :=
  ⟨0, .rollbackAck, 0, 4, 1, [], { base with grove := { spare := false }, ctxs := [(0, { control := [(.rollbackAck, ([], 1))] })] }, by decide⟩

theorem wit_PacketsAndTheTree_14 : ∃ (c : CtxId) (k : ControlKind) (src : ModNo) (mask : Word) (old : Word) (who : List Nat) (s : State), s.isSteward c = true ∧ AL.get ([], if combinesByAnd k then 0xFFFFFFFF else 0) k (s.ctx c).control = (who, old) ∧ who.contains src.val = false ∧ (s.awaited c).1.all (fun m => (who ++ [src.val]).contains m) = false :=
  ⟨0, .rollbackAck, 5, 4, 1, [], { base with grove := { spare := false }, ctxs := [(0, { control := [(.rollbackAck, ([], 1))] })], regs := { active := tabled } }, by decide +kernel⟩

theorem wit_PacketsAndTheTree_15 : ∃ (c : CtxId) (k : ControlKind) (src : ModNo) (mask : Word) (old : Word) (who : List Nat) (s : State), s.isSteward c = true ∧ AL.get ([], if combinesByAnd k then 0xFFFFFFFF else 0) k (s.ctx c).control = (who, old) ∧ who.contains (4096 + groveOf src.val) = false ∧ (s.awaited c).1.all (fun m => (who ++ [4096 + groveOf src.val]).contains m) = false :=
  ⟨0, .rollbackAck, 37, 4, 1, [], { base with grove := { spare := false }, ctxs := [(0, { control := [(.rollbackAck, ([], 1))] })], regs := { active := tabled } }, by decide +kernel⟩

theorem wit_PacketsAndTheTree_16 : ∃ (c : CtxId) (k : ControlKind) (src : ModNo) (mask : Word) (old : Word) (who : List Nat) (s : State), AL.find? k (s.ctx c).control = some (who, old) ∧ who.contains src.val = true :=
  ⟨0, .rollbackAck, 5, 4, 1, [5], { base with grove := { spare := false }, ctxs := [(0, { control := [(.rollbackAck, ([5], 1))] })], regs := { active := tabled } }, by decide⟩

theorem wit_GovernorAndGuest_1 : ∃ (x : Sensor) (v : Int) (s : State), s.mssRuns = true :=
  ⟨.mainPower, 5, base, by decide⟩

theorem wit_GovernorAndGuest_2 : ∃ (avg : Nat) (s : State), (s.regs.bank .pwr).pending = none :=
  ⟨800, base, by decide⟩

theorem wit_GovernorAndGuest_3 : ∃ (avg : Nat) (s : State) (u : State), exec (.bankSafePointApply .pwr 0) s = .next u ∧ (u.regs.bank .pwr).pending = none :=
  ⟨800, pendBank .pwr [(aPwrLimit, 0x123456)] [0] base, (match exec (.bankSafePointApply .pwr 0) (pendBank .pwr [(aPwrLimit, 0x123456)] [0] base) with | .next u => u | _ => base), rfl, by decide +kernel⟩

theorem wit_GovernorAndGuest_4 : ∃ (d : Die) (temp : Int) (s : State), 800 ≤ temp :=
  ⟨1, 800, base, by decide⟩

theorem wit_GovernorAndGuest_5 : ∃ (d : Die) (temp : Int) (s : State), 784 ≤ temp ∧ temp < 800 :=
  ⟨1, 790, base, by decide⟩

theorem wit_GovernorAndGuest_6 : ∃ (d : Die) (temps : List Int) (s : State), ((∃ x ∈ temps, 90 ≤ x)) :=
  ⟨1, [80, 90], base, by decide⟩

theorem wit_GovernorAndGuest_7 : ∃ (d : Die) (temps : List Int) (s : State), ((∀ x ∈ temps, x < 90)) ∧ ((∃ x ∈ temps, 88 ≤ x)) :=
  ⟨1, [80, 88], base, by decide⟩

theorem wit_GovernorAndGuest_8 : ∃ (d : Die) (temps : List Int) (s : State), ((∀ x ∈ temps, x < 88)) ∧ 9 ≤ s.gov.coolS.getD d.val 0 :=
  ⟨1, [80, 81], { base with gov := { coolS := [0, 9, 0, 0], stack := [28, 20, 28, 28] } }, by decide⟩

theorem wit_GovernorAndGuest_9 : ∃ (pred : List (List Nat)) (d : Nat) (s : State), d < 4 :=
  ⟨[[1000, 5]], 0, base, by decide⟩

theorem wit_GovernorAndGuest_10 : ∃ (s : State), s.gov.brakeAt = none :=
  ⟨base, by decide⟩

theorem wit_GovernorAndGuest_11 : ∃ (at_ : Nat) (s : State), s.gov.brakeAt = some at_ :=
  ⟨5, { base with gov := { brakeAt := some 5 } }, by decide⟩

theorem wit_GovernorAndGuest_12 : ∃ (x : Sensor) (temp : Int) (s : State), ((∃ i, x = .junction i ∧ 840 ≤ temp) ∨ (∃ i, x = .stackTemp i ∧ 95 ≤ temp)) :=
  ⟨.junction 2, 850, base, by decide⟩

theorem wit_GovernorAndGuest_13 : ∃ (x : Sensor) (temp : Int) (s : State), ((∀ i, x = .junction i → temp < 840)) ∧ ((∀ i, x = .stackTemp i → temp < 95)) :=
  ⟨.junction 2, 839, base, by decide⟩

theorem wit_GovernorAndGuest_14 : ∃ (js : List Int) (ss : List Int) (s : State), s.hub.tripped = true ∧ s.hub.refclk = true ∧ s.hub.mainPower = true ∧ ((∀ x ∈ js, x ≤ 680)) ∧ ((∀ x ∈ ss, x ≤ 80)) :=
  ⟨[680], [80], hubbed (fun h => { h with tripped := true, domains := [(.warm, { inReset := true })] }), by decide⟩

theorem wit_GovernorAndGuest_15 : ∃ (js : List Int) (ss : List Int) (s : State), ((∃ x ∈ js, 680 < x) ∨ (∃ x ∈ ss, 80 < x)) :=
  ⟨[681], [80], hubbed (fun h => { h with tripped := true }), by decide⟩

theorem wit_GovernorAndGuest_16 : ∃ (addr : Nat) (dva : Nat) (bytes : List Byte) (n : Nat) (c : CtxId) (as : List Nat) (s : State), s.hedgeWindow addr bytes.length true = some (c, dva) ∧ (s.ctx c).translateAll dva 2 bytes.length = some as :=
  ⟨5, 5, [1, 2], 0, 0, ((hedged.ctx 0).translateAll 5 2 2).getD [], hedged, by decide⟩

theorem wit_GovernorAndGuest_17 : ∃ (addr : Nat) (dva : Nat) (n : Nat) (c : CtxId) (as : List Nat) (s : State), s.hedgeWindow addr n false = some (c, dva) ∧ (s.ctx c).translateAll dva 1 n = some as :=
  ⟨5, 5, 2, 0, ((hedged.ctx 0).translateAll 5 1 2).getD [], hedged, by decide⟩

theorem wit_GovernorAndGuest_18 : ∃ (addr : Nat) (n : Nat) (write : Bool) (bytes : List Byte) (s : State), (s.hedgeWindow addr (if write then bytes.length else n) write = none ∨ (∃ c dva, s.hedgeWindow addr (if write then bytes.length else n) write = some (c, dva) ∧ (s.ctx c).translateAll dva (if write then 2 else 1) (if write then bytes.length else n) = none)) :=
  ⟨5, 2, true, [1], base, Or.inl (by decide)⟩

theorem wit_GovernorAndGuest_19 : ∃ (s : State), s.guest.fenced = false ∧ s.guest.attempts < 2 :=
  ⟨base, by decide⟩

theorem wit_GovernorAndGuest_20 : ∃ (s : State), s.guest.fenced = false ∧ 2 ≤ s.guest.attempts :=
  ⟨{ base with guest := { attempts := 2 } }, by decide⟩

theorem wit_PackageAndPower_1 : ∃ (ns : Nat) (s : State), 10000 ≤ ns :=
  ⟨10000, base, by decide⟩

theorem wit_PackageAndPower_2 : ∃ (ns : Nat) (s : State), ns < 1000 :=
  ⟨999, base, by decide⟩

theorem wit_PackageAndPower_3 : ∃ (ns : Nat) (s : State), 1000 ≤ ns ∧ ns < 10000 :=
  ⟨5000, base, by decide⟩

theorem wit_PackageAndPower_4 : ∃ (sel : Fin 4) (s : State), s.hub.modReset = true ∧ s.hub.mainPower = true ∧ s.slotPasses (if s.mss.activeB then s.mss.slotB else s.mss.slotA) true = true :=
  ⟨1, { loadable with hub := { base.hub with modReset := true } }, by decide⟩

theorem wit_PackageAndPower_5 : ∃ (s : State), s.hub.mainPower = true :=
  ⟨base, by decide⟩

theorem wit_PackageAndPower_6 : ∃ (s : State), s.hub.mainPower = false :=
  ⟨hubbed (fun h => { h with mainPower := false }), by decide⟩

theorem wit_PackageAndPower_7 : ∃ (s : State), s.hub.refclk = true :=
  ⟨base, by decide⟩

theorem wit_PackageAndPower_8 : ∃ (s : State), s.hub.refclk = false ∧ s.hub.tripped = false ∧ s.hub.mainPower = true :=
  ⟨hubbed (fun h => { h with refclk := false, domains := [(.warm, { inReset := true })] }), by decide⟩

theorem wit_PackageAndPower_9 : ∃ (d : Die) (p : Pll) (s : State), (p = .arith d ∨ p = .hbm d) ∧ s.hub.dieResets = [] ∧ s.mem.targets = [] :=
  ⟨1, .hbm 1, base, by decide⟩

theorem wit_PackageAndPower_10 : ∃ (p : Pll) (s : State), (p = .trellis ∨ p = .serdes 0 ∨ p = .serdes 1 ∨ p = .hub) :=
  ⟨.hub, base, by decide⟩

theorem wit_PackageAndPower_11 : ∃ (s : State), s.hub.starting = .full ∧ s.hub.dead = false ∧ s.hub.modReset = false ∧ s.inReset .warm = false :=
  ⟨hubbed (fun h => { h with starting := .full }), by decide⟩

theorem wit_PackageAndPower_12 : ∃ (d : Nat) (ds : List Nat) (f : StartFailures) (s : State), s.hub.starting = .full ∧ s.hub.dead = false ∧ s.hub.modReset = false ∧ s.inReset .warm = false ∧ f.dieFails = d :: ds :=
  ⟨4, [], { dieFails := [4] }, hubbed (fun h => { h with starting := .full }), by decide⟩

theorem wit_PackageAndPower_13 : ∃ (l : TrellisLink) (g : Nat) (n : Nat) (w : Bool) (s : State), n ≤ 16 :=
  ⟨.hubToDie 1, 0, 16, true, base, by decide⟩

theorem wit_PackageAndPower_14 : ∃ (l : TrellisLink) (g : Nat) (n : Nat) (w : Bool) (s : State), 16 < n ∧ (AL.get {} l s.hub.trellis).lost = false ∧ (AL.get {} l s.hub.trellis).half = false ∧ AL.get 0 g (AL.get {} l s.hub.trellis).used < 2 :=
  ⟨.hubToDie 1, 0, 17, true, base, by decide⟩

theorem wit_PackageAndPower_15 : ∃ (a : Die) (b : Die) (s : State), s.hub.dieResets = [] ∧ s.mem.targets = [] ∧ (AL.get {} (.dieToDie a b) s.hub.trellis).lost = false :=
  ⟨1, 2, base, by decide⟩

theorem wit_PackageAndPower_16 : ∃ (d : Die) (l : TrellisLink) (s : State), (l = .dieToLink d ∨ l = .hubToDie d) ∧ s.hub.dieResets = [] ∧ s.mem.targets = [] ∧ (AL.get {} l s.hub.trellis).lost = false :=
  ⟨1, .hubToDie 1, base, by decide⟩

theorem wit_PackageAndPower_17 : ∃ (l : TrellisLink) (s : State), ((∃ k, l = .hubToLink k) ∨ (AL.get {} l s.hub.trellis).lost = true ∨ (∃ x ∈ s.hub.dieResets, s.now < x + 10000000)) :=
  ⟨.hubToLink 0, base, by decide⟩

theorem wit_PackageAndPower_18 : ∃ (w : Word) (s : State), bitOf w.toNat 2 = true ∧ bitOf w.toNat 7 = false ∧ (bitsOf w.toNat 1 0 = 3 ∨ (s.hub.power = .ready ∧ bitsOf w.toNat 1 0 ≠ 0 ∧ s.powerBusy (bitsOf w.toNat 1 0) = true)) :=
  ⟨7, base, by decide⟩

theorem wit_PackageAndPower_19 : ∃ (w : Word) (s : State), bitOf w.toNat 2 = true ∧ s.hub.power = .ready ∧ bitsOf w.toNat 1 0 = 1 ∧ s.powerBusy 1 = false ∧ s.mem.targets = [] :=
  ⟨5, { base with regs := {} }, by decide⟩

theorem wit_PackageAndPower_20 : ∃ (w : Word) (s : State), bitOf w.toNat 2 = false :=
  ⟨1, base, by decide⟩

theorem wit_PackageAndPower_21 : ∃ (s : State), s.hub.power = .entering ∧ s.hub.wakeNext = true ∧ s.hub.goingTo = 1 :=
  ⟨hubbed (fun h => { h with power := .entering, goingTo := 1, wakeNext := true }), by decide⟩

theorem wit_PackageAndPower_22 : ∃ (s : State), s.hub.power = .entering ∧ s.hub.wakeNext = false :=
  ⟨hubbed (fun h => { h with power := .entering, goingTo := 2 }), by decide⟩

theorem wit_PackageAndPower_23 : ∃ (s : State), s.hub.power = .waking ∧ s.hub.starting = .none ∧ s.hub.dead = false ∧ s.inReset .warm = false :=
  ⟨hubbed (fun h => { h with power := .waking }), by decide⟩

theorem wit_PackageAndPower_24 : ∃ (w : Word) (s : State), s.hub.power = .dormant :=
  ⟨0, hubbed (fun h => { h with power := .dormant }), by decide⟩

theorem wit_PackageAndPower_25 : ∃ (w : Word) (s : State), s.hub.power ≠ .dormant ∧ ((bitOf w.toNat 31 = false ∨ bitsOf w.toNat 6 0 = 0)) :=
  ⟨0, base, by decide⟩

theorem wit_PackageAndPower_26 : ∃ (w : Word) (s : State), s.hub.power ≠ .dormant ∧ bitOf w.toNat 31 = true ∧ bitsOf w.toNat 6 0 ≠ 0 ∧ s.anyLoaded = false ∧ s.inClearing = false ∧ s.hub.bist.running = false ∧ s.mss.profile ≠ none ∧ 24 ≤ bitsOf w.toNat 12 8 ∧ bitsOf w.toNat 12 8 ≤ 30 ∧ 700 ≤ bitsOf w.toNat 25 16 ∧ bitsOf w.toNat 25 16 ≤ 800 ∧ bitsOf w.toNat 25 16 % 10 = 0 ∧ s.mss.security = .secure :=
  ⟨0x82EE1C01, { loadable with regs := {} }, by decide⟩

theorem wit_PackageAndPower_27 : ∃ (w : Word) (s : State), s.hub.power ≠ .dormant ∧ bitOf w.toNat 31 = true ∧ bitsOf w.toNat 6 0 ≠ 0 ∧ s.anyLoaded = true ∧ s.mss.profile ≠ none ∧ 24 ≤ bitsOf w.toNat 12 8 ∧ bitsOf w.toNat 12 8 ≤ 30 ∧ 700 ≤ bitsOf w.toNat 25 16 ∧ bitsOf w.toNat 25 16 ≤ 800 ∧ bitsOf w.toNat 25 16 % 10 = 0 :=
  ⟨0x82EE1C01, { withCtx { prog := some prog1 } with mss := loadable.mss }, by decide⟩

theorem wit_PackageAndPower_28 : ∃ (misr : List (BitVec 64)) (s : State), s.hub.bist.running = true ∧ s.hub.bist.done = 0 ∧ s.hub.bist.pass = 0 ∧ s.hub.bist.misr.length = 7 :=
  ⟨[5], hubbed (fun h => { h with bist := { h.bist with running := true, run := (1, 28, 750) } }), by decide⟩

theorem wit_PackageAndPower_29 : ∃ (misr : List (BitVec 64)) (s : State), s.hub.bist.running = false :=
  ⟨[5], base, by decide⟩

theorem wit_ManagementCommands_1 : ∃ (slot : Fin 4) (s : State), s.mssServes = true :=
  ⟨2, base, by decide⟩

theorem wit_ManagementCommands_2 : ∃ (s : State), s.mss.selecting = none :=
  ⟨base, by decide⟩

theorem wit_ManagementCommands_3 : ∃ (s : State), s.mss.selecting.isSome = true ∧ s.anyLoaded = true :=
  ⟨{ withCtx { prog := some prog1 } with mss := { selecting := some 2 } }, by decide⟩

theorem wit_ManagementCommands_4 : ∃ (slot : Fin 4) (s : State), s.mss.selecting = some slot ∧ s.anyLoaded = false ∧ s.mssRuns = true ∧ s.profileValid slot = none ∧ (profileBanks.all (fun b => (s.regs.bank b).pending.isNone)) = true :=
  ⟨2, mssed (fun m => { m with selecting := some 2 }), by decide⟩

theorem wit_ManagementCommands_5 : ∃ (slot : Fin 4) (p : Profile) (s : State), s.mss.selecting = some slot ∧ s.anyLoaded = false ∧ s.mssRuns = true ∧ s.profileValid slot = some p ∧ (profileBanks.all (fun b => (s.regs.bank b).pending.isNone)) = true :=
  ⟨0, plainProfile, { base with mss := { base.mss with selecting := some 0, profiles := [(0, plainProfile)], slotA := ⟨some bun, true⟩ } }, by decide +kernel⟩

theorem wit_ManagementCommands_6 : ∃ (first : Nat) (count : Nat) (s : State), s.mssServes = true :=
  ⟨0, 2, base, by decide⟩

theorem wit_ManagementCommands_7 : ∃ (s : State), s.mssServes = true ∧ s.mss.pufLocked = false :=
  ⟨base, by decide⟩

theorem wit_ManagementCommands_8 : ∃ (s : State), s.mssServes = true :=
  ⟨base, by decide⟩

theorem wit_ManagementCommands_9 : ∃ (d : Die) (ch : Nat) (s : State), s.mssServes = true ∧ ch < 160 ∧ (d.val, ch) ∉ s.mem.fenced ∧ s.logicalFor (d.val, ch) = none ∧ s.inReset .cp = false ∧ s.hub.toMss = [] ∧ s.hub.fromMss = [] ∧ s.hub.postWait = [] ∧ s.regs.mssHeld = [] :=
  ⟨1, 158, base, by decide +kernel⟩

theorem wit_ManagementCommands_10 : ∃ (d : Die) (ch : Nat) (l : Chan) (q : Chan) (s : State), s.mssServes = true ∧ ch < 160 ∧ (d.val, ch) ∉ s.mem.fenced ∧ s.logicalFor (d.val, ch) = some l ∧ s.mem.mapouts = [] ∧ s.replacement l.1 = some q ∧ s.inReset .cp = false ∧ s.hub.toMss = [] ∧ s.hub.fromMss = [] ∧ s.hub.postWait = [] ∧ s.regs.mssHeld = [] :=
  ⟨1, 7, (1, 7), (1, 156), base, by decide +kernel⟩

theorem wit_ManagementCommands_11 : ∃ (d : Die) (ch : Nat) (s : State), s.mssServes = true ∧ ch < 160 ∧ (d.val, ch) ∉ s.mem.fenced ∧ s.logicalFor (d.val, ch) = none ∧ s.inReset .cp = true ∧ s.hub.toMss = [] ∧ s.hub.fromMss = [] ∧ s.hub.postWait = [] ∧ s.regs.mssHeld = [] :=
  ⟨1, 158, { base with hub := { base.hub with domains := [(.cp, { inReset := true })] } }, by decide +kernel⟩

theorem wit_ManagementCommands_12 : ∃ (k : CoreId) (s : State), s.mssServes = true ∧ s.anyLoaded = false ∧ k ∈ s.cores.pruned ∧ (s.core k).passedFull = true ∧ s.mss.pufLocked = false ∧ s.inReset .cp = false ∧ s.hub.toMss = [] ∧ s.hub.fromMss = [] ∧ s.hub.postWait = [] ∧ s.regs.mssHeld = [] :=
  ⟨⟨0, 3⟩, { base with cores := { pruned := [⟨0, 3⟩], tbl := [(⟨0, 3⟩, { passedFull := true })] } }, by decide⟩

theorem wit_ManagementCommands_13 : ∃ (k : CoreId) (s : State), s.mssServes = true ∧ (s.anyLoaded = true ∨ k ∉ s.cores.pruned ∨ (s.core k).passedFull = false ∨ s.mss.pufLocked = true) :=
  ⟨⟨0, 3⟩, base, by decide⟩

theorem wit_ManagementCommands_14 : ∃ (d : Die) (ch : Nat) (s : State), s.mssServes = true ∧ ch < 160 ∧ s.anyLoaded = false ∧ (d.val, ch) ∉ s.mem.margining :=
  ⟨1, 7, base, by decide⟩

theorem wit_ManagementCommands_15 : ∃ (s : State), s.mssServes = true :=
  ⟨base, by decide⟩

theorem wit_ManagementCommands_16 : ∃ (k : Fin 8) (s : State), k ≠ 7 ∧ s.mssRuns = true :=
  ⟨3, base, by decide⟩

theorem wit_ManagementCommands_17 : ∃ (k : DebugToken) (s : State), s.mssServes = true ∧ s.anyLoaded = false ∧ s.inClearing = false ∧ onlyLogClear k = false :=
  ⟨tok, base, by decide⟩

theorem wit_ManagementCommands_18 : ∃ (k : DebugToken) (s : State), s.mssRuns = true ∧ s.anyLoaded = false ∧ s.inClearing = false ∧ onlyLogClear k = false :=
  ⟨tok, base, by decide⟩

theorem wit_ManagementCommands_19 : ∃ (k : DebugToken) (s : State), s.mssServes = true :=
  ⟨tok, base, by decide⟩

theorem wit_ManagementCommands_20 : ∃ (n : Nat) (s : State), s.mssRuns = true :=
  ⟨7, base, by decide⟩

theorem wit_ManagementCommands_21 : ∃ (s : State), s.mssRuns = true :=
  ⟨base, by decide⟩

theorem wit_ManagementCommands_22 : ∃ (s : State), s.mssRuns = true :=
  ⟨base, by decide⟩

theorem wit_ManagementCommands_23 : ∃ (s : State), s.mssServes = true :=
  ⟨base, by decide⟩

theorem wit_ManagementCommands_24 : ∃ (h : Nat) (e : Nat × Sensor) (s : State), s.mssServes = true ∧ h ≤ 158 ∧ sensorIds[if h = 0 then 0 else h - 1]? = some e :=
  ⟨158, (0x1A7, .drops 39), base, by decide⟩

theorem wit_ManagementCommands_25 : ∃ (h : Nat) (s : State), s.mssServes = true ∧ 158 < h :=
  ⟨159, base, by decide⟩

theorem wit_ManagementCommands_26 : ∃ (s : State), s.mssRuns = true :=
  ⟨base, by decide⟩

theorem wit_ManagementCommands_27 : ∃ (s : State), s.mssRuns = true :=
  ⟨base, by decide⟩

theorem wit_ManagementCommands_28 : ∃ (s : State), s.mssRuns = true :=
  ⟨base, by decide⟩

theorem wit_ManagementCommands_29 : ∃ (ty : Nat) (s : State), s.mssServes = true ∧ (ty = 0 ∨ ty = 2 ∨ ty = 5 ∨ ty = 0x3F) :=
  ⟨5, base, by decide⟩

theorem wit_ManagementCommands_30 : ∃ (ty : Nat) (s : State), s.mssRuns = true ∧ ty ≠ 0 ∧ ty ≠ 2 ∧ ty ≠ 5 ∧ ty ≠ 0x3F :=
  ⟨6, base, by decide⟩

theorem wit_ManagementCommands_31 : ∃ (x : Nat × Sensor) (v : Int) (s : State), s.mssServes = true ∧ List.find? (fun (e : Nat × Sensor) => e.1 == x.1) sensorIds = some x ∧ AL.find? x.2 s.mss.sensors = some v :=
  ⟨(1, .junction 0), -4, mssed (fun m => { m with sensors := [(.junction 0, -4)] }), by decide⟩

theorem wit_ManagementCommands_32 : ∃ (id : Nat) (s : State), s.mssServes = true ∧ ((∀ e ∈ sensorIds, e.1 ≠ id)) :=
  ⟨0, base, by decide +kernel⟩

theorem wit_ManagementCommands_33 : ∃ (id : Nat) (s : State), s.mssServes = true :=
  ⟨2, base, by decide⟩

theorem wit_ManagementCommands_34 : ∃ (e : Nat) (n : Nat) (s : State), s.mssServes = true :=
  ⟨2, 3, base, by decide⟩

theorem wit_ManagementCommands_35 : ∃ (a : Nat) (s : State), s.mssServes = true :=
  ⟨2, base, by decide⟩

theorem wit_ManagementCommands_36 : ∃ (s : State), s.mssRuns = true ∧ s.mss.update.state = .idle :=
  ⟨base, by decide⟩

theorem wit_ManagementCommands_37 : ∃ (ids : List Nat) (s : State), s.mssRuns = true ∧ s.mss.update.state = .learn ∧ ((∀ i ∈ ids, i = 1 ∨ (0x10 ≤ i ∧ i ≤ 0x13))) :=
  ⟨[1, 0x12], mssed (fun m => { m with update := { state := .learn } }), by decide⟩

theorem wit_ManagementCommands_38 : ∃ (n : Nat) (s : State), s.mssRuns = true ∧ s.mss.update.state = .ready ∧ 1 ∈ s.mss.update.passed ∧ s.mss.pufLocked = false :=
  ⟨100, mssed (fun m => { m with update := { state := .ready, passed := [1] } }), by decide⟩

theorem wit_ManagementCommands_39 : ∃ (k : Fin 4) (n : Nat) (s : State), s.mssRuns = true ∧ s.mss.update.state = .ready ∧ 0x10 + k.val ∈ s.mss.update.passed ∧ s.profileInUse k = true :=
  ⟨0, 100, mssed (fun m => { m with update := { state := .ready, passed := [16] }, profile := some plainProfile }), by decide⟩

theorem wit_ManagementCommands_40 : ∃ (n : Nat) (s : State), s.mssRuns = true ∧ s.mss.update.state = .download :=
  ⟨5000, mssed (fun m => { m with update := { state := .download, size := 9000 } }), by decide⟩

theorem wit_ManagementCommands_41 : ∃ (s : State), s.mssRuns = true ∧ s.mss.update.state = .download ∧ s.mss.update.size ≤ s.mss.update.got :=
  ⟨mssed (fun m => { m with update := { state := .download } }), by decide⟩

theorem wit_ManagementCommands_42 : ∃ (b : Bundle) (s : State), s.mssRuns = true ∧ s.mss.update.state = .verify ∧ s.mss.update.comp = some .bundle :=
  ⟨bun, mssed (fun m => { m with update := { state := .verify, comp := some .bundle } }), by decide⟩

theorem wit_ManagementCommands_43 : ∃ (k : Fin 4) (p : Profile) (s : State), s.mssRuns = true ∧ s.mss.update.state = .verify ∧ s.mss.update.comp = some (.profile k) :=
  ⟨2, plainProfile, mssed (fun m => { m with update := { state := .verify, comp := some (.profile 2) } }), by decide⟩

theorem wit_ManagementCommands_44 : ∃ (k : Fin 4) (p : Profile) (s : State), s.mssRuns = true ∧ s.mss.update.state = .apply ∧ s.mss.update.comp = some (.profile k) ∧ s.mss.update.staged = some (.profile k p) :=
  ⟨2, plainProfile, mssed (fun m => { m with update := { state := .apply, comp := some (.profile 2), staged := some (.profile 2 plainProfile) } }), by decide⟩

theorem wit_ManagementCommands_45 : ∃ (b : Bundle) (s : State), s.mssRuns = true ∧ s.mss.update.state = .apply ∧ s.mss.update.comp = some .bundle ∧ s.mss.update.staged = some (.bundle b) ∧ s.mss.pufLocked = false :=
  ⟨bun, mssed (fun m => { m with update := { state := .apply, comp := some .bundle, staged := some (.bundle bun) } }), by decide⟩

theorem wit_ManagementCommands_46 : ∃ (s : State), s.mssRuns = true ∧ s.mss.update.state = .ready ∧ s.mss.update.applied ≠ [] ∧ s.inClearing = true :=
  ⟨{ clearing with mss := { update := { state := .ready, applied := [.bundle] } } }, by decide⟩

theorem wit_ManagementCommands_47 : ∃ (s : State), s.mssRuns = true ∧ s.mss.update.state = .ready ∧ .bundle ∈ s.mss.update.applied ∧ s.inClearing = false ∧ s.inactive.valid = true :=
  ⟨mssed (fun m => { m with update := { state := .ready, applied := [.bundle] }, slotB := ⟨some bun, true⟩ }), by decide⟩

theorem wit_ManagementCommands_48 : ∃ (s : State), s.mssRuns = true ∧ s.mss.update.state = .ready ∧ s.mss.update.applied ≠ [] ∧ .bundle ∉ s.mss.update.applied ∧ s.inClearing = false :=
  ⟨mssed (fun m => { m with update := { state := .ready, applied := [.profile 2] } }), by decide⟩

theorem wit_ManagementCommands_49 : ∃ (s : State), s.mssRuns = true ∧ s.mss.update.comp.isSome = true :=
  ⟨mssed (fun m => { m with update := { state := .download, comp := some .bundle } }), by decide⟩

theorem wit_ManagementCommands_50 : ∃ (s : State), s.mssRuns = true ∧ s.mss.update.state ≠ .idle :=
  ⟨mssed (fun m => { m with update := { state := .download } }), by decide⟩

theorem wit_SessionsAndKeys_1 : ∃ (p : SpdmPath) (i : Nat) (slot : Nat) (off : Nat) (len : Nat) (k : Nat) (nonce : Nat) (ok : Bool) (s : State), (s.mssServes = false ∨ s.pathOn p = false) :=
  ⟨.doe .a, 0, 0, 0, 1, 1, 7, true, { base with hub := { base.hub with power := .dormant } }, by decide⟩

theorem wit_SessionsAndKeys_2 : ∃ (p : SpdmPath) (s : State), s.mssServes = true ∧ s.pathOn p = true :=
  ⟨.mctp, base, by decide⟩

theorem wit_SessionsAndKeys_3 : ∃ (p : SpdmPath) (s : State), s.mssServes = true ∧ s.pathOn p = true ∧ (s.conn p).version = true :=
  ⟨.mctp, mssed (fun m => { m with conns := [(.mctp, { version := true })] }), by decide⟩

theorem wit_SessionsAndKeys_4 : ∃ (p : SpdmPath) (s : State), s.mssServes = true ∧ s.pathOn p = true ∧ (s.conn p).version = false :=
  ⟨.mctp, base, by decide⟩

theorem wit_SessionsAndKeys_5 : ∃ (p : SpdmPath) (ok : Bool) (s : State), s.mssServes = true ∧ s.pathOn p = true ∧ (s.conn p).caps = true :=
  ⟨.mctp, true, mssed (fun m => { m with conns := [(.mctp, { version := true, caps := true })] }), by decide⟩

theorem wit_SessionsAndKeys_6 : ∃ (p : SpdmPath) (s : State), s.mssServes = true ∧ s.pathOn p = true ∧ s.agreed p = true :=
  ⟨.mctp, mssed (fun m => { m with conns := [(.mctp, { version := true, caps := true, algs := true })] }), by decide⟩

theorem wit_SessionsAndKeys_7 : ∃ (p : SpdmPath) (off : Nat) (len : Nat) (s : State), s.mssServes = true ∧ s.pathOn p = true ∧ s.agreed p = true :=
  ⟨.mctp, 3, 7, mssed (fun m => { m with conns := [(.mctp, { version := true, caps := true, algs := true })] }), by decide⟩

theorem wit_SessionsAndKeys_8 : ∃ (p : SpdmPath) (slot : Nat) (off : Nat) (len : Nat) (s : State), s.mssServes = true ∧ s.pathOn p = true ∧ slot ≠ 0 :=
  ⟨.mctp, 1, 0, 7, base, by decide⟩

theorem wit_SessionsAndKeys_9 : ∃ (p : SpdmPath) (k : Nat) (s : State), s.mssServes = true ∧ s.pathOn p = true ∧ s.agreed p = true ∧ k ≤ 7 :=
  ⟨.mctp, 2, mssed (fun m => { m with conns := [(.mctp, { version := true, caps := true, algs := true })] }), by decide⟩

theorem wit_SessionsAndKeys_10 : ∃ (p : SpdmPath) (s : State), s.mssServes = true ∧ s.pathOn p = true ∧ s.agreed p = true :=
  ⟨.mctp, mssed (fun m => { m with conns := [(.mctp, { version := true, caps := true, algs := true })] }), by decide⟩

theorem wit_SessionsAndKeys_11 : ∃ (p : SpdmPath) (nonce : Nat) (s : State), s.mssServes = true ∧ s.pathOn p = true ∧ s.agreed p = true ∧ s.mss.security = .secure ∧ s.mss.idKey = true :=
  ⟨.mctp, 77, mssed (fun m => { m with conns := [(.mctp, { version := true, caps := true, algs := true })], idKey := true }), by decide⟩

theorem wit_SessionsAndKeys_12 : ∃ (p : SpdmPath) (slot : Nat) (nonce : Nat) (s : State), s.mssServes = true ∧ s.pathOn p = true ∧ s.mss.security ≠ .secure :=
  ⟨.mctp, 0, 0, mssed (fun m => { m with security := .test }), by decide⟩

theorem wit_SessionsAndKeys_13 : ∃ (p : SpdmPath) (s : State), s.mssServes = true ∧ s.pathOn p = true ∧ s.agreed p = true ∧ s.mss.security = .secure ∧ s.mss.idKey = true ∧ s.mss.sessions = [] :=
  ⟨.mctp, mssed (fun m => { m with conns := [(.mctp, { version := true, caps := true, algs := true })], idKey := true }), by decide⟩

theorem wit_SessionsAndKeys_14 : ∃ (p : SpdmPath) (s : State), s.mssServes = true ∧ s.pathOn p = true ∧ sessionRoom p ≤ s.sessionsOn p :=
  ⟨.mctp, mssed (fun m => { m with sessions := [(0, ⟨.mctp, true, 0⟩), (1, ⟨.mctp, true, 0⟩), (2, ⟨.mctp, true, 0⟩), (3, ⟨.mctp, true, 0⟩)] }), by decide⟩

theorem wit_SessionsAndKeys_15 : ∃ (i : Nat) (x : Session) (ok : Bool) (s : State), s.mssServes = true ∧ s.pathOn (s.sessionPath i) = true ∧ AL.find? i s.mss.sessions = some x ∧ x.finished = false :=
  ⟨0, ⟨.mctp, false, 0⟩, true, mssed (fun m => { m with sessions := [(0, ⟨.mctp, false, 0⟩)] }), by decide⟩

theorem wit_SessionsAndKeys_16 : ∃ (i : Nat) (x : Session) (s : State), s.mssServes = true ∧ s.pathOn (s.sessionPath i) = true ∧ s.session i = some x :=
  ⟨0, ⟨.doe .a, true, 0⟩, mssed (fun m => { m with sessions := [(0, ⟨.doe .a, true, 0⟩)] }), by decide⟩

theorem wit_SessionsAndKeys_17 : ∃ (i : Nat) (p : HostPort) (st : IdeStream) (ks : Nat) (key : Nat) (s : State), s.mssServes = true ∧ s.pathOn (s.sessionPath i) = true ∧ s.ideSession i p = true :=
  ⟨0, .a, .io, 1, 99, mssed (fun m => { m with sessions := [(0, ⟨.doe .a, true, 0⟩)] }), by decide⟩

theorem wit_SessionsAndKeys_18 : ∃ (i : Nat) (p : HostPort) (st : IdeStream) (ks : Nat) (s : State), s.mssServes = true ∧ s.pathOn (s.sessionPath i) = true ∧ s.ideSession i p = true ∧ (AL.find? (p, st, ks) s.mss.ideKeys).isSome = true :=
  ⟨0, .a, .io, 1, mssed (fun m => { m with sessions := [(0, ⟨.doe .a, true, 0⟩)], ideKeys := [((.a, .io, 1), 99)] }), by decide⟩

theorem wit_SessionsAndKeys_19 : ∃ (i : Nat) (p : HostPort) (st : IdeStream) (ks : Nat) (s : State), s.mssServes = true ∧ s.pathOn (s.sessionPath i) = true ∧ s.ideSession i p = true ∧ AL.find? (p, st) s.mss.ideOn = some ks :=
  ⟨0, .a, .io, 1, mssed (fun m => { m with sessions := [(0, ⟨.doe .a, true, 0⟩)], ideOn := [((.a, .io), 1)] }), by decide⟩

theorem wit_SessionsAndKeys_20 : ∃ (i : Nat) (p : HostPort) (st : IdeStream) (ks : Nat) (key : Nat) (s : State), s.mssServes = true ∧ s.pathOn (s.sessionPath i) = true ∧ s.ideSession i p = false :=
  ⟨0, .b, .io, 1, 0, mssed (fun m => { m with sessions := [(0, ⟨.doe .a, true, 0⟩)] }), by decide⟩

theorem wit_RegistersAndBanks_1 : ∃ (p : HostPort) (a : Nat) (v : Word) (i : RegInfo) (s : State), (s.cxlPort p).up = true ∧ (s.cxlPort p).perst = false ∧ s.barServes a = true ∧ offsetOf a < 0x100000 ∧ blockOf a ≠ 10 ∧ regInfo a = some i :=
  ⟨.a, aPwrLimit, 0x12345678, ⟨.pwr, 0, 0xFFFFFF, 1000 + 1000 * 4096⟩, base, by decide⟩

theorem wit_RegistersAndBanks_2 : ∃ (p : HostPort) (a : Nat) (v : Word) (be : Nat) (s : State), (s.cxlPort p).up = true ∧ (s.cxlPort p).perst = false ∧ s.barServes a = true ∧ be < 15 :=
  ⟨.a, aPwrLimit, 1, 7, base, by decide⟩

theorem wit_RegistersAndBanks_3 : ∃ (p : HostPort) (a : Nat) (v : Word) (s : State), 0x100000 ≤ offsetOf a :=
  ⟨.a, 0x1900100, 1, base, by decide⟩

theorem wit_RegistersAndBanks_4 : ∃ (p : HostPort) (a : Nat) (v : Word) (be : Nat) (s : State), ((s.cxlPort p).up = false ∨ (s.cxlPort p).perst = true ∨ s.barServes a = false) :=
  ⟨.b, aPwrLimit, 1, 15, base, by decide⟩

theorem wit_RegistersAndBanks_5 : ∃ (p : HostPort) (b : Bank) (v : Word) (s : State), (s.cxlPort p).up = true ∧ (s.cxlPort p).perst = false ∧ s.barServes (bankBase b) = true ∧ b ∉ [Bank.mssEol, .mssSap] ∧ v.toNat % 4 = 1 :=
  ⟨.a, .pwr, 0x70001, base, by decide⟩

theorem wit_RegistersAndBanks_6 : ∃ (p : HostPort) (b : Bank) (v : Word) (s : State), b ∉ [Bank.mssEol, .mssSap] ∧ v.toNat % 4 = 3 :=
  ⟨.a, .pwr, 0x70003, base, by decide⟩

theorem wit_RegistersAndBanks_7 : ∃ (b : Bank) (tag : Nat) (a : Nat) (v : Word) (s : State), s.hub.power = .dormant :=
  ⟨.rt, 5, aEolPol, 1, { base with hub := { base.hub with power := .dormant } }, by decide⟩

theorem wit_RegistersAndBanks_8 : ∃ (b : Bank) (tag : Nat) (s : State), b ∈ [Bank.mssEol, .mssSap] :=
  ⟨.mssEol, 5, base, by decide⟩

theorem wit_RegistersAndBanks_9 : ∃ (b : Bank) (tag : Nat) (s : State), s.bankReached b = true ∧ ((valueRules b (s.under (s.regs.snapshot b)) (s.regs.known b)).all (fun r => !r.1)) = true ∧ s.unitsOf (s.regs.snapshot b) = [] :=
  ⟨.rt, 5, base, by decide⟩

theorem wit_RegistersAndBanks_10 : ∃ (b : Bank) (tag : Nat) (u : Nat) (s : State), s.bankReached b = true ∧ atOnce b = true ∧ s.bankWaits b = false ∧ s.mss.selecting = none ∧ ((valueRules b (s.under (s.regs.snapshot b)) (s.regs.known b)).all (fun r => !r.1)) = true ∧ s.unitsOf (s.regs.snapshot b) = [u] ∧ ((s.regs.snapshot b).map (fun e => e.1)).Nodup ∧ ((b = .memPol → s.mem.hardFaults = [])) ∧ ((s.stateRules b u (s.under (s.regs.snapshot b))).all (fun r => !r.1)) = true :=
  ⟨.cxlPri, 5, 0, stgd aPriCfg 0x10001, by decide⟩

theorem wit_RegistersAndBanks_11 : ∃ (b : Bank) (tag : Nat) (s : State), s.bankReached b = true ∧ ((valueRules b (s.under (s.regs.snapshot b)) (s.regs.known b)).all (fun r => !r.1)) = true ∧ s.unitsOf (s.regs.snapshot b) ≠ [] ∧ atOnce b = false :=
  ⟨.pwr, 5, stgd aPwrLimit 0x3E87D0, by decide⟩

theorem wit_RegistersAndBanks_12 : ∃ (b : Bank) (tag : Nat) (r : BankRule) (s : State), s.bankReached b = true ∧ (valueRules b (s.under (s.regs.snapshot b)) (s.regs.known b)).find? (fun r => r.1) = some r :=
  ⟨.pwr, 5, (true, [aPwrLimit]), stgd aPwrLimit 0, by decide⟩

theorem wit_RegistersAndBanks_13 : ∃ (b : Bank) (u : Nat) (snap : AL Nat Word) (s : State), s.safePoint b u = true ∧ (s.regs.bank b).pending = some (snap, [u]) ∧ (snap.map (fun e => e.1)).Nodup ∧ ((b = .memPol → s.mem.hardFaults = [])) ∧ ((b = .linkPol → ∀ p : PortId, (s.port p).state < 2 ∨ 4 < (s.port p).state)) ∧ ((s.stateRules b u (s.under snap)).all (fun r => !r.1)) = true :=
  ⟨.pwr, 0, [(aPwrLimit, 0x3E87D0)], pendBank .pwr [(aPwrLimit, 0x3E87D0)] [0] base, by decide⟩

theorem wit_RegistersAndBanks_14 : ∃ (b : Bank) (u : Nat) (snap : AL Nat Word) (us : List Nat) (r : BankRule) (s : State), s.safePoint b u = true ∧ (s.regs.bank b).pending = some (snap, us) ∧ u ∈ us ∧ (s.stateRules b u (s.under snap)).find? (fun r => r.1) = some r :=
  ⟨.cpCtx, 0, [(aCtxCfg 0, 1)], [0], (true, [aCtxCfg 0]), pendBank .cpCtx [(aCtxCfg 0, 1)] [0] base, by decide⟩

theorem wit_RegistersAndBanks_15 : ∃ (b : Bank) (u : Nat) (s : State), (s.safePoint b u = false ∨ (s.regs.bank b).pending = none) :=
  ⟨.pwr, 0, base, by decide⟩

theorem wit_RegistersAndBanks_16 : ∃ (b : Bank) (s : State), s.bankReached b = true :=
  ⟨.mssEol, stgd aEolPol 1, by decide⟩

theorem wit_RegistersAndBanks_17 : ∃ (b : Bank) (s : State), s.bankReached b = true :=
  ⟨.pwr, base, by decide⟩

theorem wit_RegistersAndBanks_18 : ∃ (s : State), s.barServes 0x110 = true :=
  ⟨{ base with hub := { base.hub with timeUs := 5000000000 } }, by decide⟩

theorem wit_RegistersAndBanks_19 : ∃ (w : Word) (s : State), s.hub.power ≠ .dormant ∧ s.mssRuns = true ∧ s.hub.toMss = [] ∧ s.hub.fromMss = [] ∧ s.hub.postWait = [] ∧ s.regs.mssHeld = [] :=
  ⟨6, base, by decide⟩

theorem wit_RegistersAndBanks_20 : ∃ (a : Nat) (v : Word) (s : State), s.hub.power ≠ .dormant ∧ s.mssRuns = false ∧ blockOf a = 10 ∧ offsetOf a < 0x100000 ∧ s.hub.toMss.length < 64 ∧ s.hub.fromMss = [] ∧ s.hub.postWait = [] ∧ s.regs.mssHeld = [] :=
  ⟨aEolPol, 0x101, mssDown id id, by decide⟩

theorem wit_RegistersAndBanks_21 : ∃ (a : Nat) (v : Word) (s : State), s.hub.power ≠ .dormant ∧ s.mssRuns = false ∧ blockOf a = 10 ∧ offsetOf a < 0x100000 ∧ 64 ≤ s.hub.toMss.length ∧ s.hub.fromMss = [] ∧ s.hub.postWait = [] ∧ s.regs.mssHeld.length < 16 :=
  ⟨aEolPol, 0x101, mssDown (fun h => { h with toMss := List.replicate 64 (.plain (.command 0)) }) id, by decide⟩

theorem wit_RegistersAndBanks_22 : ∃ (a : Nat) (v : Word) (s : State), s.hub.power ≠ .dormant ∧ s.mssRuns = false ∧ blockOf a = 10 ∧ offsetOf a < 0x100000 ∧ s.hub.fromMss = [] ∧ s.hub.postWait = [] ∧ s.regs.mssHeld.length = 16 :=
  ⟨aEolPol, 0x101, mssDown (fun h => { h with toMss := List.replicate 64 (.plain (.command 0)) }) (fun r => { r with mssHeld := List.replicate 16 (aEolPol, 0) }), by decide⟩

theorem wit_RegistersAndBanks_23 : ∃ (a : Nat) (v : Word) (i : RegInfo) (s : State), s.hub.power ≠ .dormant ∧ s.mssRuns = true ∧ blockOf a = 10 ∧ offsetOf a < 0x100000 ∧ regInfo a = some i ∧ s.hub.toMss = [] ∧ s.hub.fromMss = [] ∧ s.hub.postWait = [] ∧ s.regs.mssHeld = [] :=
  ⟨aEolPol, 0x101, ⟨.mssEol, 0, 0x1FFFF, 30 + 14 * 256 + 65536⟩, base, by decide⟩

theorem wit_RoutingRewritesStay_1 : ∃ (c : CtxId) (issuer : ModNo) (ident : ModNo) (spare : ModNo) (gw : List (Nat × Nat)) (k : Nat) (s : State), s.tableOf c = some k ∧ ((s.regs.bank .rt).pending.all (fun e => decide ((e.1.map (fun x => x.1)).Nodup))) = true :=
  ⟨0, 1, 40, 2, [], 1, { base with regs := { active := base.regs.active ++ [(aPlanSelf, 3), (aRtTable 1, 0x10005), (aRtEntry 1 1, 64), (aRtEntry 1 40, 64)], staged := [(aRtEntry 1 40, 66)], banks := [(.rt, { state := 1, pending := some ([(aRtEntry 1 40, 65), (aRtEntry 1 2, 0)], [0]) })] }, link := nearSpare, grove := { spare := false } }, by decide⟩

theorem wit_RoutingRewritesStay_2 : ∃ (c : CtxId) (issuer : ModNo) (ident : ModNo) (spare : ModNo) (gw : List (Nat × Nat)) (k : Nat) (q : PortId) (s : State), s.tableOf c = some k ∧ s.fromSteward c issuer.val none = true ∧ spare.val ≠ s.phys ∧ s.portTo spare.val = some q ∧ ((s.regs.bank .rt).pending.all (fun e => decide ((e.1.map (fun x => x.1)).Nodup))) = true :=
  ⟨0, 1, 40, 2, [], 1, 3, { base with regs := { active := base.regs.active ++ [(aPlanSelf, 3), (aRtTable 1, 0x10005), (aRtEntry 1 1, 64), (aRtEntry 1 40, 64)], staged := [(aRtEntry 1 40, 66)], banks := [(.rt, { state := 1, pending := some ([(aRtEntry 1 40, 65), (aRtEntry 1 2, 0)], [0]) })] }, link := nearSpare, grove := { spare := false } }, by decide⟩

theorem wit_SoundKept_1 : ∃ (s : State), s.Sound :=
  ⟨base, (show _ ∧ _ from ⟨rfl, rfl⟩)⟩

theorem wit_SumsAreFreeOfOrder_1 : ∃ (xs ys : List Int), xs.Perm ys ∧ (∀ x ∈ xs, x = fxrMarker ∨ x.natAbs * xs.length < 2 ^ 63) :=
  ⟨[1, 2], [2, 1], List.Perm.swap 2 1 [], by decide⟩

end Sys2Proof.Tests
end

section
/-! SUPPORT. What the commit of a bank and its safe points do to the state (R452–R458), what a register write does through BAR0 and
through the mailbox of the MSS, and which step follows a committed version; with them the statements O49 and O56. -/

namespace Sys2Proof.Machine

/-! ## Association lists -/

section
variable {α β : Type} [DecidableEq α]

/-- A key that is not listed reads the default. -/
theorem AL_get_of_not_mem (d : β) {k : α} {l : AL α β} (h : k ∉ l.map (fun e => e.1)) : AL.get d k l = d := by
  induction l with
  | nil => rfl
  | cons e l ih =>
    simp only [List.map_cons, List.mem_cons, not_or] at h
    simp [AL.get, Ne.symm h.1, ih h.2]

/-- After the entries of a list have been set one by one, a key reads its entry of the list, else what it read before. -/
theorem AL_get_foldl_set (d : β) (k : α) {l : AL α β} (h : (l.map (fun e => e.1)).Nodup) (m : AL α β) :
    AL.get d k (l.foldl (fun (m : AL α β) (e : α × β) => AL.set e.1 e.2 m) m) = AL.get (AL.get d k m) k l := by
  induction l generalizing m with
  | nil => rfl
  | cons e l ih =>
    obtain ⟨k', v⟩ := e
    simp only [List.map_cons, List.nodup_cons] at h
    obtain ⟨hk, hl⟩ := h
    rw [List.foldl_cons, ih hl]
    by_cases same : k' = k
    · subst same
      simp [AL.get, AL_get_of_not_mem _ hk]
    · simp [AL.get, same]

/-- Among the entries whose keys are chosen, a chosen key reads what it read, another the default. -/
theorem AL_get_filter (d : β) (k : α) (q : α → Bool) (l : AL α β) :
    AL.get d k (l.filter (fun e => q e.1)) = if q k then AL.get d k l else d := by
  induction l with
  | nil => simp [AL.get]
  | cons e l ih =>
    obtain ⟨k', v⟩ := e
    by_cases same : k' = k
    · subst same
      by_cases hq : q k' <;> simp_all [AL.get]
    · by_cases hq : q k' <;> simp [AL.get, hq, same, ih]

end

/-! ## Frames -/

/-- A frame without the registers keeps them. -/
theorem regs_of_changes {ps : List Part} {s t : State} (h : OnlyChanges ps s t) (hp : Part.regs ∉ ps) : t.regs = s.regs :=
  h .regs hp

/-- A frame without the contexts keeps each. -/
theorem ctx_of_changes {ps : List Part} {s t : State} (h : OnlyChanges ps s t) (hp : Part.ctxs ∉ ps) (c : CtxId) :
    t.ctx c = s.ctx c :=
  congrArg (AL.get ({} : Ctx) c) (h .ctxs hp)

/-- A change of the registers alone. -/
theorem setRegs_changes (s : State) (r : Regs) : OnlyChanges [.regs] s { s with regs := r } := by
  intro p hp
  cases p with
  | regs => simp at hp
  | _ => rfl

/-- A change of the hub alone. -/
theorem setHub_changes (s : State) (h : Hub) : OnlyChanges [.hub] s { s with hub := h } := by
  intro p hp
  cases p with
  | hub => simp at hp
  | _ => rfl

/-- A change of the memory alone. -/
theorem setMem_changes (s : State) (m : Mem) : OnlyChanges [.mem] s { s with mem := m } := by
  intro p hp
  cases p with
  | mem => simp at hp
  | _ => rfl

/-- A change of the MSS alone. -/
theorem setMss_changes (s : State) (m : Mss) : OnlyChanges [.mss] s { s with mss := m } := by
  intro p hp
  cases p with
  | mss => simp at hp
  | _ => rfl

/-! ## The registers after a bank's control has changed -/

@[simp] theorem Regs.bank_updBank_same (r : Regs) (b : Bank) (f : BankCtl → BankCtl) : (r.updBank b f).bank b = f (r.bank b) := by
  simp [Regs.bank, Regs.updBank]
@[simp] theorem Regs.bank_updBank_other (r : Regs) {b d : Bank} (h : b ≠ d) (f : BankCtl → BankCtl) :
    (r.updBank b f).bank d = r.bank d := by
  simp [Regs.bank, Regs.updBank, h]
@[simp] theorem Regs.updBank_active (r : Regs) (b : Bank) (f : BankCtl → BankCtl) : (r.updBank b f).active = r.active := rfl
@[simp] theorem Regs.updBank_staged (r : Regs) (b : Bank) (f : BankCtl → BankCtl) : (r.updBank b f).staged = r.staged := rfl

/-! ## A unit of a pending commit -/

/-- The registers in which a unit's registers have the values of a snapshot. -/
def Regs.takeUnit (r : Regs) (u : Nat) (snap : AL Nat Word) : Regs :=
  { r with
    active := (snap.filter (fun e => decide ((regInfo e.1).map (·.unit) = some u))).foldl
      (fun (m : AL Nat Word) (e : Nat × Word) => AL.set e.1 e.2 m) r.active }

/-- The control of a bank whose pending snapshot has the units `left` still to apply: with none left the commit is complete. -/
def BankCtl.await (k : BankCtl) (snap : AL Nat Word) (left : List Nat) : BankCtl :=
  if left.isEmpty then { k with state := 2, pending := none } else { k with pending := some (snap, left) }

/-- The state in which the values of a unit have become active and the unit has left the pending commit, before what they do
beyond their value (R453 step 3). -/
def State.takeUnit (s : State) (b : Bank) (u : Nat) (snap : AL Nat Word) (units : List Nat) : State :=
  let t := { s with regs := (s.regs.takeUnit u snap).updBank b (fun k => k.await snap (units.filter (fun w => w != u))) }
  if b = .ring then t.homeRing u else t

theorem applyUnit_of_none {s : State} {b : Bank} (u : Nat) (h : (s.regs.bank b).pending = none) : s.applyUnit b u = s := by
  simp [State.applyUnit, h]

theorem applyUnit_of_refused {s : State} {b : Bank} {u : Nat} {snap : AL Nat Word} {us : List Nat} {r : BankRule}
    (h : (s.regs.bank b).pending = some (snap, us)) (hu : u ∈ us)
    (hr : (s.stateRules b u (s.under snap)).find? (fun r => r.1) = some r) : s.applyUnit b u = s.refuseBank b snap r := by
  simp [State.applyUnit, h, hu, hr]

theorem applyUnit_of_passed {s : State} {b : Bank} {u : Nat} {snap : AL Nat Word} {us : List Nat}
    (h : (s.regs.bank b).pending = some (snap, us)) (hu : u ∈ us)
    (hr : (s.stateRules b u (s.under snap)).find? (fun r => r.1) = none) :
    s.applyUnit b u = s.applied (s.takeUnit b u snap us) b := by
  simp [State.applyUnit, h, hu, hr, State.takeUnit, Regs.takeUnit, State.updBank, BankCtl.await]

/-- A unit's turn leaves the state as it is, refuses the commit, or applies the unit (R453 step 3). -/
theorem applyUnit_cases (s : State) (b : Bank) (u : Nat) :
    s.applyUnit b u = s ∨ (∃ snap r, s.applyUnit b u = s.refuseBank b snap r) ∨
      ∃ snap us, s.applyUnit b u = s.applied (s.takeUnit b u snap us) b := by
  cases h : (s.regs.bank b).pending with
  | none => exact .inl (applyUnit_of_none u h)
  | some e =>
    obtain ⟨snap, us⟩ := e
    by_cases hu : u ∈ us
    · cases hr : (s.stateRules b u (s.under snap)).find? (fun r => r.1) with
      | some r => exact .inr (.inl ⟨snap, r, applyUnit_of_refused h hu hr⟩)
      | none => exact .inr (.inr ⟨snap, us, applyUnit_of_passed h hu hr⟩)
    · exact .inl (by simp [State.applyUnit, h, hu])

theorem updBank_changes (s : State) (b : Bank) (f : BankCtl → BankCtl) : OnlyChanges [.regs] s (s.updBank b f) :=
  setRegs_changes s _

theorem homeRing_changes (s : State) (u : Nat) : OnlyChanges [.rings] s (s.homeRing u) := updRing_changes s _ _

theorem refuseBank_changes (s : State) (b : Bank) (snap : AL Nat Word) (r : BankRule) :
    OnlyChanges [.regs, .rings, .cxl, .mss, .hub] s (s.refuseBank b snap r) :=
  onlyChanges_trans (onlyChanges_mono (updBank_changes s b _) (by simp)) (onlyChanges_mono (event_changes _ _ _ _) (by simp))

theorem takeUnit_changes (s : State) (b : Bank) (u : Nat) (snap : AL Nat Word) (us : List Nat) :
    OnlyChanges (if b = .ring then [.regs, .rings] else [.regs]) s (s.takeUnit b u snap us) := by
  unfold State.takeUnit
  dsimp only
  split
  · exact onlyChanges_then (onlyChanges_mono (setRegs_changes s _) (by simp)) (homeRing_changes _ u) (by simp)
  · exact setRegs_changes s _

/-- Most banks only take their values. -/
theorem applied_plain (s t : State) {b : Bank} (h : b ∉ [Bank.memPart, .memPol, .linkPlan, .linkPol]) : s.applied t b = t := by
  cases b with
  | memPart | memPol | linkPlan | linkPol => simp at h
  | _ => rfl

/-- The safe point of a bank whose values do nothing beyond their value leaves the contexts as they are. -/
theorem reachPoint_ctx (s : State) {b : Bank} (h : b ∉ [Bank.memPart, .memPol, .linkPlan, .linkPol]) (u : Nat) (c : CtxId) :
    (s.reachPoint b u).ctx c = s.ctx c := by
  unfold State.reachPoint
  split
  · obtain e | ⟨snap, r, e⟩ | ⟨snap, us, e⟩ := applyUnit_cases s b u <;> rw [e]
    · exact ctx_of_changes (refuseBank_changes s b snap r) (by simp) c
    · rw [applied_plain _ _ h]
      exact ctx_of_changes (takeUnit_changes s b u snap us) (by split <;> simp) c
  · rfl

/-! ## Refusal -/

/-- A refused commit: the bank is at STATE 3 with the offset charged, and nothing of it is pending (R453). -/
theorem refuseBank_regs (s : State) (b : Bank) (snap : AL Nat Word) (r : BankRule) :
    (s.refuseBank b snap r).regs =
      s.regs.updBank b (fun k => { k with state := 3, fault := chargedOffset (s.changedBy snap) r, pending := none }) :=
  regs_of_changes (event_changes _ _ _ _) (by simp)

/-! ## What applying a bank does beyond its values -/

/-- The parts that a safe point of a bank can change beside the registers (R172, R334, R377). -/
def safePointParts : Bank → List Part
  | .memPart => [.mem, .rings, .cxl, .mss, .hub]
  | .linkPlan => [.hub, .link, .out]
  | .ring => [.rings]
  | _ => []

theorem regs_not_mem_safePointParts (b : Bank) : Part.regs ∉ safePointParts b := by
  cases b <;> decide

theorem resizeMap_changes (s : State) (d old new : Nat) : OnlyChanges [.mem] s (s.resizeMap d old new) := by
  unfold State.resizeMap
  split
  · exact setMem_changes s _
  · refine onlyChanges_foldl (fun t i => ?_) _ s
    dsimp only
    split
    · exact setMem_changes t _
    · exact onlyChanges_refl _ t

theorem reserveLow_changes (old s : State) : OnlyChanges [.rings, .cxl, .mss, .hub] s (old.reserveLow s) := by
  unfold State.reserveLow
  dsimp only
  split
  · exact modEvent_changes s _
  · exact onlyChanges_refl _ s

/-- Reset of a port's domain clears the port (R264, R265). -/
theorem enterReset_port_changes (s : State) (q : PortId) : OnlyChanges [.hub, .link] s (s.enterReset (.port q)) := by
  unfold State.enterReset
  split
  · exact onlyChanges_mono (updDom_changes s _ _) (by simp)
  · exact onlyChanges_then (onlyChanges_mono (updDom_changes s _ _) (by simp)) (updPort_changes _ q PortSt.cleared) (by simp)

theorem replan_changes (s : State) (q : PortId) : OnlyChanges [.hub, .link, .out] s (s.replan q) := by
  unfold State.replan
  dsimp only
  refine onlyChanges_then (onlyChanges_then ?_ (updPort_changes _ q _) (by simp)) (enterReset_port_changes _ q) (by simp)
  split
  · exact onlyChanges_mono (moveTraffic_changes s q) (by simp)
  · exact onlyChanges_refl _ s

theorem beaconAll_changes (s : State) : OnlyChanges [.link, .out] s s.beaconAll :=
  onlyChanges_foldl sendBeacon_changes _ s

/-- No hard fault is noted and no port compares beacons where the bank at hand would look at them (R188, R335). -/
def State.calmFor (s : State) (b : Bank) : Prop :=
  (b = .memPol → s.mem.hardFaults = []) ∧ (b = .linkPol → ∀ p : PortId, (s.port p).state < 2 ∨ 4 < (s.port p).state)

theorem applied_memPart_changes (s t : State) : OnlyChanges (safePointParts .memPart) t (s.applied t .memPart) := by
  refine onlyChanges_then (onlyChanges_foldl (fun u d => ?_) _ t) (reserveLow_changes _ _) (by simp [safePointParts])
  split
  · exact onlyChanges_refl _ u
  · exact onlyChanges_mono (resizeMap_changes u _ _ _) (by simp [safePointParts])

theorem applied_linkPlan_changes (s t : State) : OnlyChanges (safePointParts .linkPlan) t (s.applied t .linkPlan) := by
  have plan := onlyChanges_foldl replan_changes (allPorts.filter (fun p => t.reg (aPlanPort p.val) != s.reg (aPlanPort p.val))) t
  unfold State.applied
  dsimp only
  split
  · exact plan
  · exact onlyChanges_then plan (beaconAll_changes _) (by simp [safePointParts])

/-- What applying does beyond the values stays in the bank's parts, where no map-out and no beacon comparison is due. -/
theorem applied_changes (s t : State) {b : Bank} (h : t.calmFor b) : OnlyChanges (safePointParts b) t (s.applied t b) := by
  obtain ⟨hmem, hlink⟩ := h
  cases b
  case memPart => exact applied_memPart_changes s t
  case linkPlan => exact applied_linkPlan_changes s t
  case memPol => simp [State.applied, hmem, onlyChanges_refl]
  case linkPol =>
    have none : allPorts.filter (fun p => decide (2 ≤ (t.port p).state) && decide ((t.port p).state ≤ 4)) = [] := by
      refine List.filter_eq_nil_iff.mpr fun p _ => ?_
      have := hlink rfl p
      simp only [Bool.and_eq_true, decide_eq_true_eq]
      omega
    simp [State.applied, none, onlyChanges_refl]
  all_goals exact onlyChanges_refl _ t

/-! ## A unit takes its values -/

/-- The control of a bank does not depend on the active values. -/
theorem Regs.bank_takeUnit (r : Regs) (u : Nat) (snap : AL Nat Word) (b : Bank) : (r.takeUnit u snap).bank b = r.bank b := rfl

theorem takeUnit_regs (s : State) (b : Bank) (u : Nat) (snap : AL Nat Word) (us : List Nat) :
    (s.takeUnit b u snap us).regs =
      (s.regs.takeUnit u snap).updBank b (fun k => k.await snap (us.filter (fun w => w != u))) := by
  unfold State.takeUnit
  dsimp only
  split <;> rfl

/-- A unit's registers take their values of the snapshot in one step; those of other units keep theirs (R453 step 3). -/
theorem takeUnit_val (s : State) (b : Bank) (u : Nat) {snap : AL Nat Word} (us : List Nat)
    (h : (snap.map (fun e => e.1)).Nodup) (a : Nat) :
    (s.takeUnit b u snap us).regs.val a =
      if (regInfo a).map (·.unit) = some u then AL.get (s.regs.val a) a snap else s.regs.val a := by
  have hf : ((snap.filter (fun e => decide ((regInfo e.1).map (·.unit) = some u))).map (fun e => e.1)).Nodup :=
    h.sublist (List.filter_sublist.map _)
  rw [Regs.val, takeUnit_regs, Regs.updBank_active, Regs.takeUnit, AL_get_foldl_set _ _ hf,
    AL_get_filter _ a (fun k => decide ((regInfo k).map (·.unit) = some u)) snap]
  simp [Regs.val]

theorem takeUnit_staged (s : State) (b : Bank) (u : Nat) (snap : AL Nat Word) (us : List Nat) :
    (s.takeUnit b u snap us).regs.staged = s.regs.staged := by
  rw [takeUnit_regs, Regs.updBank_staged, Regs.takeUnit]

theorem takeUnit_bank_other (s : State) {b d : Bank} (h : d ≠ b) (u : Nat) (snap : AL Nat Word) (us : List Nat) :
    (s.takeUnit b u snap us).regs.bank d = s.regs.bank d := by
  rw [takeUnit_regs, Regs.bank_updBank_other _ (Ne.symm h), Regs.bank_takeUnit]

/-- With its last unit a commit is complete: STATE 2, nothing pending (R453 step 3). -/
theorem takeUnit_last (s : State) (b : Bank) (u : Nat) (snap : AL Nat Word) :
    (s.takeUnit b u snap [u]).regs.bank b = { s.regs.bank b with state := 2, pending := none } := by
  simp [takeUnit_regs, Regs.bank_takeUnit, BankCtl.await]

theorem takeUnit_calm {s : State} {b : Bank} (h : s.calmFor b) (u : Nat) (snap : AL Nat Word) (us : List Nat) :
    (s.takeUnit b u snap us).calmFor b := by
  have frame := takeUnit_changes s b u snap us
  obtain ⟨hmem, hlink⟩ := h
  refine ⟨fun e => ?_, fun e p => ?_⟩
  · rw [frame .mem (by subst e; decide)]
    exact hmem e
  · have same : (s.takeUnit b u snap us).link = s.link := frame .link (by subst e; decide)
    rw [State.port, same]
    exact hlink e p

/-- The last unit of a pending commit applies: the registers are those of `takeUnit`, and beside them only the bank's parts
change. -/
theorem applyUnit_last {s : State} {b : Bank} {u : Nat} {snap : AL Nat Word} (hp : (s.regs.bank b).pending = some (snap, [u]))
    (hc : s.calmFor b) (hr : (s.stateRules b u (s.under snap)).find? (fun r => r.1) = none) :
    (s.applyUnit b u).regs = (s.takeUnit b u snap [u]).regs ∧ OnlyChanges (.regs :: safePointParts b) s (s.applyUnit b u) := by
  rw [applyUnit_of_passed hp (by simp) hr]
  have frame := applied_changes s _ (takeUnit_calm hc u snap [u])
  refine ⟨regs_of_changes frame (regs_not_mem_safePointParts b), ?_⟩
  refine onlyChanges_then (onlyChanges_mono (takeUnit_changes s b u snap [u]) ?_) frame (fun _ hq => List.mem_cons_of_mem _ hq)
  split
  next h => subst h; decide
  next => simp

/-- Rules of which none fails. -/
theorem find?_eq_none_of_all_pass {rules : List BankRule} (h : (rules.all (fun r => !r.1)) = true) :
    rules.find? (fun r => r.1) = none := by
  simpa using h

/-! ## Commits -/

/-- The control of a bank at GO (R453, R454): the tag, a snapshot it replaces noted, nothing pending yet. -/
def BankCtl.go (k : BankCtl) (tag : Nat) (sel : Bool) : BankCtl :=
  { k with tag := tag % 65536, superseded := k.superseded || k.pending.isSome, pending := none, afterSel := sel }

/-- The state in which GO has been noted, before the rules on values. -/
def State.beginCommit (s : State) (b : Bank) (tag : Nat) : State := s.updBank b (fun k => k.go tag s.mss.selecting.isSome)

@[simp] theorem State.beginCommit_regs (s : State) (b : Bank) (tag : Nat) :
    (s.beginCommit b tag).regs = s.regs.updBank b (fun k => k.go tag s.mss.selecting.isSome) := rfl
@[simp] theorem State.beginCommit_changedBy (s : State) (b : Bank) (tag : Nat) (snap : AL Nat Word) :
    (s.beginCommit b tag).changedBy snap = s.changedBy snap := rfl

/-- The control of a bank whose snapshot has passed the rules on values (R453 step 4): with no unit changed it has applied,
else it is pending. -/
def BankCtl.place (k : BankCtl) (snap : AL Nat Word) (units : List Nat) : BankCtl :=
  if units.isEmpty then { k with state := 2 } else { k with state := 1, pending := some (snap, units) }

/-- The state in which a commit has passed the rules on values, before a unit that needs no safe point applies. -/
def State.placeCommit (s : State) (b : Bank) (tag : Nat) : State :=
  let snap := s.regs.snapshot b
  let units := s.unitsOf snap
  let t := (s.beginCommit b tag).updBank b (fun k => k.place snap units)
  if b = .ring then ((List.range 119).filter (fun u => !units.contains u)).foldl State.homeRing t else t

theorem commitGo_of_refused {s : State} {b : Bank} {r : BankRule} (tag : Nat)
    (h : (valueRules b (s.under (s.regs.snapshot b)) (s.regs.known b)).find? (fun r => r.1) = some r) :
    s.commitGo b tag = (s.beginCommit b tag).refuseBank b (s.regs.snapshot b) r := by
  have h' : (valueRules b ((s.beginCommit b tag).under (s.regs.snapshot b)) ((s.beginCommit b tag).regs.known b)).find?
      (fun r => r.1) = some r := h
  unfold State.commitGo
  dsimp only
  split
  next r' hr' => cases h'.symm.trans hr'; rfl
  next hn => cases h'.symm.trans hn

/-- A commit that passes the rules on values: the units of a bank that applies at once follow in order (R453, R456). -/
theorem commitGo_of_passed {s : State} {b : Bank} (tag : Nat)
    (h : (valueRules b (s.under (s.regs.snapshot b)) (s.regs.known b)).find? (fun r => r.1) = none) :
    s.commitGo b tag =
      if atOnce b && !(s.placeCommit b tag).bankWaits b && !(s.placeCommit b tag).behindProfile b then
        (s.unitsOf (s.regs.snapshot b)).foldl (fun (s : State) u => s.applyUnit b u) (s.placeCommit b tag)
      else s.placeCommit b tag := by
  have h' : (valueRules b ((s.beginCommit b tag).under (s.regs.snapshot b)) ((s.beginCommit b tag).regs.known b)).find?
      (fun r => r.1) = none := h
  unfold State.commitGo
  dsimp only
  split
  next r' hr' => cases h'.symm.trans hr'
  next => rfl

theorem placeCommit_regs (s : State) (b : Bank) (tag : Nat) : (s.placeCommit b tag).regs =
    (s.regs.updBank b (fun k => k.go tag s.mss.selecting.isSome)).updBank b
      (fun k => k.place (s.regs.snapshot b) (s.unitsOf (s.regs.snapshot b))) := by
  unfold State.placeCommit
  dsimp only
  split
  · exact regs_of_changes (onlyChanges_foldl homeRing_changes _ _) (by simp)
  · rfl

theorem placeCommit_bank (s : State) (b : Bank) (tag : Nat) : (s.placeCommit b tag).regs.bank b =
    ((s.regs.bank b).go tag s.mss.selecting.isSome).place (s.regs.snapshot b) (s.unitsOf (s.regs.snapshot b)) := by
  simp [placeCommit_regs]

theorem placeCommit_bank_other (s : State) {b d : Bank} (h : d ≠ b) (tag : Nat) :
    (s.placeCommit b tag).regs.bank d = s.regs.bank d := by
  simp [placeCommit_regs, Ne.symm h]

theorem placeCommit_active (s : State) (b : Bank) (tag : Nat) : (s.placeCommit b tag).regs.active = s.regs.active := by
  simp [placeCommit_regs]

theorem placeCommit_staged (s : State) (b : Bank) (tag : Nat) : (s.placeCommit b tag).regs.staged = s.regs.staged := by
  simp [placeCommit_regs]

theorem placeCommit_changes (s : State) (b : Bank) (tag : Nat) :
    OnlyChanges (if b = .ring then [.regs, .rings] else [.regs]) s (s.placeCommit b tag) := by
  have two (f g : BankCtl → BankCtl) : OnlyChanges [.regs] s ((s.updBank b f).updBank b g) :=
    onlyChanges_trans (updBank_changes s b f) (updBank_changes _ b g)
  unfold State.placeCommit
  dsimp only
  split
  · exact onlyChanges_then (onlyChanges_mono (two _ _) (by simp)) (onlyChanges_foldl homeRing_changes _ _) (by simp)
  · exact two _ _

/-- A commit that no unit follows at once: no unit changes, or the bank's units have safe points. -/
theorem commitGo_eq_placeCommit {s : State} {b : Bank} (tag : Nat)
    (h : (valueRules b (s.under (s.regs.snapshot b)) (s.regs.known b)).find? (fun r => r.1) = none)
    (hu : s.unitsOf (s.regs.snapshot b) = [] ∨ atOnce b = false) : s.commitGo b tag = s.placeCommit b tag := by
  rw [commitGo_of_passed tag h]
  obtain hu | hu := hu
  · rw [hu]; exact ite_self _
  · rw [hu]; rfl

theorem atOnce_iff {b : Bank} : atOnce b = true ↔ b = .cxlPri ∨ b = .memPol ∨ b = .linkPlan := by
  cases b <;> decide

/-- A bank that applies at once has no rule on the module's state (R456). -/
theorem stateRules_of_atOnce {b : Bank} (h : atOnce b = true) (s : State) (u : Nat) (v : Nat → Nat) : s.stateRules b u v = [] := by
  obtain rfl | rfl | rfl := atOnce_iff.mp h <;> rfl

/-- The commit of a bank that applies at once and changes one unit: the unit applies with GO. -/
theorem commitGo_atOnce {s : State} {b : Bank} {u : Nat} (tag : Nat) (ha : atOnce b = true) (hw : s.bankWaits b = false)
    (hs : s.mss.selecting = none)
    (h : (valueRules b (s.under (s.regs.snapshot b)) (s.regs.known b)).find? (fun r => r.1) = none)
    (hu : s.unitsOf (s.regs.snapshot b) = [u]) : s.commitGo b tag = (s.placeCommit b tag).applyUnit b u := by
  have ring : b ≠ .ring := by rintro rfl; cases ha
  have frame := placeCommit_changes s b tag
  rw [if_neg ring] at frame
  have waits : (s.placeCommit b tag).bankWaits b = false := by
    have hub : (s.placeCommit b tag).hub = s.hub := frame .hub (by simp)
    simpa [State.bankWaits, State.inReset, State.dom, hub] using hw
  have front : (s.placeCommit b tag).behindProfile b = false := by
    have mss : (s.placeCommit b tag).mss = s.mss := frame .mss (by simp)
    simp [State.behindProfile, mss, hs]
  simp [commitGo_of_passed tag h, ha, waits, front, hu]

/-! ## The mailbox of the MSS -/

/-- The MSS runs or not by the state of the hub. -/
theorem mssRuns_of_hub {s t : State} (h : t.hub = s.hub) : t.mssRuns = s.mssRuns := by
  simp [State.mssRuns, State.inReset, State.dom, h]

/-- A running MSS takes a log entry at once (R22, R392). -/
theorem addLog_hub_of_mssRuns {s : State} (h : s.mssRuns = true) (src : LogSource) (sev : Severity) (st : Status)
    (detail : List Nat) (sig : Option Signature) : (s.addLog src sev st detail sig).hub = s.hub := by
  simp only [State.mssRuns, Bool.and_eq_true, Bool.not_eq_true'] at h
  obtain ⟨reset, lost⟩ := h
  simp [State.addLog, reset, lost, State.takeLog]

/-- An event leaves the hub as it is while the MSS runs. -/
theorem event_hub_of_mssRuns {s : State} (h : s.mssRuns = true) (i : SetId) (st : Status) (p : Payload) :
    (s.event i st p).hub = s.hub := by
  have queued (e : Event) : (s.queueEvent i e).hub = s.hub := queueEvent_changes s i e .hub (by simp)
  unfold State.event State.eventFull
  dsimp only
  rw [addLog_hub_of_mssRuns, queued]
  rw [mssRuns_of_hub (queued _), h]

theorem refuseBank_hub_of_mssRuns {s : State} (h : s.mssRuns = true) (b : Bank) (snap : AL Nat Word) (r : BankRule) :
    (s.refuseBank b snap r).hub = s.hub :=
  event_hub_of_mssRuns (s := s.updBank b _) h _ _ _

/-- A commit of a bank of the MSS leaves the hub as it is. -/
theorem commitGo_hub {s : State} {b : Bank} (hb : b ∈ [Bank.mssEol, .mssSap]) (h : s.mssRuns = true) (tag : Nat) :
    (s.commitGo b tag).hub = s.hub := by
  cases hr : (valueRules b (s.under (s.regs.snapshot b)) (s.regs.known b)).find? (fun r => r.1) with
  | some r =>
    rw [commitGo_of_refused tag hr]
    exact refuseBank_hub_of_mssRuns (s := s.beginCommit b tag) h b _ r
  | none =>
    have slow : atOnce b = false := by
      simp only [List.mem_cons, List.not_mem_nil, or_false] at hb
      obtain rfl | rfl := hb <;> rfl
    rw [commitGo_eq_placeCommit tag hr (.inr slow)]
    exact placeCommit_changes s b tag .hub (by split <;> simp)

theorem discardStaged_changes (s : State) (b : Bank) : OnlyChanges [.regs] s (s.discardStaged b) :=
  setRegs_changes s _

/-- A write of a control register of a bank of the MSS leaves the hub as it is. -/
theorem bankWrite_hub {s : State} {b : Bank} (hb : b ∈ [Bank.mssEol, .mssSap]) (h : s.mssRuns = true) (o v : Nat) :
    (s.bankWrite b o v).hub = s.hub := by
  unfold State.bankWrite
  split
  · split
    · exact commitGo_hub hb h _
    · split <;> rfl
  · split <;> rfl

/-- No message and no write waits between the hub and the MSS (R22, R458). -/
structure State.MailClear (s : State) : Prop where
  toMss : s.hub.toMss = []
  fromMss : s.hub.fromMss = []
  postWait : s.hub.postWait = []
  held : s.regs.mssHeld = []

/-- The half of a delivery that goes to the MSS. -/
def State.deliverToMss (s : State) : State :=
  if s.mssRuns then
    let all := s.hub.toMss ++ ((s.hub.postWait.filter (fun e => e.1)).map (fun e => e.2)) ++
      s.regs.mssHeld.map (fun e => MboxMsg.regWrite e.1 e.2)
    let s := { s with hub := { s.hub with toMss := [], postWait := s.hub.postWait.filter (fun e => !e.1) }, regs := { s.regs with mssHeld := [] } }
    all.foldl State.takeMbox s
  else s

/-- The half of a delivery that goes to the command processor. -/
def State.deliverToCp (s : State) : State :=
  if s.inReset .cp then s
  else
    let all := s.hub.fromMss ++ (s.hub.postWait.filter (fun e => !e.1)).map (fun e => e.2)
    let s := { s with hub := { s.hub with fromMss := [], postWait := s.hub.postWait.filter (fun e => e.1) } }
    all.foldl State.takeFromMss s

theorem deliverMbox_eq (s : State) : s.deliverMbox = s.deliverToMss.deliverToCp := rfl

/-- With nothing waiting for the command processor, it takes nothing. -/
theorem deliverToCp_of_empty {s : State} (hf : s.hub.fromMss = []) (hw : s.hub.postWait = []) : s.deliverToCp = s := by
  have hub : ({ s.hub with fromMss := [], postWait := [] } : Hub) = s.hub := by rw [← hf, ← hw]
  unfold State.deliverToCp
  split
  · rfl
  · simp [hf, hw, hub]

/-- While the MSS is in reset nothing is delivered to it. -/
theorem deliverMbox_of_down {s : State} (h : s.mssRuns = false) (hf : s.hub.fromMss = []) (hw : s.hub.postWait = []) :
    s.deliverMbox = s := by
  rw [deliverMbox_eq, State.deliverToMss, if_neg (by simp [h]), deliverToCp_of_empty hf hw]

/-- A running MSS takes the one message of its mailbox. -/
theorem deliverToMss_of_one {s : State} (h : s.mssRuns = true) (hc : s.MailClear) (m : MboxMsg) :
    ({ s with hub := { s.hub with toMss := [m] } } : State).deliverToMss = s.takeMbox m := by
  obtain ⟨ht, hf, hw, hh⟩ := hc
  have hub : ({ s.hub with toMss := [], postWait := [] } : Hub) = s.hub := by rw [← ht, ← hw]
  have regs : ({ s.regs with mssHeld := [] } : Regs) = s.regs := by rw [← hh]
  have runs : ({ s with hub := { s.hub with toMss := [m] } } : State).mssRuns = true := h
  rw [State.deliverToMss, if_pos runs]
  simp [hw, hh, hub, regs]

/-- A write posted to a running MSS through a clear mailbox is taken at once (R458). -/
theorem postMssWrite_delivered {s : State} (h : s.mssRuns = true) (hc : s.MailClear) {a : Nat} {v : Word}
    (hub : (s.mssWrite a v).hub = s.hub) : (s.postMssWrite a v).deliverMbox = s.mssWrite a v := by
  have posted : s.postMssWrite a v = { s with hub := { s.hub with toMss := [.regWrite a v] } } := by
    simp [State.postMssWrite, State.postMbox, hc.toMss, hc.held]
  rw [posted, deliverMbox_eq, deliverToMss_of_one h hc]
  exact deliverToCp_of_empty (by rw [← hc.fromMss, ← hub]; rfl) (by rw [← hc.postWait, ← hub]; rfl)

/-! ## Addresses of the control registers (R450, R452) -/

theorem blockOf_bankBase {b : Bank} : blockOf (bankBase b) = 10 ↔ b ∈ [Bank.mssEol, .mssSap] := by
  cases b <;> decide

theorem offsetOf_bankBase_lt (b : Bank) : offsetOf (bankBase b) < 0x100000 := by
  cases b <;> decide

theorem regInfo_bankBase (b : Bank) : regInfo (bankBase b) = none := by
  cases b <;> rfl

/-- COMMIT and BSTAT of a bank lie in the window of the bank's control registers. -/
theorem bankAt_control (b : Bank) {o : Nat} (ho : o = 0 ∨ o = 4) : bankAt (bankBase b + o) = some b := by
  obtain rfl | rfl := ho <;> cases b <;> rfl

/-- MSS_PROFILE_CTL is no control register of a bank. -/
theorem control_ne_profileCtl (b : Bank) {o : Nat} (ho : o = 0 ∨ o = 4) : bankBase b + o ≠ 0x1400100 := by
  obtain rfl | rfl := ho <;> cases b <;> decide

/-! ## Writes of a bank's control registers (R452) -/

theorem bitOf_zero (v : Nat) : bitOf v 0 = decide (v % 2 = 1) := by
  show decide (v / 2 ^ 0 % 2 = 1) = decide (v % 2 = 1)
  rw [Nat.pow_zero, Nat.div_one]

theorem bitOf_one (v : Nat) : bitOf v 1 = decide (v / 2 % 2 = 1) := by
  show decide (v / 2 ^ 1 % 2 = 1) = decide (v / 2 % 2 = 1)
  rw [Nat.pow_one]

/-- GO alone commits. -/
theorem bankWrite_go (s : State) (b : Bank) {v : Nat} (h : v % 4 = 1) : s.bankWrite b 0 v = s.commitGo b (bitsOf v 31 16) := by
  have go : v % 2 = 1 := by omega
  have discard : v / 2 % 2 ≠ 1 := by omega
  simp [State.bankWrite, bitOf_zero, bitOf_one, go, discard]

/-- GO and DISCARD together do nothing. -/
theorem bankWrite_go_discard (s : State) (b : Bank) {v : Nat} (h : v % 4 = 3) : s.bankWrite b 0 v = s := by
  have go : v % 2 = 1 := by omega
  have discard : v / 2 % 2 = 1 := by omega
  simp [State.bankWrite, bitOf_zero, bitOf_one, go, discard]

theorem bankWrite_discard (s : State) (b : Bank) : s.bankWrite b 0 2 = s.discardStaged b := rfl

theorem bankWrite_superseded (s : State) (b : Bank) :
    s.bankWrite b 4 8 = s.updBank b (fun k => { k with superseded := false }) := rfl

/-- The word of a GO with its tag: GO is set, DISCARD is not, and the tag keeps its 16 bits. -/
theorem bankWrite_goWord (s : State) (b : Bank) (tag : Nat) :
    s.bankWrite b 0 (BitVec.ofNat 32 (65536 * tag + 1)).toNat = s.commitGo b (tag % 65536) := by
  rw [BitVec.toNat_ofNat, bankWrite_go s b (by omega)]
  congr 1
  simp only [bitsOf]
  omega

/-- The MSS takes a write of a control register as the bank's own. -/
theorem mssWrite_control (s : State) (b : Bank) {o : Nat} (ho : o = 0 ∨ o = 4) (v : Word) :
    s.mssWrite (bankBase b + o) v = s.bankWrite b o v.toNat := by
  simp [State.mssWrite, control_ne_profileCtl b ho, bankAt_control b ho]

/-- A control register that is reached takes its write at once, whether the mailbox lies before it or not (R434, R458). -/
theorem bankControl_reached {s : State} {b : Bank} (h : s.bankReached b = true) {o : Nat} (ho : o = 0 ∨ o = 4) (v : Word) :
    s.bankControl b o v = s.bankWrite b o v.toNat := by
  simp only [State.bankReached, Bool.and_eq_true, Bool.or_eq_true, decide_eq_true_eq, List.isEmpty_iff] at h
  obtain ⟨taken, way⟩ := h
  unfold State.bankControl
  rw [if_neg (by simp [taken])]
  split
  next block =>
    obtain direct | ⟨⟨⟨⟨runs, toMss⟩, fromMss⟩, postWait⟩, held⟩ := way
    · exact absurd block direct
    · rw [← mssWrite_control s b ho v]
      refine postMssWrite_delivered runs ⟨toMss, fromMss, postWait, held⟩ ?_
      rw [mssWrite_control s b ho v]
      exact bankWrite_hub (blockOf_bankBase.mp block) runs o v.toNat
  next => rfl

/-- GO of a bank that is reached is the commit. -/
theorem execBankCommitGo_reached {s : State} {b : Bank} (h : s.bankReached b = true) (tag : Nat) :
    execBankCommitGo b tag s = .next (s.commitGo b (tag % 65536)) := by
  rw [execBankCommitGo, bankControl_reached h (.inl rfl), bankWrite_goWord]

/-! ## Register writes (R448, R451) -/

theorem stageWrite_of_info {s : State} {a : Nat} {i : RegInfo} (h : regInfo a = some i) (v : Word) :
    s.stageWrite a v = { s with regs := { s.regs with
      staged := AL.set a ((v &&& BitVec.ofNat 32 i.mask) ||| (s.regs.stg a &&& ~~~(BitVec.ofNat 32 i.mask))) s.regs.staged } } := by
  simp [State.stageWrite, h]

theorem stageWrite_changes (s : State) (a : Nat) (v : Word) : OnlyChanges [.regs] s (s.stageWrite a v) := by
  unfold State.stageWrite
  split
  · exact setRegs_changes s _
  · exact onlyChanges_refl _ s

/-- The staged bits of the staging copy take the word's, the others stay. -/
theorem stageWrite_stg_same {s : State} {a : Nat} {i : RegInfo} (h : regInfo a = some i) (v : Word) :
    (s.stageWrite a v).regs.stg a =
      (v &&& BitVec.ofNat 32 i.mask) ||| (s.regs.stg a &&& ~~~(BitVec.ofNat 32 i.mask)) := by
  rw [stageWrite_of_info h, Regs.stg, AL_get_set_same]

theorem stageWrite_stg_other (s : State) {a b : Nat} (hb : b ≠ a) (v : Word) : (s.stageWrite a v).regs.stg b = s.regs.stg b := by
  unfold State.stageWrite
  split
  · exact AL_get_set_other _ (Ne.symm hb) _ _
  · rfl

theorem stageWrite_active (s : State) (a : Nat) (v : Word) : (s.stageWrite a v).regs.active = s.regs.active := by
  unfold State.stageWrite
  split <;> rfl

theorem stageWrite_banks (s : State) (a : Nat) (v : Word) : (s.stageWrite a v).regs.banks = s.regs.banks := by
  unfold State.stageWrite
  split <;> rfl

theorem stageWrite_partials (s : State) (a : Nat) (v : Word) : (s.stageWrite a v).regs.partials = s.regs.partials := by
  unfold State.stageWrite
  split <;> rfl

/-- BAR0 answers by the state of the hub. -/
theorem barServes_of_hub {s t : State} (h : t.hub = s.hub) (a : Nat) : t.barServes a = s.barServes a := by
  simp [State.barServes, State.inReset, State.dom, h]

/-- What BAR0 serves it also takes writes at. -/
theorem barTakes_of_barServes {s : State} {a : Nat} (h : s.barServes a = true) : s.barTakes a = true := by
  simp only [State.barServes, Bool.and_eq_true] at h
  exact h.2

/-- The staged view of a register lies in the block of its active view, in the upper half (R451). -/
theorem blockOf_offsetOf_stagedView (a : Nat) (h : offsetOf a < 0x100000) :
    blockOf (a + 0x100000) = blockOf a ∧ ¬ offsetOf (a + 0x100000) < 0x100000 := by
  unfold offsetOf blockOf at *
  omega

theorem readReg_active {s : State} {a : Nat} {i : RegInfo} (hs : s.barServes a = true) (ho : offsetOf a < 0x100000)
    (h : regInfo a = some i) : s.readReg a = s.regs.val a := by
  simp [State.readReg, hs, ho, State.readActive, h]

theorem readReg_staged {s : State} {a : Nat} {i : RegInfo} (hs : s.barServes a = true) (ho : offsetOf a < 0x100000)
    (h : regInfo a = some i) : s.readReg (a + 0x100000) = s.regs.stg a := by
  obtain ⟨block, upper⟩ := blockOf_offsetOf_stagedView a ho
  have hs' : s.barServes (a + 0x100000) = true := by
    simpa [State.barServes, block] using hs
  simp [State.readReg, hs', upper, h]

/-- A whole write of the active view that the module serves is taken (R448, R451). -/
theorem execRegisterWrite_whole {s : State} {p : HostPort} {a : Nat} (v : Word) (hu : (s.cxlPort p).up = true)
    (hp : (s.cxlPort p).perst = false) (hs : s.barServes a = true) (ho : offsetOf a < 0x100000) :
    execRegisterWrite p a v 15 s = .next (s.writeActive a v) := by
  simp [execRegisterWrite, hu, hp, hs, ho]

/-- A write that no port brings or the module does not serve is discarded (R434, R448; log 87). -/
theorem execRegisterWrite_unserved {s : State} {p : HostPort} {a : Nat} (v : Word) (be : Nat)
    (h : (s.cxlPort p).up = false ∨ (s.cxlPort p).perst = true ∨ s.barServes a = false) :
    execRegisterWrite p a v be s = .next s := by
  rw [execRegisterWrite, if_pos h]

/-- A whole write of COMMIT of a bank outside the MSS is a write of its control register. -/
theorem writeActive_commit (s : State) {b : Bank} (hb : b ∉ [Bank.mssEol, .mssSap]) (v : Word) :
    s.writeActive (bankBase b) v = s.bankWrite b 0 v.toNat := by
  have window : bankAt (bankBase b) = some b := bankAt_control b (o := 0) (.inl rfl)
  simp [State.writeActive, blockOf_bankBase, hb, regInfo_bankBase, window]

/-! ## The clauses on register writes -/

/-- A whole write of a staged register changes the staged bits of its staging copy alone (R448, R451). -/
theorem registerWrite_stages (p : HostPort) (a : Nat) (v : Word) (i : RegInfo) (s : State) (hu : (s.cxlPort p).up = true)
    (hp : (s.cxlPort p).perst = false) (hs : s.barServes a = true) (ho : offsetOf a < 0x100000) (hb : blockOf a ≠ 10)
    (hi : regInfo a = some i) :
    Completes (exec (.registerWrite p a v 15) s) (fun t =>
      t.regs.stg a = (v &&& BitVec.ofNat 32 i.mask) ||| (s.regs.stg a &&& ~~~(BitVec.ofNat 32 i.mask)) ∧
      t.readReg (a + 0x100000) = t.regs.stg a ∧ t.readReg a = s.readReg a ∧
      (∀ b, b ≠ a → t.regs.stg b = s.regs.stg b) ∧ t.regs.active = s.regs.active ∧ t.regs.banks = s.regs.banks ∧
      t.regs.partials = s.regs.partials ∧ OnlyChanges [.regs] s t) := by
  refine ⟨s.stageWrite a v, ?_, ?_⟩
  · rw [show exec (.registerWrite p a v 15) s = .next (s.writeActive a v) from execRegisterWrite_whole v hu hp hs ho]
    simp [State.writeActive, hb, hi]
  · have frame := stageWrite_changes s a v
    have active := stageWrite_active s a v
    have hs' : (s.stageWrite a v).barServes a = true := (barServes_of_hub (frame .hub (by simp)) a).trans hs
    refine ⟨stageWrite_stg_same hi v, readReg_staged hs' ho hi, ?_, fun b hb => stageWrite_stg_other s hb v, active,
      stageWrite_banks s a v, stageWrite_partials s a v, frame⟩
    rw [readReg_active hs' ho hi, readReg_active hs ho hi, Regs.val, Regs.val, active]

/-- A write with some byte enables clear is counted and discarded (R462; log 86). -/
theorem registerWrite_partial (p : HostPort) (a : Nat) (v : Word) (be : Nat) (s : State) (hu : (s.cxlPort p).up = true)
    (hp : (s.cxlPort p).perst = false) (hs : s.barServes a = true) (hbe : be < 15) :
    Completes (exec (.registerWrite p a v be) s) (fun t => t.regs.partials = min 65535 (s.regs.partials + 1) ∧
      t.regs.active = s.regs.active ∧ t.regs.staged = s.regs.staged ∧ t.regs.banks = s.regs.banks ∧
      OnlyChanges [.regs] s t) := by
  have part : be % 16 ≠ 15 := by omega
  refine ⟨{ s with regs := { s.regs with partials := min 65535 (s.regs.partials + 1) } }, ?_, rfl, rfl, rfl, rfl, setRegs_changes s _⟩
  show execRegisterWrite p a v be s = _
  simp [execRegisterWrite, hu, hp, hs, part]

/-- The staged view is read-only (R451). -/
theorem registerWrite_stagedView (p : HostPort) (a : Nat) (v : Word) (s : State) (ho : 0x100000 ≤ offsetOf a) :
    exec (.registerWrite p a v 15) s = .next s := by
  show execRegisterWrite p a v 15 s = .next s
  simp [execRegisterWrite, Nat.not_lt.mpr ho]

/-- A whole write of COMMIT with GO is the commit with the word's tag (R452). -/
theorem registerWrite_go (p : HostPort) (b : Bank) (v : Word) (s : State) (hu : (s.cxlPort p).up = true)
    (hp : (s.cxlPort p).perst = false) (hs : s.barServes (bankBase b) = true) (hb : b ∉ [Bank.mssEol, .mssSap])
    (hv : v.toNat % 4 = 1) : exec (.registerWrite p (bankBase b) v 15) s = exec (.bankCommitGo b (v.toNat / 65536)) s := by
  have reached : s.bankReached b = true := by
    simp [State.bankReached, barTakes_of_barServes hs, blockOf_bankBase, hb]
  calc execRegisterWrite p (bankBase b) v 15 s
      = .next (s.bankWrite b 0 v.toNat) := by
        rw [execRegisterWrite_whole v hu hp hs (offsetOf_bankBase_lt b), writeActive_commit s hb]
    _ = .next (s.commitGo b (v.toNat / 65536 % 65536)) := by rw [bankWrite_go s b hv]; rfl
    _ = execBankCommitGo b (v.toNat / 65536) s := (execBankCommitGo_reached reached _).symm

/-- A write of COMMIT with GO and DISCARD does nothing, however it comes (R452). -/
theorem registerWrite_go_discard (p : HostPort) (b : Bank) (v : Word) (s : State) (hb : b ∉ [Bank.mssEol, .mssSap])
    (hv : v.toNat % 4 = 3) : exec (.registerWrite p (bankBase b) v 15) s = .next s := by
  show execRegisterWrite p (bankBase b) v 15 s = .next s
  simp [execRegisterWrite, offsetOf_bankBase_lt, writeActive_commit s hb, bankWrite_go_discard s b hv]

/-! ## The clauses on Dormant and on the banks of the MSS -/

theorem barTakes_of_dormant {s : State} (h : s.hub.power = .dormant) {a : Nat} (ha : blockOf a ≠ 12) : s.barTakes a = false := by
  simp [State.barTakes, h, ha]

/-- In Dormant a write of a control register outside the PWR block is not taken (R434). -/
theorem bankControl_of_dormant {s : State} (h : s.hub.power = .dormant) {b : Bank} (hb : blockOf (bankBase b) ≠ 12) (o : Nat)
    (v : Word) : s.bankControl b o v = s := by
  simp [State.bankControl, barTakes_of_dormant h hb]

/-- In Dormant only the registers of the PWR block take a write (R434). -/
theorem dormant_takes_no_write (b : Bank) (tag a : Nat) (v : Word) (s : State) (h : s.hub.power = .dormant) :
    exec (.mssRegisterWrite a v) s = .next s ∧ exec (.profileGo v) s = .next s ∧ (blockOf (bankBase b) ≠ 12 →
      exec (.bankCommitGo b tag) s = .next s ∧ exec (.bankCommitDiscard b) s = .next s ∧
      exec (.bstatSupersededClear b) s = .next s) := by
  refine ⟨?_, ?_, fun hb => ⟨?_, ?_, ?_⟩⟩
  · show execMssRegisterWrite a v s = .next s
    rw [execMssRegisterWrite, if_neg]
    rintro ⟨taken, block, -⟩
    rw [barTakes_of_dormant h (by omega)] at taken
    cases taken
  · show execProfileGo v s = .next s
    rw [execProfileGo, barTakes_of_dormant h (by decide)]
    rfl
  · exact congrArg Host.Outcome.next (bankControl_of_dormant h hb 0 _)
  · exact congrArg Host.Outcome.next (bankControl_of_dormant h hb 0 2)
  · exact congrArg Host.Outcome.next (bankControl_of_dormant h hb 4 8)

/-- GO of a bank of the MSS is a write of its COMMIT through the mailbox (R452, R458). -/
theorem bankCommitGo_mss (b : Bank) (tag : Nat) (s : State) (hb : b ∈ [Bank.mssEol, .mssSap]) :
    exec (.bankCommitGo b tag) s = exec (.mssRegisterWrite (bankBase b) (BitVec.ofNat 32 (65536 * tag + 1))) s := by
  show execBankCommitGo b tag s = execMssRegisterWrite (bankBase b) (BitVec.ofNat 32 (65536 * tag + 1)) s
  have block : blockOf (bankBase b) = 10 := blockOf_bankBase.mpr hb
  by_cases taken : s.barTakes (bankBase b) = true <;>
    simp [execBankCommitGo, execMssRegisterWrite, State.bankControl, taken, block, offsetOf_bankBase_lt]

/-! ## The clauses on commits -/

/-- A commit that changes no unit has applied (R453 step 4). -/
theorem bankCommitGo_unchanged (b : Bank) (tag : Nat) (s : State) (hr : s.bankReached b = true)
    (hv : ((valueRules b (s.under (s.regs.snapshot b)) (s.regs.known b)).all (fun r => !r.1)) = true)
    (hu : s.unitsOf (s.regs.snapshot b) = []) :
    Completes (exec (.bankCommitGo b tag) s) (fun t => (t.regs.bank b).state = 2 ∧ (t.regs.bank b).tag = tag % 65536 ∧
      (t.regs.bank b).pending = none ∧ t.regs.active = s.regs.active ∧ t.regs.staged = s.regs.staged ∧
      (∀ d, d ≠ b → t.regs.bank d = s.regs.bank d) ∧ OnlyChanges (if b = .ring then [.regs, .rings] else [.regs]) s t) := by
  refine ⟨s.placeCommit b (tag % 65536), ?_, ?_⟩
  · rw [← commitGo_eq_placeCommit _ (find?_eq_none_of_all_pass hv) (.inl hu)]
    exact execBankCommitGo_reached hr tag
  · have ctl := placeCommit_bank s b (tag % 65536)
    rw [hu] at ctl
    refine ⟨?_, ?_, ?_, placeCommit_active s b _, placeCommit_staged s b _, fun d hd => placeCommit_bank_other s hd _,
      placeCommit_changes s b _⟩ <;> simp [ctl, BankCtl.place, BankCtl.go]

/-- A commit of units with safe points is pending (R453 step 4, R454). -/
theorem bankCommitGo_pending (b : Bank) (tag : Nat) (s : State) (hr : s.bankReached b = true)
    (hv : ((valueRules b (s.under (s.regs.snapshot b)) (s.regs.known b)).all (fun r => !r.1)) = true)
    (hu : s.unitsOf (s.regs.snapshot b) ≠ []) (ha : atOnce b = false) :
    Completes (exec (.bankCommitGo b tag) s) (fun t => (t.regs.bank b).state = 1 ∧ (t.regs.bank b).tag = tag % 65536 ∧
      (t.regs.bank b).superseded = ((s.regs.bank b).superseded || (s.regs.bank b).pending.isSome) ∧
      (t.regs.bank b).pending = some (s.regs.snapshot b, s.unitsOf (s.regs.snapshot b)) ∧ t.regs.active = s.regs.active ∧
      t.regs.staged = s.regs.staged ∧ (∀ d, d ≠ b → t.regs.bank d = s.regs.bank d) ∧
      OnlyChanges (if b = .ring then [.regs, .rings] else [.regs]) s t) := by
  refine ⟨s.placeCommit b (tag % 65536), ?_, ?_⟩
  · rw [← commitGo_eq_placeCommit _ (find?_eq_none_of_all_pass hv) (.inr ha)]
    exact execBankCommitGo_reached hr tag
  · have ctl := placeCommit_bank s b (tag % 65536)
    refine ⟨?_, ?_, ?_, ?_, placeCommit_active s b _, placeCommit_staged s b _, fun d hd => placeCommit_bank_other s hd _,
      placeCommit_changes s b _⟩ <;> simp [ctl, BankCtl.place, BankCtl.go, hu]

/-- A commit that fails a rule on values is refused (R453 step 2). -/
theorem bankCommitGo_refused (b : Bank) (tag : Nat) (r : BankRule) (s : State) (hr : s.bankReached b = true)
    (hv : (valueRules b (s.under (s.regs.snapshot b)) (s.regs.known b)).find? (fun r => r.1) = some r) :
    Completes (exec (.bankCommitGo b tag) s) (fun t => (t.regs.bank b).state = 3 ∧ (t.regs.bank b).tag = tag % 65536 ∧
      (t.regs.bank b).fault = chargedOffset (s.changedBy (s.regs.snapshot b)) r ∧ (t.regs.bank b).pending = none ∧
      t.regs.active = s.regs.active ∧ t.regs.staged = s.regs.staged ∧ (∀ d, d ≠ b → t.regs.bank d = s.regs.bank d) ∧
      OnlyChanges [.regs, .rings, .cxl, .mss, .hub] s t) := by
  refine ⟨s.commitGo b (tag % 65536), execBankCommitGo_reached hr tag, ?_⟩
  rw [commitGo_of_refused _ hv]
  simp only [refuseBank_regs, State.beginCommit_regs, State.beginCommit_changedBy, Regs.bank_updBank_same, Regs.updBank_active,
    Regs.updBank_staged, BankCtl.go, Nat.mod_mod, true_and]
  exact ⟨fun d hd => by simp [Ne.symm hd],
    onlyChanges_trans (onlyChanges_mono (updBank_changes s b _) (by simp)) (refuseBank_changes _ b _ r)⟩

/-- The one changed unit of a bank that applies at once takes its values with GO (R456). -/
theorem bankCommitGo_atOnce (b : Bank) (tag u : Nat) (s : State) (hr : s.bankReached b = true) (ha : atOnce b = true)
    (hw : s.bankWaits b = false) (hs : s.mss.selecting = none)
    (hv : ((valueRules b (s.under (s.regs.snapshot b)) (s.regs.known b)).all (fun r => !r.1)) = true)
    (hu : s.unitsOf (s.regs.snapshot b) = [u]) (hn : ((s.regs.snapshot b).map (fun e => e.1)).Nodup)
    (hm : b = .memPol → s.mem.hardFaults = []) :
    Completes (exec (.bankCommitGo b tag) s) (fun t => (t.regs.bank b).state = 2 ∧ (t.regs.bank b).pending = none ∧
      (∀ a, (regInfo a).map (fun i => i.unit) = some u → t.regs.val a = AL.get (s.regs.val a) a (s.regs.snapshot b)) ∧
      t.regs.staged = s.regs.staged ∧ (∀ d, d ≠ b → t.regs.bank d = s.regs.bank d) ∧
      OnlyChanges (if b = .linkPlan then [.regs, .hub, .link, .out] else [.regs]) s t) := by
  have pass := find?_eq_none_of_all_pass hv
  have ring : b ≠ .ring := by rintro rfl; cases ha
  have placed := placeCommit_changes s b (tag % 65536)
  rw [if_neg ring] at placed
  have pending : ((s.placeCommit b (tag % 65536)).regs.bank b).pending = some (s.regs.snapshot b, [u]) := by
    simp [placeCommit_bank, hu, BankCtl.place]
  have calm : (s.placeCommit b (tag % 65536)).calmFor b :=
    ⟨fun e => (congrArg Mem.hardFaults (placed .mem (by simp))).trans (hm e), by rintro rfl; cases ha⟩
  obtain ⟨regs, frame⟩ := applyUnit_last pending calm (by rw [stateRules_of_atOnce ha]; rfl)
  refine ⟨s.commitGo b (tag % 65536), execBankCommitGo_reached hr tag, ?_⟩
  rw [commitGo_atOnce _ ha hw hs pass hu]
  dsimp only
  rw [regs]
  refine ⟨by rw [takeUnit_last], by rw [takeUnit_last], fun a hau => ?_, by rw [takeUnit_staged, placeCommit_staged],
    fun d hd => by rw [takeUnit_bank_other _ hd, placeCommit_bank_other _ hd], ?_⟩
  · rw [takeUnit_val _ _ _ _ hn, if_pos hau, Regs.val, placeCommit_active, ← Regs.val]
  · refine onlyChanges_trans (onlyChanges_mono placed (by split <;> simp)) (onlyChanges_mono frame ?_)
    obtain rfl | rfl | rfl := atOnce_iff.mp ha <;> decide

/-! ## The clauses on safe points -/

/-- At its safe point the last unit of a commit takes its values in one step (R453 step 3, R456; that the command tells the safe
point is log 94). -/
theorem bankSafePointApply_last (b : Bank) (u : Nat) (snap : AL Nat Word) (s : State) (hs : s.safePoint b u = true)
    (hp : (s.regs.bank b).pending = some (snap, [u])) (hn : (snap.map (fun e => e.1)).Nodup) (hc : s.calmFor b)
    (hr : ((s.stateRules b u (s.under snap)).all (fun r => !r.1)) = true) :
    Completes (exec (.bankSafePointApply b u) s) (fun t => (t.regs.bank b).state = 2 ∧ (t.regs.bank b).pending = none ∧
      (∀ a, (regInfo a).map (fun i => i.unit) = some u → t.regs.val a = AL.get (s.regs.val a) a snap) ∧
      (∀ a, (regInfo a).map (fun i => i.unit) ≠ some u → t.regs.val a = s.regs.val a) ∧
      (∀ d, d ≠ b → t.regs.bank d = s.regs.bank d) ∧ t.regs.staged = s.regs.staged ∧
      OnlyChanges (.regs :: safePointParts b) s t) := by
  obtain ⟨regs, frame⟩ := applyUnit_last hp hc (find?_eq_none_of_all_pass hr)
  refine ⟨s.applyUnit b u, congrArg Host.Outcome.next (if_pos hs), ?_⟩
  dsimp only
  rw [regs]
  exact ⟨by rw [takeUnit_last], by rw [takeUnit_last], fun a ha => by rw [takeUnit_val _ _ _ _ hn, if_pos ha],
    fun a ha => by rw [takeUnit_val _ _ _ _ hn, if_neg ha], fun d hd => takeUnit_bank_other s hd u snap [u],
    takeUnit_staged s b u snap [u], frame⟩

/-- A rule on the module's state that fails at the safe point refuses the commit (R453 step 3). -/
theorem bankSafePointApply_refused (b : Bank) (u : Nat) (snap : AL Nat Word) (us : List Nat) (r : BankRule) (s : State)
    (hs : s.safePoint b u = true) (hp : (s.regs.bank b).pending = some (snap, us)) (hu : u ∈ us)
    (hr : (s.stateRules b u (s.under snap)).find? (fun r => r.1) = some r) :
    Completes (exec (.bankSafePointApply b u) s) (fun t => (t.regs.bank b).state = 3 ∧ (t.regs.bank b).pending = none ∧
      (t.regs.bank b).fault = chargedOffset (s.changedBy snap) r ∧ t.regs.active = s.regs.active ∧
      t.regs.staged = s.regs.staged ∧ OnlyChanges [.regs, .rings, .cxl, .mss, .hub] s t) := by
  refine ⟨s.refuseBank b snap r, congrArg Host.Outcome.next ((if_pos hs).trans (applyUnit_of_refused hp hu hr)), ?_⟩
  simp only [refuseBank_regs, Regs.bank_updBank_same, Regs.updBank_active, Regs.updBank_staged, true_and]
  exact refuseBank_changes s b snap r

/-- Outside a safe point, and with nothing pending, nothing applies (R453). -/
theorem bankSafePointApply_waits (b : Bank) (u : Nat) (s : State) (h : s.safePoint b u = false ∨ (s.regs.bank b).pending = none) :
    exec (.bankSafePointApply b u) s = .next s := by
  refine congrArg Host.Outcome.next ?_
  unfold State.reachPoint
  obtain h | h := h
  · rw [if_neg (by simp [h])]
  · rw [applyUnit_of_none u h, ite_self]

/-! ## The clauses on DISCARD and SUPERSEDED -/

/-- DISCARD reloads the bank's staging copy from the active values; a pending snapshot stays (R452, R454). -/
theorem bankCommitDiscard_reloads (b : Bank) (s : State) (hr : s.bankReached b = true) :
    Completes (exec (.bankCommitDiscard b) s) (fun t =>
      (∀ a, bankOf a = some b → t.regs.stg a = s.regs.val a) ∧ (∀ a, bankOf a ≠ some b → t.regs.stg a = s.regs.stg a) ∧
      t.regs.active = s.regs.active ∧ t.regs.banks = s.regs.banks ∧ OnlyChanges [.regs] s t) := by
  have stg (a : Nat) : (s.discardStaged b).regs.stg a = if bankOf a ≠ some b then s.regs.stg a else s.regs.val a := by
    have kept := AL_get_filter (s.regs.val a) a (fun k => decide (bankOf k ≠ some b)) s.regs.staged
    simp only [decide_eq_true_eq] at kept
    exact kept
  refine ⟨s.discardStaged b, congrArg Host.Outcome.next ?_, fun a ha => by rw [stg, if_neg (Decidable.not_not.mpr ha)],
    fun a ha => by rw [stg, if_pos ha], rfl, rfl, discardStaged_changes s b⟩
  rw [bankControl_reached hr (.inl rfl)]
  exact bankWrite_discard s b

/-- SUPERSEDED is cleared by writing 1 (R452). -/
theorem bstatSupersededClear_clears (b : Bank) (s : State) (hr : s.bankReached b = true) :
    Completes (exec (.bstatSupersededClear b) s) (fun t =>
      t.regs.bank b = { s.regs.bank b with superseded := false } ∧ (∀ d, d ≠ b → t.regs.bank d = s.regs.bank d) ∧
      t.regs.active = s.regs.active ∧ t.regs.staged = s.regs.staged ∧ OnlyChanges [.regs] s t) := by
  refine ⟨s.updBank b (fun k => { k with superseded := false }), congrArg Host.Outcome.next ?_,
    Regs.bank_updBank_same _ _ _, fun d hd => Regs.bank_updBank_other _ (Ne.symm hd) _, rfl, rfl, updBank_changes s b _⟩
  rw [bankControl_reached hr (.inr rfl)]
  exact bankWrite_superseded s b

/-! ## The clauses on HUB_TIME and on the registers of the MSS -/

/-- A register without staged fields and outside the banks' controls reads as its table gives it (R448). -/
theorem readReg_direct {s : State} {a : Nat} (hs : s.barServes a = true) (ho : offsetOf a < 0x100000) (hi : regInfo a = none)
    (hb : bankAt a = none) : s.readReg a = BitVec.ofNat 32 (s.readDirect a) := by
  rw [State.readReg, if_pos hs, if_pos ho, State.readActive]
  simp only [hi, hb]

theorem readReg_timeLo {s : State} (hs : s.barServes 0x110 = true) : s.readReg 0x110 = BitVec.ofNat 32 (s.now % 2 ^ 32) := by
  have direct : s.readDirect 0x110 = s.now % 2 ^ 32 := rfl
  rw [readReg_direct hs (by decide) rfl rfl, direct]

theorem readReg_timeHi {s : State} (hs : s.barServes 0x110 = true) : s.readReg 0x114 = s.hub.timeHi := by
  have direct : s.readDirect 0x114 = s.hub.timeHi.toNat := rfl
  rw [readReg_direct (a := 0x114) hs (by decide) rfl rfl, direct]
  simp

/-- A read of HUB_TIME_LO latches the upper half of the same moment (R462). -/
theorem hubTimeLoRead_latches (s : State) (hs : s.barServes 0x110 = true) :
    Completes (exec .hubTimeLoRead s) (fun t =>
      t.readReg 0x114 = BitVec.ofNat 32 (s.now / 2 ^ 32) ∧ t.readReg 0x110 = BitVec.ofNat 32 (s.now % 2 ^ 32) ∧
      t.now = s.now ∧ OnlyChanges [.hub] s t) := by
  refine ⟨{ s with hub := { s.hub with timeHi := BitVec.ofNat 32 (s.now / 2 ^ 32) } }, congrArg Host.Outcome.next (if_pos hs),
    readReg_timeHi hs, readReg_timeLo hs, rfl, setHub_changes s _⟩

theorem barTakes_of_awake {s : State} (h : s.hub.power ≠ .dormant) (a : Nat) : s.barTakes a = true := by
  simp [State.barTakes, h]

/-- A write of an MSS register that BAR0 takes crosses the mailbox (R458). -/
theorem execMssRegisterWrite_posted {s : State} {a : Nat} (h : s.hub.power ≠ .dormant) (hb : blockOf a = 10)
    (ho : offsetOf a < 0x100000) (v : Word) : execMssRegisterWrite a v s = .next (s.postMssWrite a v).deliverMbox := by
  rw [execMssRegisterWrite, if_pos ⟨barTakes_of_awake h a, hb, ho⟩]

theorem profileWrite_mss (s : State) (w : Nat) : (s.profileWrite w).mss =
    { s.mss with
      select := Fin.ofNat 4 w
      selecting := if bitOf w 2 then some (Fin.ofNat 4 w) else s.mss.selecting } := by
  unfold State.profileWrite State.requestProfile
  dsimp only
  split <;> rfl

theorem profileWrite_changes (s : State) (w : Nat) : OnlyChanges [.mss] s (s.profileWrite w) := by
  unfold State.profileWrite State.requestProfile
  dsimp only
  split <;> exact setMss_changes s _

/-- A write of MSS_PROFILE_CTL keeps SELECT and requests the selection with GO (R399). -/
theorem profileGo_selects (w : Word) (s : State) (hd : s.hub.power ≠ .dormant) (hr : s.mssRuns = true)
    (ht : s.hub.toMss = []) (hf : s.hub.fromMss = []) (hw : s.hub.postWait = []) (hh : s.regs.mssHeld = []) :
    Completes (exec (.profileGo w) s) (fun t =>
      t.mss.select.val = w.toNat % 4 ∧
      t.mss.selecting = (if bitOf w.toNat 2 then some (Fin.ofNat 4 w.toNat) else s.mss.selecting) ∧
      t.mss.profile = s.mss.profile ∧ t.mss.activeSlot = s.mss.activeSlot ∧ OnlyChanges [.mss] s t) := by
  have frame := profileWrite_changes s w.toNat
  have taken : (s.postMssWrite 0x1400100 w).deliverMbox = s.profileWrite w.toNat :=
    postMssWrite_delivered hr ⟨ht, hf, hw, hh⟩ (frame .hub (by simp))
  refine ⟨s.profileWrite w.toNat, ?_, ?_⟩
  · show execProfileGo w s = _
    rw [execProfileGo, if_pos (barTakes_of_awake hd _), taken]
  · dsimp only
    rw [profileWrite_mss]
    exact ⟨rfl, rfl, rfl, rfl, frame⟩

/-- While the MSS is in reset a posted write stays where the hub puts it. -/
theorem execMssRegisterWrite_down {s t : State} {a : Nat} {v : Word} (hd : s.hub.power ≠ .dormant) (hb : blockOf a = 10)
    (ho : offsetOf a < 0x100000) (posted : s.postMssWrite a v = t) (hr : t.mssRuns = false) (hf : t.hub.fromMss = [])
    (hw : t.hub.postWait = []) : execMssRegisterWrite a v s = .next t := by
  rw [execMssRegisterWrite_posted hd hb ho, posted, deliverMbox_of_down hr hf hw]

/-- While the MSS is in reset a write of its registers queues in the mailbox (R458). -/
theorem mssRegisterWrite_queues (a : Nat) (v : Word) (s : State) (hd : s.hub.power ≠ .dormant) (hr : s.mssRuns = false)
    (hb : blockOf a = 10) (ho : offsetOf a < 0x100000) (room : s.hub.toMss.length < 64) (hf : s.hub.fromMss = [])
    (hw : s.hub.postWait = []) (hh : s.regs.mssHeld = []) :
    Completes (exec (.mssRegisterWrite a v) s) (fun t => t.hub.toMss = s.hub.toMss ++ [.regWrite a v] ∧ t.regs = s.regs ∧
      OnlyChanges [.hub] s t) := by
  have posted : s.postMssWrite a v = { s with hub := { s.hub with toMss := s.hub.toMss ++ [.regWrite a v] } } := by
    simp [State.postMssWrite, State.postMbox, room, hh]
  exact ⟨_, execMssRegisterWrite_down hd hb ho posted hr hf hw, rfl, rfl, setHub_changes s _⟩

/-- Beyond the mailbox's 64 the hub holds up to 16 writes (R458). -/
theorem mssRegisterWrite_held (a : Nat) (v : Word) (s : State) (hd : s.hub.power ≠ .dormant) (hr : s.mssRuns = false)
    (hb : blockOf a = 10) (ho : offsetOf a < 0x100000) (full : 64 ≤ s.hub.toMss.length) (hf : s.hub.fromMss = [])
    (hw : s.hub.postWait = []) (hh : s.regs.mssHeld.length < 16) :
    Completes (exec (.mssRegisterWrite a v) s) (fun t => t.regs.mssHeld = s.regs.mssHeld ++ [(a, v)] ∧
      t.hub.toMss = s.hub.toMss ∧ t.regs.active = s.regs.active ∧ t.regs.staged = s.regs.staged ∧
      t.regs.mssDrops = s.regs.mssDrops ∧ OnlyChanges [.regs, .hub] s t) := by
  have posted : s.postMssWrite a v = { s with regs := { s.regs with mssHeld := s.regs.mssHeld ++ [(a, v)] } } := by
    simp [State.postMssWrite, Nat.not_lt.mpr full, hh]
  exact ⟨_, execMssRegisterWrite_down hd hb ho posted hr hf hw, rfl, rfl, rfl, rfl, rfl,
    onlyChanges_mono (setRegs_changes s _) (by simp)⟩

/-- With 16 writes held a further one is discarded and counted (R458, R462). -/
theorem mssRegisterWrite_dropped (a : Nat) (v : Word) (s : State) (hd : s.hub.power ≠ .dormant) (hr : s.mssRuns = false)
    (hb : blockOf a = 10) (ho : offsetOf a < 0x100000) (hf : s.hub.fromMss = [])
    (hw : s.hub.postWait = []) (hh : s.regs.mssHeld.length = 16) :
    Completes (exec (.mssRegisterWrite a v) s) (fun t => t.regs.mssHeld = s.regs.mssHeld ∧
      t.regs.mssDrops = min 65535 (s.regs.mssDrops + 1) ∧ t.hub.toMss = s.hub.toMss ∧ OnlyChanges [.regs, .hub] s t) := by
  have some_held : s.regs.mssHeld ≠ [] := fun e => by simp [e] at hh
  have posted : s.postMssWrite a v = { s with regs := { s.regs with mssDrops := min 65535 (s.regs.mssDrops + 1) } } := by
    simp [State.postMssWrite, some_held, hh]
  exact ⟨_, execMssRegisterWrite_down hd hb ho posted hr hf hw, rfl, rfl, rfl,
    onlyChanges_mono (setRegs_changes s _) (by simp)⟩

/-- The staged registers of the MSS block are MSS_EOL_POLICY and MSS_SAPLING_CFG (R461). -/
theorem staged_mss_address {a : Nat} {i : RegInfo} (hb : blockOf a = 10) (hi : regInfo a = some i) :
    a = aEolPol ∨ a = aSapCfg := by
  have place : a = 0x1400000 + offsetOf a := by
    unfold blockOf at hb
    unfold offsetOf
    omega
  simp only [regInfo, hb] at hi
  by_cases e : offsetOf a = 0x200
  · exact .inl (place.trans (by rw [e]; rfl))
  · by_cases f : offsetOf a = 0x210
    · exact .inr (place.trans (by rw [f]; rfl))
    · simp [e, f] at hi

/-- A running MSS stages a write of its staged registers (R451, R458). -/
theorem mssRegisterWrite_stages (a : Nat) (v : Word) (i : RegInfo) (s : State) (hd : s.hub.power ≠ .dormant)
    (hr : s.mssRuns = true) (hb : blockOf a = 10) (ho : offsetOf a < 0x100000) (hi : regInfo a = some i)
    (ht : s.hub.toMss = []) (hf : s.hub.fromMss = []) (hw : s.hub.postWait = []) (hh : s.regs.mssHeld = []) :
    Completes (exec (.mssRegisterWrite a v) s) (fun t =>
      t.regs.stg a = (v &&& BitVec.ofNat 32 i.mask) ||| (s.regs.stg a &&& ~~~(BitVec.ofNat 32 i.mask)) ∧
      t.regs.active = s.regs.active ∧ t.hub.toMss = [] ∧ OnlyChanges [.regs, .hub] s t) := by
  have frame := stageWrite_changes s a v
  have hub : (s.stageWrite a v).hub = s.hub := frame .hub (by simp)
  have write : s.mssWrite a v = s.stageWrite a v := by
    obtain rfl | rfl := staged_mss_address hb hi <;> rfl
  have taken := postMssWrite_delivered hr ⟨ht, hf, hw, hh⟩ (write ▸ hub)
  refine ⟨s.stageWrite a v, (execMssRegisterWrite_posted hd hb ho v).trans (by rw [taken, write]), stageWrite_stg_same hi v,
    stageWrite_active s a v, hub ▸ ht, onlyChanges_mono frame (by simp)⟩

/-- Settles O56, clause by clause. -/
theorem registersAndBanks : Obligations.RegistersAndBanks := by
  refine ⟨registerWrite_stages, registerWrite_partial, registerWrite_stagedView, fun p a v be s h => execRegisterWrite_unserved v be h,
    registerWrite_go, registerWrite_go_discard, dormant_takes_no_write, bankCommitGo_mss, bankCommitGo_unchanged,
    fun b tag u s hr ha hw hs hv hu hn hm _ => bankCommitGo_atOnce b tag u s hr ha hw hs hv hu hn hm,
    bankCommitGo_pending, bankCommitGo_refused, fun b u snap s hs hp hn hm hl hr => ?_, bankSafePointApply_refused,
    bankSafePointApply_waits, bankCommitDiscard_reloads, bstatSupersededClear_clears, hubTimeLoRead_latches, profileGo_selects,
    mssRegisterWrite_queues, mssRegisterWrite_held, mssRegisterWrite_dropped, mssRegisterWrite_stages⟩
  exact bankSafePointApply_last b u snap s hs hp hn ⟨hm, hl⟩ hr

/-! ## A step that takes effect -/

theorem wake_changes (s : State) : OnlyChanges [.hub] s s.wake := by
  unfold State.wake
  split
  · exact setHub_changes s _
  · split
    · exact setHub_changes s _
    · exact onlyChanges_refl _ s

theorem takeEffect_changes (s : State) (c : CtxId) (k : SubRing) (q : QDesc) : OnlyChanges [.rings, .hub] s (s.takeEffect c k q) :=
  onlyChanges_trans (onlyChanges_mono (updRing_changes s _ _) (by simp)) (onlyChanges_mono (wake_changes _) (by simp))

theorem hostAccess_changes (s : State) (c : CtxId) (addr : Nat) : OnlyChanges [.cxl] s (s.hostAccess c addr) := by
  unfold State.hostAccess
  exact updCxl_changes s _ _

theorem takeEarly_number (t : Step) (early : List (Nat × Nat × Slice × Option UpdateRec)) : (t.takeEarly early).number = t.number := by
  unfold Step.takeEarly
  generalize early.filter (fun e => e.1 == t.number) = l
  induction l generalizing t with
  | nil => rfl
  | cons e l ih => exact ih (t.takeSlice e.2.1 e.2.2.1 e.2.2.2)

theorem start_number (t : Step) (rescales : List (Nat × Nat × Nat)) (recs : List ScaleRec) :
    (t.start rescales recs).number = t.number := by
  unfold Step.start
  split <;> rfl

theorem startOldest_numbers (x : Ctx) : x.startOldest.steps.map (·.number) = x.steps.map (·.number) := by
  unfold Ctx.startOldest
  split
  next h => simp [h, start_number]
  next => rfl

/-- A STEP whose batch is here joins the provisional steps under its number (R197). -/
theorem stepEffect_numbers (s : State) (c : CtxId) (q : QDesc) (b : List (List Byte)) :
    ((s.stepEffect c q (.data b)).ctx c).steps.map (·.number) = (s.ctx c).steps.map (·.number) ++ [dStep q.bytes] := by
  have tail (v : State) (a n : Nat) (f : Feed) (r : State → Msg) :
      OnlyChanges [.cxl, .cores, .out] v
        (((((v.hostAccess c a).feed c f).zeroLanes).placeStep c n).send (r ((v.hostAccess c a).feed c f))) :=
    onlyChanges_then (onlyChanges_then (onlyChanges_then (onlyChanges_then (onlyChanges_mono (hostAccess_changes v c a) (by simp))
      (feed_changes _ c f) (by simp)) (zeroLanes_changes _) (by simp)) (placeStep_changes _ c n) (by simp)) (send_changes _ _) (by simp)
  unfold State.stepEffect
  dsimp only
  rw [ctx_of_changes (tail _ _ _ _ (fun v => .takeoverRecord c (takeoverRec (v.ring (setOf c)) _))) (by simp) c,
    State.ctx_updCtx_same, startOldest_numbers]
  simp [Ctx.addReader, Ctx.updLive, takeEarly_number, newStep, ctx_of_changes (takeEffect_changes s c .step q) (by simp) c]

/-- A step that may take effect is executed exactly if its number follows the committed version and the provisional steps
(R195, R196). -/
theorem execStep_numbers (c : CtxId) (q : QDesc) (b : List (List Byte)) (s : State) (hq : s.headOf c .step .step = some q)
    (ha : s.admits c = true) :
    Completes (execStep c (.data b) s) (fun t => (t.ctx c).steps.map (·.number) = (s.ctx c).steps.map (·.number) ++
      if dStep q.bytes = (s.ctx c).committed + (s.ctx c).steps.length + 1 then [dStep q.bytes] else []) := by
  refine ⟨_, rfl, ?_⟩
  simp only [hq, ha, if_true]
  split
  next => simp [State.stopHead, ctx_of_changes (stopRing_changes s c .step _ _ _ _ _ _) (by simp) c]
  next h =>
    rw [stepEffect_numbers, reachPoint_ctx _ (by decide), reachPoint_ctx _ (by decide), if_pos (Decidable.not_not.mp h)]

/-! ## The vote of a restore -/

theorem execRestoreVoteReduced_commits (c : CtxId) (r : Restoring) (f : Flow) (s : State) (hr : (s.ctx c).restoring = some r)
    (hf : s.flowOf c .step .restore = some f) (hv : r.voted = true) :
    Completes (execRestoreVoteReduced c 0 s) (fun t => (t.ctx c).committed = r.step) := by
  refine ⟨_, rfl, ?_⟩
  simp [hr, hf, hv, ctx_of_changes (finishDone_changes _ c .step _ _ _ _ _) (by simp) c, Ctx.restored]

/-- Settles O49: the vote sets the committed version, and a STEP is executed only under the number after it. -/
theorem restoredVersion : Obligations.RestoredVersion := by
  refine ⟨fun c r f s hr hf hv => execRestoreVoteReduced_commits c r f s hr hf hv, fun c q b n s hn hs hq ha => ?_⟩
  obtain ⟨t, ht, hsteps⟩ := execStep_numbers c q b s hq ha
  refine ⟨t, ht, ?_⟩
  simp only [hsteps, hs, hn, List.map_nil, List.length_nil, Nat.add_zero, List.nil_append]
  split
  next h => rw [h]
  next => rfl

end Sys2Proof.Machine
end

section
/-! SUPPORT. The exact sums behind the checks of an exact pairing (R34, R35, R228, R230); with them the statement O20. -/

namespace Sys2Proof.Machine

/-! ## Integer sums over lists -/

/-- A property of the empty list that one more element at the end keeps holds of every list. -/
theorem append_singleton_induction {α : Type} {P : List α → Prop} (nil : P [])
    (append_singleton : ∀ l a, P l → P (l ++ [a])) (l : List α) : P l := by
  have reversed (r : List α) : P r.reverse := by
    induction r with
    | nil => exact nil
    | cons a r ih =>
      rw [List.reverse_cons]
      exact append_singleton _ a ih
  exact List.reverse_reverse l ▸ reversed l.reverse

theorem sum_map_zero {α : Type} (l : List α) : (l.map (fun _ => (0 : Int))).sum = 0 := by
  induction l with
  | nil => rfl
  | cons a l ih => rw [List.map_cons, List.sum_cons, ih, Int.zero_add]

theorem sum_map_add {α : Type} (f g : α → Int) (l : List α) :
    (l.map (fun a => f a + g a)).sum = (l.map f).sum + (l.map g).sum := by
  induction l with
  | nil => rfl
  | cons a l ih =>
    simp only [List.map_cons, List.sum_cons, ih]
    omega

theorem sum_map_mul_left {α : Type} (c : Int) (f : α → Int) (l : List α) :
    (l.map (fun a => c * f a)).sum = c * (l.map f).sum := by
  induction l with
  | nil => exact (Int.mul_zero c).symm
  | cons a l ih => simp only [List.map_cons, List.sum_cons, ih, Int.mul_add]

theorem sum_map_mul_right {α : Type} (f : α → Int) (c : Int) (l : List α) :
    (l.map (fun a => f a * c)).sum = (l.map f).sum * c := by
  simp only [Int.mul_comm _ c, sum_map_mul_left]

/-- The order in which a table of integers is summed does not matter. -/
theorem sum_sum_comm {α β : Type} (f : α → β → Int) (l : List α) (m : List β) :
    (l.map (fun a => (m.map (f a)).sum)).sum = (m.map (fun b => (l.map (fun a => f a b)).sum)).sum := by
  induction l with
  | nil => exact (sum_map_zero m).symm
  | cons a l ih => simp only [List.map_cons, List.sum_cons, ih, sum_map_add]

/-- The first place of a range, then the others. -/
theorem sum_range_succ_front (f : Nat → Int) (n : Nat) :
    ((List.range (n + 1)).map f).sum = f 0 + ((List.range n).map (fun i => f (i + 1))).sum := by
  rw [List.range_succ_eq_map, List.map_cons, List.sum_cons, List.map_map]
  rfl

/-- A sum of products over two lists side by side runs over the places of the second, a place beyond the first counting nothing. -/
theorem sum_zip_mul {α β : Type} {f : α → Int} (g : β → Int) {x : α} (y : β) (hx : f x = 0) (a : List α) (w : List β) :
    ((a.zip w).map (fun e => f e.1 * g e.2)).sum =
      ((List.range w.length).map (fun k => f (a.getD k x) * g (w.getD k y))).sum := by
  induction w generalizing a with
  | nil => rw [List.zip_nil_right]; rfl
  | cons v w ih =>
    cases a with
    | nil => simp only [List.zip_nil_left, List.getD_nil, hx, Int.zero_mul, sum_map_zero]; rfl
    | cons b a =>
      rw [List.zip_cons_cons, List.map_cons, List.sum_cons, ih, List.length_cons, sum_range_succ_front]
      rfl

/-- A sum over a list runs over the places of any range that covers it, a place beyond the list counting nothing. -/
theorem sum_map_eq_sum_range {α : Type} {f : α → Int} {x : α} (hx : f x = 0) {l : List α} {n : Nat} (h : l.length ≤ n) :
    (l.map f).sum = ((List.range n).map (fun i => f (l.getD i x))).sum := by
  induction l generalizing n with
  | nil => simp only [List.getD_nil, hx, sum_map_zero]; rfl
  | cons a l ih =>
    obtain ⟨m, rfl⟩ : ∃ m, n = m + 1 := ⟨n - 1, by rw [List.length_cons] at h; omega⟩
    rw [List.map_cons, List.sum_cons, ih (Nat.le_of_succ_le_succ h), sum_range_succ_front]
    rfl

/-! ## Exact accumulators -/

/-- The integer of an exact sum, 0 of the other accumulators. -/
def Acc.intPart : Acc → Int
  | .int v => v
  | _ => 0

@[simp] theorem Acc.intPart_int (v : Int) : (Acc.int v).intPart = v := rfl

/-- The value of a code for sums is the integer of its accumulator value. -/
theorem intPart_codeAcc (f : Fmt) (c : Nat) : (codeAcc f c).intPart = codeInt f c := by
  unfold codeInt
  cases codeAcc f c <;> rfl

/-- A sum is an integer only of two integers (R35, R38). -/
theorem Acc.add_eq_int {a b : Acc} {v : Int} (h : a.add b = .int v) :
    ∃ x, a = .int x ∧ b = .int b.intPart ∧ v = x + b.intPart := by
  cases a with
  | int x =>
    cases b with
    | int y => exact ⟨x, rfl, rfl, by injection h with h; exact h.symm⟩
    | _ => simp [Acc.add] at h
  | inf n =>
    cases b with
    | inf m =>
      rw [Acc.add] at h
      split at h <;> cases h
    | _ => simp [Acc.add] at h
  | _ => cases b <;> simp [Acc.add] at h

/-- A product is an integer only of two integers (R38). -/
theorem Acc.mul_eq_int {a b : Acc} {v : Int} (h : a.mul b = .int v) : v = a.intPart * b.intPart := by
  cases a with
  | int x =>
    cases b with
    | int y => injection h with h; exact h.symm
    | inf m =>
      rw [Acc.mul] at h
      split at h <;> cases h
    | _ => simp [Acc.mul] at h
  | inf n =>
    cases b with
    | int y =>
      rw [Acc.mul] at h
      split at h <;> cases h
    | _ => simp [Acc.mul] at h
  | _ => cases b <;> simp [Acc.mul] at h

/-- Accumulated terms form an integer only if each is one: their sum onto the start. -/
theorem foldl_add_eq_int {l : List Acc} {z v : Int} (h : l.foldl Acc.add (.int z) = .int v) :
    (∀ a ∈ l, a = .int a.intPart) ∧ v = z + (l.map Acc.intPart).sum := by
  induction l using append_singleton_induction generalizing v with
  | nil => injection h with h; simp [h]
  | append_singleton l a ih =>
    rw [List.foldl_append] at h
    obtain ⟨x, hl, ha, hv⟩ := Acc.add_eq_int h
    obtain ⟨each, total⟩ := ih hl
    refine ⟨fun b hb => ?_, by simp [hv, total, Int.add_assoc]⟩
    rcases List.mem_append.mp hb with hb | hb
    · exact each b hb
    · rw [List.mem_singleton.mp hb]
      exact ha

/-- A row or column has a sum only if each of its accumulators is an integer (R230). -/
theorem accTotal_eq_some {l : List Acc} {t : Int} (h : accTotal l = some t) :
    (∀ a ∈ l, a = .int a.intPart) ∧ t = (l.map Acc.intPart).sum := by
  unfold accTotal at h
  induction l using append_singleton_induction generalizing t with
  | nil => injection h with h; simp [h]
  | append_singleton l a ih =>
    rw [List.foldl_append, List.foldl_cons, List.foldl_nil] at h
    split at h
    next v w hl =>
      injection h with h
      obtain ⟨each, total⟩ := ih hl
      refine ⟨fun b hb => ?_, by simp [← h, total]⟩
      rcases List.mem_append.mp hb with hb | hb
      · exact each b hb
      · rw [List.mem_singleton.mp hb]
        rfl
    next => cases h

/-! ## The cells and the checksum path of an exact pass -/

/-- The code 0 counts nothing in a sum, in every format (R34). -/
theorem codeInt_zero (f : Fmt) : codeInt f 0 = 0 := by
  have zero : decodeFp f 0 = .fin false 0 (2 ^ (f.bias + f.man)) := by simp [decodeFp, bitOf]
  cases h : f.isInt <;> simp [codeInt, codeAcc, h, zero, signedNum]

/-- An exact dot product that is finite is the sum of the products of the codes' values (R35). -/
theorem dotExact_eq_int {fa fw : Fmt} {a w : List Nat} {v : Int} (h : dotExact fa fw a w = .int v) :
    v = ((List.range w.length).map (fun k => codeInt fa (a.getD k 0) * codeInt fw (w.getD k 0))).sum := by
  obtain ⟨each, total⟩ := foldl_add_eq_int h
  rw [total, Int.zero_add, List.map_map, ← sum_zip_mul (codeInt fw) 0 (codeInt_zero fa)]
  refine congrArg List.sum (List.map_congr_left fun e he => ?_)
  rw [Function.comp_apply, Acc.mul_eq_int (each _ (List.mem_map_of_mem he)), intPart_codeAcc, intPart_codeAcc]

section
variable (p : Pass)

/-- The value in sums of element k of a row of a pass (R34). -/
def rowVal (a : List Nat) (k : Nat) : Int := codeInt p.rowFmt (a.getD k 0)

/-- The value in sums of element n of row k of a pass's tile (R34). -/
def tileVal (k n : Nat) : Int := codeInt p.tileFmt ((p.tile.getD k []).getD n 0)

/-- The accumulator of an exact pass for a row and a column (R35). -/
def passCell (a : List Nat) (n : Nat) : Acc := dotExact p.rowFmt p.tileFmt a (passCol p n)

/-- Element k of a tile column is element n of tile row k. -/
theorem codeInt_passCol (n k : Nat) : codeInt p.tileFmt ((passCol p n).getD k 0) = tileVal p k n := by
  simp only [tileVal, passCol, List.getD_eq_getElem?_getD, List.getElem?_map]
  cases p.tile[k]? <;> rfl

theorem length_passCol (n : Nat) : (passCol p n).length = p.tile.length := List.length_map _

/-- A running maximum is at least what it starts with and each element it goes over. -/
theorem le_foldl_max (l : List Nat) (b : Nat) : b ≤ l.foldl max b ∧ ∀ x ∈ l, x ≤ l.foldl max b := by
  induction l generalizing b with
  | nil => exact ⟨Nat.le_refl b, nofun⟩
  | cons a l ih =>
    obtain ⟨start, each⟩ := ih (max b a)
    rw [List.foldl_cons]
    refine ⟨by omega, fun x hx => ?_⟩
    rcases List.mem_cons.mp hx with rfl | hx
    · omega
    · exact each x hx

/-- No row of a tile is longer than its columns are many (R88). -/
theorem length_le_passCols {r : List Nat} (h : r ∈ p.tile) : r.length ≤ passCols p :=
  (le_foldl_max _ 0).2 _ (List.mem_map_of_mem h)

/-- The sum of a tile row runs over the columns of the pass. -/
theorem tileRow_sum (k : Nat) : ((p.tile.getD k []).map (codeInt p.tileFmt)).sum =
    ((List.range (passCols p)).map (tileVal p k)).sum := by
  refine sum_map_eq_sum_range (codeInt_zero _) ?_
  rw [List.getD_eq_getElem?_getD]
  cases h : p.tile[k]? with
  | none => exact Nat.zero_le _
  | some r => exact length_le_passCols p (List.mem_of_getElem? h)

/-- A finite cell of an exact pass is the sum of the products of its row and its column (R35). -/
theorem passCell_eq_int {a : List Nat} {n : Nat} {v : Int} (h : passCell p a n = .int v) :
    v = ((List.range p.tile.length).map (fun k => rowVal p a k * tileVal p k n)).sum := by
  have total := dotExact_eq_int h
  simp only [length_passCol, codeInt_passCol] at total
  exact total

/-- The own contribution of an exact pass is its cells. -/
theorem passOwn_of_exact (hp : passExact p = true) :
    passOwn p = p.rows.map (fun a => (List.range (passCols p)).map (passCell p a)) := by
  simp only [passOwn, hp, if_true]
  rfl

/-- The value that the checksum path forms for a row: the row against the sums of the tile's rows (R228). -/
def rowChecksum (a : List Nat) : Int :=
  let rho := p.tile.map (fun r => (r.map (codeInt p.tileFmt)).foldl (· + ·) 0)
  ((a.zip rho).map (fun g => codeInt p.rowFmt g.1 * g.2)).foldl (· + ·) 0

/-- The value that the checksum path forms for a column: the sums of the rows' columns against the column (R228). -/
def colChecksum (n : Nat) : Int :=
  let alpha := (List.range p.tile.length).map (fun k => (p.rows.map (fun a => codeInt p.rowFmt (a.getD k 0))).foldl (· + ·) 0)
  ((alpha.zip (passCol p n)).map (fun g => g.1 * codeInt p.tileFmt g.2)).foldl (· + ·) 0

theorem rowChecksum_eq (a : List Nat) : rowChecksum p a =
    ((List.range p.tile.length).map (fun k => rowVal p a k * ((List.range (passCols p)).map (tileVal p k)).sum)).sum := by
  simp only [rowChecksum, ← List.sum_eq_foldl, ← tileRow_sum]
  rw [sum_zip_mul (f := codeInt p.rowFmt) (fun v : Int => v) 0 (codeInt_zero _), List.length_map]
  refine congrArg List.sum (List.map_congr_left fun k hk => ?_)
  have hk : k < p.tile.length := List.mem_range.mp hk
  simp [rowVal, hk]

theorem colChecksum_eq (n : Nat) : colChecksum p n =
    ((List.range p.tile.length).map (fun k => (p.rows.map (fun a => rowVal p a k)).sum * tileVal p k n)).sum := by
  simp only [colChecksum, ← List.sum_eq_foldl]
  rw [sum_zip_mul (f := fun v : Int => v) (codeInt p.tileFmt) 0 rfl, length_passCol]
  refine congrArg List.sum (List.map_congr_left fun k hk => ?_)
  have hk : k < p.tile.length := List.mem_range.mp hk
  rw [codeInt_passCol]
  simp [rowVal, hk]

/-- A finite row of cells sums to what the checksum path forms for it (R228). -/
theorem accTotal_row {a : List Nat} {t : Int} (h : accTotal ((List.range (passCols p)).map (passCell p a)) = some t) :
    t = rowChecksum p a := by
  obtain ⟨each, total⟩ := accTotal_eq_some h
  calc t = ((List.range (passCols p)).map (fun n =>
        ((List.range p.tile.length).map (fun k => rowVal p a k * tileVal p k n)).sum)).sum := by
        rw [total, List.map_map]
        exact congrArg List.sum (List.map_congr_left fun n hn => passCell_eq_int p (each _ (List.mem_map_of_mem hn)))
    _ = rowChecksum p a := by
        rw [sum_sum_comm, rowChecksum_eq]
        simp only [sum_map_mul_left]

/-- A finite column of cells sums to what the checksum path forms for it (R228). -/
theorem accTotal_col {n : Nat} {t : Int} (h : accTotal (p.rows.map (fun a => passCell p a n)) = some t) : t = colChecksum p n := by
  obtain ⟨each, total⟩ := accTotal_eq_some h
  calc t = (p.rows.map (fun a =>
        ((List.range p.tile.length).map (fun k => rowVal p a k * tileVal p k n)).sum)).sum := by
        rw [total, List.map_map]
        exact congrArg List.sum (List.map_congr_left fun a ha => passCell_eq_int p (each _ (List.mem_map_of_mem ha)))
    _ = colChecksum p n := by
        rw [sum_sum_comm, colChecksum_eq]
        simp only [sum_map_mul_right]

end

/-! ## The checks of a fault-free exact pass -/

theorem passRowCheck_own {p : Pass} (hp : passExact p = true) : passRowCheck p .none (passOwn p) = none := by
  rw [passOwn_of_exact p hp]
  unfold passRowCheck
  rw [List.head?_eq_none_iff, List.filterMap_eq_nil_iff]
  rintro ⟨a, m⟩ he
  have ha := List.mem_zipIdx_iff_getElem?.mp he
  have row : (p.rows.map (fun a => (List.range (passCols p)).map (passCell p a))).getD m [] =
      (List.range (passCols p)).map (passCell p a) := by simp [ha]
  dsimp only
  rw [row]
  split
  next t ht => rw [if_pos (by rw [accTotal_row p ht, Int.add_zero]; rfl)]
  next => rfl

theorem passColCheck_own {p : Pass} (hp : passExact p = true) : passColCheck p (passOwn p) = none := by
  rw [passOwn_of_exact p hp]
  unfold passColCheck
  rw [List.head?_eq_none_iff, List.filterMap_eq_nil_iff]
  intro n hn
  have hn : n < passCols p := List.mem_range.mp hn
  have col : (p.rows.map (fun a => (List.range (passCols p)).map (passCell p a))).map (fun r => r.getD n (.int 0)) =
      p.rows.map (fun a => passCell p a n) := by simp [hn]
  dsimp only
  rw [col]
  split
  next t ht => exact if_pos (accTotal_col p ht)
  next => rfl

/-- The cells have the classes their operands give (R230). -/
theorem passClassCheck_own (p : Pass) : passClassCheck p (passOwn p) = none := by
  unfold passClassCheck
  rw [List.head?_eq_none_iff, List.filterMap_eq_nil_iff]
  rintro ⟨r, m⟩ he
  have hr := List.mem_zipIdx_iff_getElem?.mp he
  rw [Option.map_eq_none_iff, List.find?_eq_none]
  rintro ⟨a, n⟩ hg
  have ha := List.mem_zipIdx_iff_getElem?.mp hg
  simp [List.getD_eq_getElem?_getD, hr, ha]

/-- Settles O20: of an exact pass the cells and the checksum path sum the same products, in another order. -/
theorem exactPassesPassTheirChecks : Obligations.ExactPassesPassTheirChecks := by
  intro p hp
  simp [passCheck, hp, passRowCheck_own hp, passColCheck_own hp, passClassCheck_own]

end Sys2Proof.Machine
end

section
/-! SUPPORT. Sums in FXR64 and the exact reductions of the shared cache (R44, R47, R191, R349); with them the statement O28. -/

namespace Sys2Proof.Machine

/-! ## Sums in FXR64 -/

@[simp] theorem fxrAdd_marker_left (b : Int) : fxrAdd fxrMarker b = fxrMarker := if_pos (.inl rfl)

@[simp] theorem fxrAdd_marker_right (a : Int) : fxrAdd a fxrMarker = fxrMarker := if_pos (.inr rfl)

theorem fxrAdd_of_ne {a b : Int} (ha : a ≠ fxrMarker) (hb : b ≠ fxrMarker) : fxrAdd a b = a + b :=
  if_neg (not_or.mpr ⟨ha, hb⟩)

/-- A marker stays a marker whatever is added (R47). -/
theorem foldl_fxrAdd_marker (xs : List Int) : xs.foldl fxrAdd fxrMarker = fxrMarker := by
  induction xs with
  | nil => rfl
  | cons x xs ih => rw [List.foldl_cons, fxrAdd_marker_left, ih]

/-- One marker among the contributions makes the sum a marker (R47). -/
theorem foldl_fxrAdd_of_mem {xs : List Int} (h : fxrMarker ∈ xs) (a : Int) : xs.foldl fxrAdd a = fxrMarker := by
  obtain ⟨before, after, rfl⟩ := List.append_of_mem h
  rw [List.foldl_append, List.foldl_cons, fxrAdd_marker_right, foldl_fxrAdd_marker]

/-- An integer of magnitude below 2^63 is no marker (R44). -/
theorem ne_fxrMarker_of_lt {a : Int} (h : a.natAbs < 2 ^ 63) : a ≠ fxrMarker := by
  unfold fxrMarker
  omega

/-- As long as the magnitudes stay below 2^63 in total, the sum is that of the integers (R47). -/
theorem foldl_fxrAdd_eq_sum {xs : List Int} {a : Int} (h : a.natAbs + (xs.map Int.natAbs).sum < 2 ^ 63) :
    xs.foldl fxrAdd a = a + xs.sum := by
  induction xs generalizing a with
  | nil => exact (Int.add_zero a).symm
  | cons x xs ih =>
    rw [List.map_cons, List.sum_cons] at h
    rw [List.foldl_cons, fxrAdd_of_ne (ne_fxrMarker_of_lt (by omega)) (ne_fxrMarker_of_lt (by omega)), ih (by omega),
      List.sum_cons, Int.add_assoc]

theorem sum_le_length_mul {l : List Nat} {b : Nat} (h : ∀ m ∈ l, m ≤ b) : l.sum ≤ l.length * b := by
  induction l with
  | nil => exact Nat.zero_le _
  | cons a l ih =>
    obtain ⟨first, others⟩ := List.forall_mem_cons.mp h
    rw [List.sum_cons, List.length_cons, Nat.succ_mul, Nat.add_comm]
    exact Nat.add_le_add (ih others) first

/-- A sum of integers does not depend on the order. -/
theorem sum_perm {xs ys : List Int} (hp : xs.Perm ys) : xs.sum = ys.sum := by
  induction hp with
  | nil => rfl
  | cons x _ ih => rw [List.sum_cons, List.sum_cons, ih]
  | swap x y l => simp only [List.sum_cons, Int.add_left_comm]
  | trans _ _ ih ih' => exact ih.trans ih'

/-- Contributions each below an equal part of 2^63 stay below 2^63 in total (R46). -/
theorem sum_natAbs_lt {xs : List Int} (h : ∀ x ∈ xs, x.natAbs * xs.length < 2 ^ 63) : (xs.map Int.natAbs).sum < 2 ^ 63 := by
  have each : ∀ m ∈ xs.map Int.natAbs, m ≤ (2 ^ 63 - 1) / xs.length := by
    rintro _ hm
    obtain ⟨x, hx, rfl⟩ := List.mem_map.mp hm
    exact (Nat.le_div_iff_mul_le (List.length_pos_of_mem hx)).mpr (Nat.le_sub_one_of_lt (h x hx))
  have total := sum_le_length_mul each
  rw [List.length_map] at total
  exact Nat.lt_of_le_of_lt (Nat.le_trans total (Nat.mul_div_le _ _)) (by decide)

/-- Bounded contributions and markers give one sum in any order (R47, R349). -/
theorem foldl_fxrAdd_perm {xs ys : List Int} (hp : xs.Perm ys)
    (h : ∀ x ∈ xs, x = fxrMarker ∨ x.natAbs * xs.length < 2 ^ 63) : xs.foldl fxrAdd 0 = ys.foldl fxrAdd 0 := by
  by_cases hm : fxrMarker ∈ xs
  · rw [foldl_fxrAdd_of_mem hm, foldl_fxrAdd_of_mem (hp.mem_iff.mp hm)]
  · have bound := sum_natAbs_lt fun x hx => (h x hx).resolve_left fun e => hm (e ▸ hx)
    have bound' : (ys.map Int.natAbs).sum < 2 ^ 63 := sum_natAbs_lt fun x hx =>
      hp.length_eq ▸ (h x (hp.mem_iff.mpr hx)).resolve_left fun e => hm (e ▸ hp.mem_iff.mpr hx)
    rw [foldl_fxrAdd_eq_sum (by rwa [Int.natAbs_zero, Nat.zero_add]), foldl_fxrAdd_eq_sum (by rwa [Int.natAbs_zero, Nat.zero_add]),
      sum_perm hp]

/-! ## Two's complement -/

/-- The signed value of a code is its balanced remainder. -/
theorem toSigned_eq_bmod {w : Nat} (hw : 0 < w) (v : Nat) : toSigned w v = Int.bmod v (2 ^ w) := by
  obtain ⟨u, rfl⟩ : ∃ u, w = u + 1 := ⟨w - 1, by omega⟩
  have half : (((2 ^ (u + 1) : Nat) : Int) + 1) / 2 = (2 ^ u : Nat) := by
    rw [Nat.pow_succ]
    omega
  rw [Int.bmod_def, half, toSigned, Nat.add_sub_cancel]
  simp only [← Int.natCast_emod, Int.ofNat_lt]

/-- A code read as a signed number is the integer it came from, up to a multiple of 2^w. -/
theorem toSigned_ofSigned {w : Nat} (hw : 0 < w) (x : Int) : toSigned w (ofSigned w x) = Int.bmod x (2 ^ w) := by
  have code : (ofSigned w x : Int) = x % (2 ^ w : Nat) :=
    Int.toNat_of_nonneg (Int.emod_nonneg _ (Int.natCast_ne_zero.mpr (Nat.ne_of_gt (Nat.two_pow_pos w))))
  rw [toSigned_eq_bmod hw, code, Int.emod_bmod]

/-- A signed number of w bits is the same after it has been stored and read. -/
theorem toSigned_ofSigned_toSigned {w : Nat} (hw : 0 < w) (v : Nat) : toSigned w (ofSigned w (toSigned w v)) = toSigned w v := by
  rw [toSigned_ofSigned hw, toSigned_eq_bmod hw, Int.bmod_bmod]

/-- A sum may be stored and read before a further term is added. -/
theorem ofSigned_toSigned_ofSigned_add {w : Nat} (hw : 0 < w) (x y : Int) :
    ofSigned w (toSigned w (ofSigned w x) + y) = ofSigned w (x + y) := by
  rw [toSigned_ofSigned hw]
  unfold ofSigned
  rw [Int.add_emod, Int.bmod_emod, ← Int.add_emod]

/-- A choice between two signed numbers that does not depend on the order can be stored and read between two choices (R191). -/
theorem signed_choice_right_comm {w : Nat} (hw : 0 < w) {f : Int → Int → Int} (choice : ∀ x y, f x y = x ∨ f x y = y)
    (comm : ∀ x y z, f (f x y) z = f (f x z) y) (old a b : Nat) :
    ofSigned w (f (toSigned w (ofSigned w (f (toSigned w old) (toSigned w a)))) (toSigned w b)) =
      ofSigned w (f (toSigned w (ofSigned w (f (toSigned w old) (toSigned w b)))) (toSigned w a)) := by
  have stored (u v : Nat) : toSigned w (ofSigned w (f (toSigned w u) (toSigned w v))) = f (toSigned w u) (toSigned w v) := by
    rcases choice (toSigned w u) (toSigned w v) with e | e <;> rw [e, toSigned_ofSigned_toSigned hw]
  rw [stored, stored, comm]

/-! ## Accumulators of the floating-point formats -/

/-- An accumulator that is no FP32 word: an exact sum or a class. -/
def Acc.Exact (a : Acc) : Prop := ∀ w, a ≠ .f32 w

theorem slotAcc_exact (n : Nat) : (slotAcc .e4m3 n).Exact := by
  intro w h
  rw [slotAcc, if_neg (by decide), if_neg (by decide)] at h
  split at h <;> cases h

/-- A sum of exact accumulators is no FP32 word (R35, R38). -/
theorem Acc.add_exact {a b : Acc} (ha : a.Exact) (hb : b.Exact) : (a.add b).Exact := by
  intro w h
  cases a with
  | f32 x => exact ha x rfl
  | inf n =>
    cases b with
    | inf m =>
      rw [Acc.add] at h
      split at h <;> cases h
    | _ => cases h
  | _ => cases b <;> cases h

/-- Exact sums and classes add in any order (R37, R38). -/
theorem Acc.add_right_comm {a b c : Acc} (ha : a.Exact) (hb : b.Exact) (hc : c.Exact) :
    (a.add b).add c = (a.add c).add b := by
  cases b with
  | f32 w => exact absurd rfl (hb w)
  | _ =>
    cases c with
    | f32 w => exact absurd rfl (hc w)
    | _ =>
      cases a with
      | f32 w => exact absurd rfl (ha w)
      | _ => grind [Acc.add]

/-- An exact accumulator may be stored in its slot and read before a further one is added (R191; log 109). -/
theorem accSlot_slotAcc_add {a b : Acc} (ha : a.Exact) (hb : b.Exact) :
    accSlot .e4m3 ((slotAcc .e4m3 (accSlot .e4m3 a)).add b) = accSlot .e4m3 (a.add b) := by
  cases a with
  | f32 w => exact absurd rfl (ha w)
  | nan i => cases i <;> rfl
  | inf n => cases n <;> rfl
  | int v =>
    have small : ofSigned 96 v / 2 ^ 96 = 0 := Nat.div_eq_of_lt (by unfold ofSigned; omega)
    have read : slotAcc .e4m3 (accSlot .e4m3 (.int v)) = .int (toSigned 96 (ofSigned 96 v)) := by
      rw [accSlot, if_neg (by decide), slotAcc, if_neg (by decide), if_neg (by decide), small]
      rfl
    rw [read]
    cases b with
    | f32 w => exact absurd rfl (hb w)
    | int y => exact ofSigned_toSigned_ofSigned_add (by decide) v y
    | _ => rfl

/-! ## Reductions of the cache -/

/-- A combine of integer accumulators, as their slots hold them (R37, R191). -/
theorem cacheApply_accInt (old v : Nat) : cacheApply .accInt old v = ofSigned 64 (toSigned 64 old + toSigned 64 v) := rfl

/-- A combine of floating-point accumulators, as their slots hold them (R38, R191). -/
theorem cacheApply_accFp (old v : Nat) : cacheApply .accFp old v = accSlot .e4m3 ((slotAcc .e4m3 old).add (slotAcc .e4m3 v)) := rfl

/-- Two contributions to an integer, accumulator or OR target give one value in either order (R191, R349). -/
theorem cacheApply_right_comm {op : CacheOp}
    (h : op ∈ [CacheOp.add32, .add64, .accInt, .accFp, .max32, .min32, .max64, .min64, .or32]) (old a b : Nat) :
    cacheApply op (cacheApply op old a) b = cacheApply op (cacheApply op old b) a := by
  cases op with
  | add32 | add64 =>
    simp only [cacheApply, Nat.mod_add_mod]
    rw [Nat.add_right_comm]
  | accInt =>
    simp only [cacheApply_accInt]
    rw [ofSigned_toSigned_ofSigned_add (by decide), ofSigned_toSigned_ofSigned_add (by decide), Int.add_right_comm]
  | accFp =>
    simp only [cacheApply_accFp]
    have exact_sum (u v : Nat) := Acc.add_exact (slotAcc_exact u) (slotAcc_exact v)
    rw [accSlot_slotAcc_add (exact_sum _ _) (slotAcc_exact _), accSlot_slotAcc_add (exact_sum _ _) (slotAcc_exact _),
      Acc.add_right_comm (slotAcc_exact _) (slotAcc_exact _) (slotAcc_exact _)]
  | max32 | max64 => exact signed_choice_right_comm (by decide) (by omega) (by omega) old a b
  | min32 | min64 => exact signed_choice_right_comm (by decide) (by omega) (by omega) old a b
  | or32 =>
    simp only [cacheApply, Nat.or_mod_two_pow, Nat.mod_mod]
    rw [Nat.or_assoc, Nat.or_comm (a % 2 ^ 32), ← Nat.or_assoc]
  | _ => simp at h

/-- Settles O28: no bounded sum meets the marker, and a target reads back what was combined before. -/
theorem sumsAreFreeOfOrder : Obligations.SumsAreFreeOfOrder :=
  ⟨fun _ _ => foldl_fxrAdd_perm, fun _ h => foldl_fxrAdd_of_mem h 0, fun _ old a b h => cacheApply_right_comm h old a b⟩

end Sys2Proof.Machine
end

section
/-! SUPPORT. How a fault-free exact pass ends: its checks, what its step and its core take (R35, R89, R96, R123, R228, R231, R233,
R239); with them the statement O22. -/

namespace Sys2Proof.Machine

/-! ## The checks of the sums, the partials and the drain -/

/-- The zero-point sums of a fault-free pass are those of the checker (R228). -/
theorem passSumCheck_none (p : Pass) : passSumCheck p .none = none := by
  simp [passSumCheck, faultRowSums, faultColSums]

/-- A tile that went through no turn path, or came out of it as it went in, passes the block sum check (R233). -/
theorem passTurnCheck_none {p : Pass} (h : p.turn = false ∨ p.src = p.tile) : passTurnCheck p = none := by
  rcases h with h | h <;> simp [passTurnCheck, h]

/-- Partials with no error in them pass the residue check (R231). -/
theorem passPartCheck_self (acc : List (List Acc)) : passPartCheck acc acc = none := by
  unfold passPartCheck
  rw [List.head?_eq_none_iff, List.filterMap_eq_nil_iff]
  rintro ⟨r, m⟩ he
  have hr : acc.getD m [] = r := by simp [List.mem_zipIdx_iff_getElem?.mp he]
  dsimp only
  rw [hr]
  cases accTotal r <;> simp

/-- No check of the turn path, the array and the partials fails in a fault-free exact pass (R226, R228, R231, R233). -/
theorem passAccFailure_none {p : Pass} (hp : passExact p = true) (ht : p.turn = false ∨ p.src = p.tile) (acc : List (List Acc)) :
    passAccFailure p .none (passOwn p) acc acc = none := by
  simp [passAccFailure, passTurnCheck_none ht, exactPassesPassTheirChecks p hp, passSumCheck_none, passPartCheck_self]

/-- A row or column that has a sum is a list of integers with that sum (R230). -/
theorem ints_of_accTotal {l : List Acc} {t : Int} (h : accTotal l = some t) :
    ∃ vs : List Int, l = vs.map .int ∧ t = vs.sum := by
  obtain ⟨each, total⟩ := accTotal_eq_some h
  refine ⟨l.map Acc.intPart, ?_, total⟩
  rw [List.map_map]
  exact (List.map_id' l).symm.trans (List.map_congr_left each)

/-- The corrected sums of a row, over the columns at once (R40, R231). -/
theorem sum_corrected (zw za k : Nat) (rowSum : Int) {vs cs : List Int} (h : vs.length = cs.length) :
    (vs.zipIdx.map (fun g => corrected zw za k rowSum (cs.getD g.2 0) g.1)).sum =
      vs.sum - zw * vs.length * rowSum - za * cs.sum + vs.length * k * za * zw := by
  have sides : vs.zipIdx.map (fun g => corrected zw za k rowSum (cs.getD g.2 0) g.1) =
      List.zipWith (fun v c => corrected zw za k rowSum c v) vs cs := by
    refine List.ext_getElem (by simp [h]) fun i hi hj => ?_
    have hc : i < cs.length := by simpa [h] using hi
    simp [hc]
  rw [sides]
  clear sides
  induction vs generalizing cs with
  | nil => simp [List.length_eq_zero_iff.mp h.symm]
  | cons v vs ih =>
    obtain _ | ⟨c, cs⟩ := cs
    · simp at h
    · rw [List.zipWith_cons_cons, List.sum_cons, ih (Nat.succ.inj h), List.sum_cons, List.sum_cons, List.length_cons, corrected]
      rw [Int.natCast_succ]
      grind

theorem accTotal_map_int (vs : List Int) : accTotal (vs.map .int) = some vs.sum := by
  unfold accTotal
  induction vs using append_singleton_induction with
  | nil => rfl
  | append_singleton vs v ih => simp [ih]

/-- The sum of a corrected finite row, as the drain identity has it (R231). -/
theorem accTotal_corrected (zw za k : Nat) (rowSum : Int) {vs cs : List Int} (h : vs.length = cs.length) :
    accTotal (vs.zipIdx.map (fun g => .int (corrected zw za k rowSum (cs.getD g.2 0) g.1))) =
      some (vs.sum - zw * vs.length * rowSum - za * cs.sum + vs.length * k * za * zw) := by
  rw [← sum_corrected zw za k rowSum h, ← accTotal_map_int, List.map_map]
  rfl

/-- Every row of the contribution of a pass has the columns of its tile. -/
theorem length_of_mem_passOwn {p : Pass} {r : List Acc} (h : r ∈ passOwn p) : r.length = passCols p := by
  obtain ⟨a, -, rfl⟩ := List.mem_map.mp h
  simp

theorem length_passColSums (p : Pass) : (passColSums p).length = passCols p := by
  simp [passColSums]

/-- A pass that is its whole contraction meets the drain identity (R231). -/
theorem passDrainCheck_own (p : Pass) : passDrainCheck p (passOwn p) (passOwn p) (passRowSums p) (passColSums p) = none := by
  unfold passDrainCheck
  cases hi : p.tileFmt.isInt with
  | false => rfl
  | true =>
    simp only [Bool.not_true, Bool.false_eq_true, if_false]
    rw [List.head?_eq_none_iff, List.filterMap_eq_nil_iff]
    rintro ⟨r, m⟩ he
    have hm := List.mem_zipIdx_iff_getElem?.mp he
    have row : (passOwn p).getD m [] = r := by simp [hm]
    have width := length_of_mem_passOwn (List.mem_of_getElem? hm)
    dsimp only
    rw [row]
    cases ht : accTotal r with
    | none => rfl
    | some t =>
      obtain ⟨vs, rfl, rfl⟩ := ints_of_accTotal ht
      rw [List.length_map, ← length_passColSums] at width
      have drained := accTotal_corrected p.tileRec.zp p.rowRec.zp p.kTotal ((passRowSums p).getD m 0) width
      simp only [List.zipIdx_map, List.map_map, Function.comp_def, Prod.map, id, drained]
      rw [List.take_of_length_le (Nat.le_of_eq (length_passColSums p)), ← List.sum_eq_foldl, width, length_passColSums]
      simp

/-! ## Blocks and records after a step has noted something -/

@[simp] theorem Ctx.updStep_prog (x : Ctx) (n : Nat) (f : Step → Step) : (x.updStep n f).prog = x.prog := rfl
@[simp] theorem Ctx.updStep_committed (x : Ctx) (n : Nat) (f : Step → Step) : (x.updStep n f).committed = x.committed := rfl
@[simp] theorem Ctx.updStep_committedRecs (x : Ctx) (n : Nat) (f : Step → Step) :
    (x.updStep n f).committedRecs = x.committedRecs := rfl

@[simp] theorem Step.orFlags_number (tensor inst : Nat) (g : Flags) (t : Step) :
    (t.orFlags tensor inst g).number = t.number := rfl
@[simp] theorem Step.orFlags_records (tensor inst : Nat) (g : Flags) (t : Step) :
    (t.orFlags tensor inst g).records = t.records := rfl
@[simp] theorem Step.orFlags_outTiles (tensor inst : Nat) (g : Flags) (t : Step) :
    (t.orFlags tensor inst g).outTiles = t.outTiles := rfl

section
variable {f : Step → Step} (hn : ∀ t, (f t).number = t.number)
include hn

/-- A change that keeps step numbers keeps which step has which number. -/
theorem stepNo_updStep (s : State) (c : CtxId) (m n : Nat) : ((s.updStep c m f).ctx c).stepNo n =
    ((s.ctx c).stepNo n).map (fun t => if t.number = m then f t else t) := by
  have same : (fun t : Step => t.number == n) ∘ (fun t => if t.number = m then f t else t) = fun t => t.number == n := by
    funext t
    rw [Function.comp_apply]
    split
    · rw [hn]
    · rfl
  simp only [State.updStep, State.ctx_updCtx_same, Ctx.updStep, Ctx.stepNo, List.find?_map, same]

theorem stepNow_updStep (s : State) (c : CtxId) (m n : Nat) : (s.updStep c m f).stepNow c n = s.stepNow c n := by
  unfold State.stepNow
  rw [stepNo_updStep hn]
  cases (s.ctx c).stepNo n with
  | none => simp [State.updStep]
  | some t => dsimp only [Option.map_some]; split <;> simp [hn]

theorem weightNow_updStep (s : State) (c : CtxId) (m n : Nat) : (s.updStep c m f).weightNow c n = s.weightNow c n := by
  unfold State.weightNow
  rw [stepNo_updStep hn]
  cases (s.ctx c).stepNo n with
  | none => simp [State.updStep]
  | some t => dsimp only [Option.map_some]; split <;> simp [hn]

variable (hr : ∀ t, (f t).records = t.records)
include hr

theorem recNow_updStep (s : State) (c : CtxId) (m n tensor inst : Nat) :
    (s.updStep c m f).recNow c n tensor inst = s.recNow c n tensor inst := by
  unfold State.recNow
  rw [stepNo_updStep hn]
  cases (s.ctx c).stepNo n with
  | none => simp [State.updStep]
  | some t => dsimp only [Option.map_some]; split <;> simp [hr]

theorem outRec_updStep (s : State) (c : CtxId) (m n tensor inst : Nat) :
    (s.updStep c m f).outRec c n tensor inst = s.outRec c n tensor inst := by
  unfold State.outRec
  rw [recNow_updStep hn hr]

theorem versionOf_updStep (s : State) (c : CtxId) (m n : Nat) (b : BlockIdent) :
    (s.updStep c m f).versionOf c n b = s.versionOf c n b := by
  have prog : ((s.updStep c m f).ctx c).prog = (s.ctx c).prog := by simp [State.updStep]
  unfold State.versionOf
  rw [recNow_updStep hn hr, weightNow_updStep hn, stepNow_updStep hn, prog]

/-- The blocks a run writes carry the version of its tensor, which a note of the step does not change (R124). -/
theorem runBlocks_updStep (s : State) (c : CtxId) (m n : Nat) (rs : List BlockRef) (bytes : List Byte) :
    (s.updStep c m f).runBlocks c n rs bytes = s.runBlocks c n rs bytes := by
  unfold State.runBlocks State.newBlock
  simp only [versionOf_updStep hn hr, stepNow_updStep hn]

end

/-- The state in which a pass that raised no flags has gone through the word of its output tensor (R112). -/
def State.noteFlags (s : State) (p : Pass) : State :=
  if p.regrow then s else s.updStep p.ctx p.step (fun t => t.orFlags p.outTensor p.outInst {})

section
variable (s : State) (p : Pass)

/-- What holds of a state and after its step has taken no flags holds once a pass has noted its flags. -/
theorem noteFlags_intro {P : State → Prop} (same : P s)
    (noted : P (s.updStep p.ctx p.step (fun t => t.orFlags p.outTensor p.outInst {}))) : P (s.noteFlags p) := by
  unfold State.noteFlags
  split
  · exact same
  · exact noted

theorem noteFlags_changes : OnlyChanges [.ctxs] s (s.noteFlags p) :=
  noteFlags_intro s p (onlyChanges_refl _ s) (updStep_changes s _ _ _)

theorem noteFlags_otherCtxs : OtherCtxs p.ctx s (s.noteFlags p) :=
  noteFlags_intro s p (fun _ _ => rfl) (updCtx_otherCtxs s _ _)

theorem noteFlags_core (l : CoreId) : (s.noteFlags p).core l = s.core l :=
  noteFlags_intro (P := fun t => t.core l = s.core l) s p rfl rfl

theorem noteFlags_prog : ((s.noteFlags p).ctx p.ctx).prog = (s.ctx p.ctx).prog :=
  noteFlags_intro (P := fun t => (t.ctx p.ctx).prog = (s.ctx p.ctx).prog) s p rfl (by simp [State.updStep])

theorem runBlocks_noteFlags (rs : List BlockRef) (bytes : List Byte) :
    (s.noteFlags p).runBlocks p.ctx p.step rs bytes = s.runBlocks p.ctx p.step rs bytes :=
  noteFlags_intro (P := fun t => t.runBlocks p.ctx p.step rs bytes = s.runBlocks p.ctx p.step rs bytes) s p rfl
    (runBlocks_updStep (Step.orFlags_number _ _ _) (Step.orFlags_records _ _ _) s _ _ _ rs bytes)

theorem outRec_noteFlags (tensor inst : Nat) :
    (s.noteFlags p).outRec p.ctx p.step tensor inst = s.outRec p.ctx p.step tensor inst :=
  noteFlags_intro (P := fun t => t.outRec p.ctx p.step tensor inst = s.outRec p.ctx p.step tensor inst) s p rfl
    (outRec_updStep (Step.orFlags_number _ _ _) (Step.orFlags_records _ _ _) s _ _ _ tensor inst)

theorem drainBlocks_noteFlags (out out2 : ScaleRec) (codes : List (List Nat)) (d : Drained) :
    (s.noteFlags p).drainBlocks p out out2 codes d = s.drainBlocks p out out2 codes d := by
  simp only [State.drainBlocks, runBlocks_noteFlags]

end

/-! ## What a fault-free exact pass delivers -/

/-- The outputs of a pass that is its whole contraction (R39–R41, R96). -/
def State.passDrained (s : State) (p : Pass) : Drained :=
  drainAll p (s.outRec p.ctx p.step p.outTensor p.outInst) (s.outRec p.ctx p.step p.out2 p.outInst) (passOwn p)
    (passRowSums p, passColSums p)

/-- The blocks those outputs are written to (R123). -/
def State.passDrainBlocks (s : State) (p : Pass) : List (Fin 2048 × SpadBlock) :=
  s.drainBlocks p (s.outRec p.ctx p.step p.outTensor p.outInst) (s.outRec p.ctx p.step p.out2 p.outInst)
    (elCodes (s.passDrained p).one) (s.passDrained p)

/-- What the step of the pass takes of those outputs (R96, R112, R144). -/
def State.stepDrained (s : State) (p : Pass) (t : Step) : Step :=
  t.takeDrained ((((s.ctx p.ctx).prog.map (·.gradTensors)).getD []).map (fun g => g.1)) p
    (s.outRec p.ctx p.step p.outTensor p.outInst) (s.outRec p.ctx p.step p.out2 p.outInst) (elCodes (s.passDrained p).one)
    (s.passDrained p)

theorem passDrained_noteFlags (s : State) (p : Pass) : (s.noteFlags p).passDrained p = s.passDrained p := by
  simp only [State.passDrained, outRec_noteFlags]

theorem passDrainBlocks_noteFlags (s : State) (p : Pass) : (s.noteFlags p).passDrainBlocks p = s.passDrainBlocks p := by
  simp only [State.passDrainBlocks, passDrained_noteFlags, outRec_noteFlags, drainBlocks_noteFlags]

theorem stepDrained_noteFlags (s : State) (p : Pass) : (s.noteFlags p).stepDrained p = s.stepDrained p := by
  funext t
  simp only [State.stepDrained, passDrained_noteFlags, outRec_noteFlags, noteFlags_prog]

/-- A core that has drained an output block: its blocks written, the passes of the block no longer begun, its output standing (R92,
R96, R102). -/
def CoreSt.takeDrain (x : CoreSt) (p : Pass) (d : Drained) (bs : List (Fin 2048 × SpadBlock)) : CoreSt :=
  { x.putBlocks bs with
    begun := x.begun.filter (fun e => !(e.1 == p.step && sameBlock e.2 p.toPassOrder)), mx := { x.mx with out := elCodes d.one } }

/-- The partials a pass adds to: those its core's slots hold, none for the first of its output block (R89). -/
def CoreSt.partialBefore (x : CoreSt) (p : Pass) : Partial := if p.firstK then {} else x.readPartial p.toPassOrder

/-- The partials after a fault-free pass (R89, R90). -/
def partialAfter (p : Pass) (old : Partial) : Partial :=
  ⟨passAccum p old (passOwn p), addSums p.firstK old.rowSum (passRowSums p), addSums p.firstK old.colSum (passColSums p)⟩

theorem passAccum_first {p : Pass} (h : p.firstK = true) (old : Partial) (own : List (List Acc)) : passAccum p old own = own :=
  if_pos h

theorem addSums_first (old new : List Int) : addSums true old new = new := rfl

theorem partialAfter_first {p : Pass} (h : p.firstK = true) (old : Partial) :
    partialAfter p old = ⟨passOwn p, passRowSums p, passColSums p⟩ := by
  rw [partialAfter, passAccum_first h, h, addSums_first, addSums_first]

theorem partialBefore_later {p : Pass} (h : p.firstK = false) (x : CoreSt) : x.partialBefore p = x.readPartial p.toPassOrder := by
  simp [CoreSt.partialBefore, h]

theorem partialAfter_later {p : Pass} (h : p.firstK = false) (old : Partial) : partialAfter p old =
    ⟨passAccum p old (passOwn p), addSums false old.rowSum (passRowSums p), addSums false old.colSum (passColSums p)⟩ := by
  rw [partialAfter, h]

/-- An exact pass raises no flags, whatever its tile (R35, R112). -/
theorem passFlags_exact {p : Pass} (hp : passExact p = true) (tile : List (List Nat)) (prev : Partial) :
    passFlags { p with tile := tile } prev = {} := if_pos hp

section
variable {p : Pass} (hp : passExact p = true) (ht : p.turn = false ∨ p.src = p.tile)
include hp ht

/-- A fault-free exact pass that is not the last of its output block leaves its partials in their slots (R89, R96). -/
theorem deliverPass_partial (s : State) (k : CoreId) (hout : p.out = .partialAcc) :
    s.deliverPass k p .none = (s.noteFlags p).updCore k (fun x => x.putBlocks (s.runBlocks p.ctx p.step p.partRefs
      (partialBytes p.toPassOrder (partialAfter p ((s.core k).partialBefore p))))) := by
  unfold State.deliverPass
  simp only [passFlags_exact hp, hout, if_true, faultAcc, faultPartial, passAccFailure_none hp ht, State.passReport, faultRowSums,
    faultColSums]
  rw [← runBlocks_noteFlags s]
  simp only [State.noteFlags, partialAfter, CoreSt.partialBefore]

/-- A fault-free exact pass that is its whole contraction drains: its outputs go to their blocks and to the step (R96, R123). -/
theorem deliverPass_drain (s : State) (k : CoreId) (hout : p.out ≠ .partialAcc) (hf : p.firstK = true) (hsplit : p.tSplit = none) :
    s.deliverPass k p .none = ((s.noteFlags p).updCore k (fun x => x.takeDrain p (s.passDrained p) (s.passDrainBlocks p))).updStep
      p.ctx p.step (s.stepDrained p) := by
  unfold State.deliverPass
  extract_lets prev mode good own sums accGood acc pr right sumsR accFail g s1 put out out2 drained d dRight seen drainFail fail
    grads written correct s2 s3 s4 tiles
  rw [if_neg hout]
  have noted : s1 = s.noteFlags p := by
    unfold State.noteFlags
    rw [← passFlags_exact hp p.src prev]
  have whole : acc = passOwn p := passAccum_first hf prev own
  have total : sums .none = (passRowSums p, passColSums p) := by
    simp only [sums, hf, addSums_first, faultRowSums, faultColSums]
  have outputs : d = s1.passDrained p := by
    show drainAll p out out2 acc (sums .none) = _
    rw [whole, total]
    rfl
  have passed : fail = none := by
    have first : accFail = none := passAccFailure_none hp ht accGood
    have second : drainFail = none := by
      show (passDrainCheck p acc acc (sums .none).1 (sums .none).2).map _ = none
      rw [whole, total, passDrainCheck_own]
      rfl
    show (accFail.orElse fun _ => drainFail).orElse _ = none
    rw [first, second]
    rfl
  have kept : s4 = s3 := by simp only [s4, State.depositChunks, hsplit]
  rw [passed, kept]
  show s3 = _
  simp only [s3, passed, Option.isSome_none, Bool.false_eq_true, if_false]
  rw [← passDrained_noteFlags s, ← passDrainBlocks_noteFlags s, ← stepDrained_noteFlags s, ← noted, ← outputs]
  show (s1.updCore k _).updStep p.ctx p.step _ = _
  unfold State.stepDrained State.passDrainBlocks
  rw [← outputs]
  rfl

end

/-! ## The output tile of the step -/

section
variable {α β : Type} [DecidableEq α]

theorem AL_find_set_same (k : α) (v : β) (m : AL α β) : AL.find? k (AL.set k v m) = some v := by
  induction m with
  | nil => simp [AL.set, AL.find?]
  | cons e m ih => by_cases h : e.1 = k <;> simp [AL.set, AL.find?, h, ih]

theorem AL_find_set_other {k k' : α} (h : k' ≠ k) (v : β) (m : AL α β) : AL.find? k (AL.set k' v m) = AL.find? k m := by
  induction m with
  | nil => simp [AL.set, AL.find?, h]
  | cons e m ih =>
    by_cases same : e.1 = k'
    · simp [AL.set, AL.find?, same, h]
    · simp [AL.set, AL.find?, same, ih]

end

/-- A change made for each element of a list keeps what each change keeps. -/
theorem foldl_keeps {α β γ : Type} {g : β → γ} {f : β → α → β} (h : ∀ b a, g (f b a) = g b) (l : List α) (b : β) :
    g (l.foldl f b) = g b := by
  induction l generalizing b with
  | nil => rfl
  | cons a l ih => exact (ih _).trans (h b a)

theorem takeFlags_outTiles (t : Step) (o : DrainOut) (tensor inst : Nat) (els : List DrainEl) :
    (t.takeFlags o tensor inst els).outTiles = t.outTiles := by
  have flags := foldl_keeps (g := Step.outTiles) (f := fun (t : Step) (e : DrainEl) => t.orFlags tensor inst e.2.1)
    (fun _ _ => rfl) els t
  unfold Step.takeFlags
  dsimp only
  split
  · exact (foldl_keeps (g := Step.outTiles) (f := fun (t : Step) (e : DrainEl) =>
      t.noteFxr tensor (if (f32 e.2.2.1).isFin then e.2.2.1 else 0) e.2.2.2) (fun _ _ => rfl) els _).trans flags
  · exact flags

/-- The outputs of an output block stand as the tile of its tensor, index, row and column (R96). -/
theorem takeOutput_outTiles (t : Step) (p : Pass) (tensor inst : Nat) (out : ScaleRec) (rows : List (List Nat))
    (els : List DrainEl) :
    (t.takeOutput p tensor inst out rows els).outTiles = AL.set (tensor, inst, p.outRow, p.outCol) rows t.outTiles := by
  unfold Step.takeOutput
  dsimp only
  split <;> split <;> exact takeFlags_outTiles _ p.out tensor inst els

/-- The output tile of a pass stands in its step (R96, R144). -/
theorem takeDrained_outTile {grads : List Nat} {p : Pass} (hg : p.regrow = false) (hn : p.outTensor ∉ grads)
    (h2 : p.out2 ≠ p.outTensor) (ht : ∀ r ∈ p.tRefs, r.ident.tensor ≠ p.outTensor) (t : Step) (out out2 : ScaleRec)
    (codes : List (List Nat)) (d : Drained) :
    AL.find? (p.outTensor, p.outInst, p.outRow, p.outCol) (t.takeDrained grads p out out2 codes d).outTiles = some codes := by
  have first : AL.find? (p.outTensor, p.outInst, p.outRow, p.outCol)
      ((t.takeOutput p p.outTensor p.outInst out codes d.one.flatten).takeSums p d).outTiles = some codes := by
    unfold Step.takeSums
    split
    · rw [takeOutput_outTiles, AL_find_set_same]
    next r rs hr =>
      have other : r.ident.tensor ≠ p.outTensor := ht r (by simp [hr])
      rw [Step.orFlags_outTiles, AL_find_set_other (by simp [other]), takeOutput_outTiles, AL_find_set_same]
  unfold Step.takeDrained
  rw [if_neg (by simp [hg]), if_neg (by simpa using hn)]
  dsimp only
  split
  · rw [takeOutput_outTiles, AL_find_set_other (by simp [h2]), first]
  · exact first

/-! ## The end of a pass -/

/-- A core whose oldest pass has left its array, counted as one tile operation (R239). -/
def CoreSt.leavePass (x : CoreSt) : CoreSt :=
  { x with ops := x.ops + 1, mx := { x.mx with running := x.mx.running.drop 1 } }

/-- The state in which the oldest pass of a core has left its array, before it delivers (R239). -/
def State.leavePass (s : State) (k : CoreId) : State :=
  (s.countOp k).updCore k (fun x => { x with mx := { x.mx with running := x.mx.running.drop 1 } })

theorem finishPass_eq (s : State) (k : CoreId) (p : Pass) (f : PassFault) :
    s.finishPass k p f = (s.leavePass k).deliverPass k p f := rfl

theorem leavePass_core (s : State) (k : CoreId) : (s.leavePass k).core k = (s.core k).leavePass := by
  simp [State.leavePass, State.countOp, CoreSt.leavePass]

theorem runBlocks_leavePass (s : State) (k : CoreId) (c : CtxId) (n : Nat) (rs : List BlockRef) (bytes : List Byte) :
    (s.leavePass k).runBlocks c n rs bytes = s.runBlocks c n rs bytes := rfl

theorem leavePass_changes (s : State) (k : CoreId) : OnlyChanges [.cores] s (s.leavePass k) :=
  onlyChanges_trans (updCore_changes s k _) (updCore_changes _ k _)

theorem updCore_otherCores (s : State) (k : CoreId) (f : CoreSt → CoreSt) : OtherCores k s (s.updCore k f) :=
  fun _ hl => State.core_updCore_other s (Ne.symm hl) f

theorem leavePass_otherCores (s : State) (k : CoreId) : OtherCores k s (s.leavePass k) := fun l hl =>
  (updCore_otherCores _ k _ l hl).trans (updCore_otherCores s k _ l hl)

section
variable (s : State) (k : CoreId) (p : Pass) (f : CoreSt → CoreSt)

/-- A state in which a pass has left, its step has noted its flags and its core has taken what it delivers. -/
def State.passTaken : State := ((s.leavePass k).noteFlags p).updCore k f

theorem passTaken_core : (s.passTaken k p f).core k = f (s.core k).leavePass := by
  rw [State.passTaken, State.core_updCore_same, noteFlags_core, leavePass_core]

theorem passTaken_otherCores : OtherCores k s (s.passTaken k p f) := fun l hl =>
  (updCore_otherCores _ k f l hl).trans ((noteFlags_core _ p l).trans (leavePass_otherCores s k l hl))

theorem passTaken_otherCtxs : OtherCtxs p.ctx s (s.passTaken k p f) := noteFlags_otherCtxs (s.leavePass k) p

theorem passTaken_changes : OnlyChanges [.cores, .ctxs] s (s.passTaken k p f) :=
  onlyChanges_then (onlyChanges_then (onlyChanges_mono (leavePass_changes s k) (by simp)) (noteFlags_changes _ p) (by simp))
    (updCore_changes _ k f) (by simp)

end

theorem endPass_of_first {s : State} {k : CoreId} {p : Pass} (f : PassFault) (h : p.firstK = true) :
    s.endPass k p f = s.finishPass k p f := if_pos h

/-- A later pass of its output block ends where its partials are certain and its slots read well (R89, R125). -/
theorem endPass_of_reads {s : State} {k : CoreId} {p : Pass} (f : PassFault) (h : p.firstK = false)
    (hd : (s.core k).blockInDoubt p = false) (hr : s.readsBad k p.ctx p.step { op := p.outTensor } false p.partRefs = none) :
    s.endPass k p f = s.finishPass k p f := by
  simp [State.endPass, h, hd, hr]

theorem execMxPassComplete_running {k : CoreId} {p : Pass} {ps : List Pass} {s : State} (f : PassFault)
    (hr : (s.core k).mx.running = p :: ps) (ha : (s.core k).status = .active) (hi : s.inReset (.core k) = false) :
    exec (.mxPassComplete k f) s = .next (s.endPass k p f) := by
  show execMxPassComplete k f s = _
  simp [execMxPassComplete, hr, ha, hi]

theorem execMxPassComplete_idle (k : CoreId) (f : PassFault) (s : State) (hr : (s.core k).mx.running = []) :
    exec (.mxPassComplete k f) s = .next s := by
  show execMxPassComplete k f s = _
  simp [execMxPassComplete, hr]

/-- A fault-free exact pass that is not the last of its output block ends with its partials in their slots (R89, R96). -/
theorem finishPass_partial {p : Pass} (hp : passExact p = true) (ht : p.turn = false ∨ p.src = p.tile) (hout : p.out = .partialAcc)
    (s : State) (k : CoreId) : s.finishPass k p .none = s.passTaken k p (fun x => x.putBlocks (s.runBlocks p.ctx p.step p.partRefs
      (partialBytes p.toPassOrder (partialAfter p ((s.core k).partialBefore p))))) := by
  have before : (s.core k).leavePass.partialBefore p = (s.core k).partialBefore p := rfl
  rw [finishPass_eq, deliverPass_partial hp ht _ k hout, leavePass_core, before, runBlocks_leavePass]
  rfl

/-- A fault-free exact pass that is its whole contraction ends with its outputs drained (R96, R123). -/
theorem finishPass_drain {p : Pass} (hp : passExact p = true) (ht : p.turn = false ∨ p.src = p.tile) (hout : p.out ≠ .partialAcc)
    (hf : p.firstK = true) (hsplit : p.tSplit = none) (s : State) (k : CoreId) :
    s.finishPass k p .none = (s.passTaken k p (fun x => x.takeDrain p (s.passDrained p) (s.passDrainBlocks p))).updStep
      p.ctx p.step (s.stepDrained p) := by
  rw [finishPass_eq, deliverPass_drain hp ht _ k hout hf hsplit]
  rfl

theorem leavePass_running {x : CoreSt} {p : Pass} {ps : List Pass} (h : x.mx.running = p :: ps) : x.leavePass.mx.running = ps := by
  simp [CoreSt.leavePass, h]

/-! ## The step of a drained pass -/

theorem noteFlags_ctx {p : Pass} (s : State) (hg : p.regrow = false) : (s.noteFlags p).ctx p.ctx =
    (s.ctx p.ctx).updStep p.step (fun t => t.orFlags p.outTensor p.outInst {}) := by
  simp [State.noteFlags, hg, State.updStep]

/-- A context whose one provisional step is changed has that step changed. -/
theorem updStep_steps_single {x : Ctx} {u : Step} {n : Nat} (hu : x.steps = [u]) (hn : u.number = n) (f : Step → Step) :
    (x.updStep n f).steps = [f u] := by
  simp [Ctx.updStep, hu, hn]

/-- The steps of a context of one provisional step after a pass of it has drained. -/
theorem passTaken_steps {s : State} {k : CoreId} {p : Pass} {u : Step} (hg : p.regrow = false) (hu : (s.ctx p.ctx).steps = [u])
    (hn : u.number = p.step) (f : CoreSt → CoreSt) (h : Step → Step) :
    (((s.passTaken k p f).updStep p.ctx p.step h).ctx p.ctx).steps = [h (u.orFlags p.outTensor p.outInst {})] := by
  have noted : ((s.passTaken k p f).ctx p.ctx) = (s.ctx p.ctx).updStep p.step (fun t => t.orFlags p.outTensor p.outInst {}) :=
    noteFlags_ctx (s.leavePass k) hg
  rw [State.updStep, State.ctx_updCtx_same, noted]
  exact updStep_steps_single (updStep_steps_single hu hn _) hn h

/-- The step of a pass that drains to a tensor of its own, of no gradient, has its output tile (R96, R144). -/
theorem stepDrained_outTile {s : State} {p : Pass} (hg : p.regrow = false) (h2 : p.out2 ≠ p.outTensor)
    (ht : p.tRefs.all (fun r => r.ident.tensor != p.outTensor) = true)
    (hn : (((s.ctx p.ctx).prog.map (·.gradTensors)).getD []).all (fun g => g.1 != p.outTensor) = true) (t : Step) :
    AL.find? (p.outTensor, p.outInst, p.outRow, p.outCol) (s.stepDrained p t).outTiles = some (elCodes (s.passDrained p).one) := by
  refine takeDrained_outTile hg (fun hm => ?_) h2 (fun r hr => by simpa using List.all_eq_true.mp ht r hr) t _ _ _ _
  obtain ⟨g, hg, same⟩ := List.mem_map.mp hm
  exact bne_iff_ne.mp (List.all_eq_true.mp hn g hg) same

/-! ## The statement -/

section
variable {s : State} {k : CoreId} {p : Pass} (hp : passExact p = true) (ht : p.turn = false ∨ p.src = p.tile)
include hp ht

/-- What a command that ends a pass of partials leaves of its core, and what it leaves unchanged (R89, R96, R239). -/
theorem completes_partial (hout : p.out = .partialAcc) {o : Host.Outcome State Fault Refusal}
    (ho : o = .next (s.finishPass k p .none)) :
    Completes o (fun t => t.core k = (s.core k).leavePass.putBlocks (s.runBlocks p.ctx p.step p.partRefs
        (partialBytes p.toPassOrder (partialAfter p ((s.core k).partialBefore p)))) ∧
      OtherCores k s t ∧ OtherCtxs p.ctx s t ∧ OnlyChanges [.cores, .ctxs] s t) := by
  rw [finishPass_partial hp ht hout] at ho
  exact ⟨_, ho, passTaken_core s k p _, passTaken_otherCores s k p _, passTaken_otherCtxs s k p _, passTaken_changes s k p _⟩

/-- What a command that ends a pass with its drain leaves of its core and its context, and what it leaves unchanged (R96, R123). -/
theorem completes_drain (hout : p.out ≠ .partialAcc) (hf : p.firstK = true) (hsplit : p.tSplit = none)
    (hg : p.regrow = false) {u : Step} (hu : (s.ctx p.ctx).steps = [u]) (hn : u.number = p.step)
    {o : Host.Outcome State Fault Refusal} (ho : o = .next (s.finishPass k p .none)) :
    Completes o (fun t => t.core k = (s.core k).leavePass.takeDrain p (s.passDrained p) (s.passDrainBlocks p) ∧
      (t.ctx p.ctx).steps = [s.stepDrained p (u.orFlags p.outTensor p.outInst {})] ∧
      OtherCores k s t ∧ OtherCtxs p.ctx s t ∧ OnlyChanges [.cores, .ctxs] s t) := by
  rw [finishPass_drain hp ht hout hf hsplit] at ho
  exact ⟨_, ho, passTaken_core s k p _, passTaken_steps hg hu hn _ _, passTaken_otherCores s k p _,
    fun d hd => (updCtx_otherCtxs _ p.ctx _ d hd).trans (passTaken_otherCtxs s k p _ d hd),
    onlyChanges_then (passTaken_changes s k p _) (updStep_changes _ _ _ _) (by simp)⟩

end

/-- Settles O22: no check of a fault-free exact pass fails, so what it delivers is what it formed. -/
theorem passEnds : Obligations.PassEnds := by
  refine ⟨fun k p ps s hr ha hi hout hf hp ht => ?_, fun k p ps s hr ha hi hout hf hp ht hd hb => ?_,
    fun k p ps u s hr ha hi hout hf hp ht hu hn hg hs h2 hrefs hgrads => ?_, execMxPassComplete_idle⟩
  · obtain ⟨t, done, core, frame⟩ := completes_partial hp ht hout
      ((execMxPassComplete_running .none hr ha hi).trans (congrArg _ (endPass_of_first .none hf)))
    refine ⟨t, done, ?_⟩
    dsimp only
    rw [core, partialAfter_first hf]
    exact ⟨leavePass_running hr, rfl, rfl, rfl, rfl, frame⟩
  · obtain ⟨t, done, core, frame⟩ := completes_partial hp ht hout
      ((execMxPassComplete_running .none hr ha hi).trans (congrArg _ (endPass_of_reads .none hf hd hb)))
    refine ⟨t, done, ?_⟩
    dsimp only
    rw [core, partialAfter_later hf, partialBefore_later hf]
    exact ⟨leavePass_running hr, rfl, rfl, rfl, frame⟩
  · obtain ⟨t, done, core, steps, frame⟩ := completes_drain hp ht hout hf hs hg hu hn
      ((execMxPassComplete_running .none hr ha hi).trans (congrArg _ (endPass_of_first .none hf)))
    refine ⟨t, done, ?_⟩
    dsimp only
    rw [core, steps]
    exact ⟨leavePass_running hr, rfl, rfl, rfl, congrArg (· :: []) (stepDrained_outTile hg h2 hrefs hgrads _), rfl, frame⟩

end Sys2Proof.Machine
end

section
/-! SUPPORT. How rollout requests enter their batches, how a batch dispatches, and what its outputs complete (R104, R105, R371); with
them the statement O18. -/

namespace Sys2Proof.Machine

/-! ## Frames of contexts and ring sets -/

/-- A frame without the ring sets keeps each. -/
theorem ring_of_changes {ps : List Part} {s t : State} (h : OnlyChanges ps s t) (hp : Part.rings ∉ ps) (i : SetId) :
    t.ring i = s.ring i :=
  congrArg (AL.get ({} : RingSet) i) (h .rings hp)

theorem otherCtxs_trans {c : CtxId} {s t u : State} (h : OtherCtxs c s t) (g : OtherCtxs c t u) : OtherCtxs c s u :=
  fun d hd => (g d hd).trans (h d hd)

theorem otherRings_trans {i : SetId} {s t u : State} (h : OtherRings i s t) (g : OtherRings i t u) : OtherRings i s u :=
  fun j hj => (g j hj).trans (h j hj)

theorem otherCtxs_of_changes {ps : List Part} {s t : State} (h : OnlyChanges ps s t) (hp : Part.ctxs ∉ ps) (c : CtxId) :
    OtherCtxs c s t := fun d _ => ctx_of_changes h hp d

theorem otherRings_of_changes {ps : List Part} {s t : State} (h : OnlyChanges ps s t) (hp : Part.rings ∉ ps) (i : SetId) :
    OtherRings i s t := fun j _ => ring_of_changes h hp j

theorem updRing_otherRings (s : State) (i : SetId) (f : RingSet → RingSet) : OtherRings i s (s.updRing i f) :=
  fun _ hj => State.ring_updRing_other s (Ne.symm hj) f

/-! ## A descriptor of the step ring takes effect -/

theorem wake_now (s : State) : s.wake.now = s.now := by
  unfold State.wake
  split
  · rfl
  · split <;> rfl

theorem takeEffect_now (s : State) (c : CtxId) (k : SubRing) (q : QDesc) : (s.takeEffect c k q).now = s.now := wake_now _

theorem takeEffect_reg (s : State) (c : CtxId) (k : SubRing) (q : QDesc) (a : Nat) : (s.takeEffect c k q).reg a = s.reg a := by
  rw [State.reg, regs_of_changes (takeEffect_changes s c k q) (by simp), State.reg]

theorem takeEffect_consumer (s : State) (c : CtxId) (q : QDesc) :
    ((s.takeEffect c .step q).ring (setOf c)).step.consumer = (s.ring (setOf c)).step.consumer + 1 := by
  rw [State.takeEffect, ring_of_changes (wake_changes _) (by simp), State.ring_updRing_same]
  rfl

theorem takeEffect_otherRings (s : State) (c : CtxId) (k : SubRing) (q : QDesc) : OtherRings (setOf c) s (s.takeEffect c k q) :=
  otherRings_trans (updRing_otherRings s (setOf c) _) (otherRings_of_changes (wake_changes _) (by simp) _)

/-! ## Batches of a context (R105) -/

section
variable {x : Ctx} {b : RBatch}

theorem dispatch_running (hb : x.batch = some b) (hp : x.paused = false) :
    x.dispatch = { x with batches := x.batches ++ [b], batch := none } := by
  simp [Ctx.dispatch, hb, hp]

theorem dispatch_paused (hb : x.batch = some b) (hp : x.paused = true) :
    x.dispatch = { x with lateBatches := x.lateBatches ++ [b], batch := none } := by
  simp [Ctx.dispatch, hb, hp]

variable {target window now rows : Nat} {r : BitVec 32 × Nat × Nat}

/-- A batch opened below TARGET, with a window, stays open. -/
theorem openBatch_waits (ht : rows < target) (hw : 0 < window) (x : Ctx) :
    x.openBatch target window now rows r = { x with batch := some ⟨rows, [r], target, window, now⟩ } :=
  if_neg (by omega)

theorem enter_empty (hb : x.batch = none) : x.enter target window now rows r = x.openBatch target window now rows r := by
  simp [Ctx.enter, hb]

theorem enter_below (hb : x.batch = some b) (h : b.rows + rows < b.target) : x.enter target window now rows r =
    { x with batch := some { b with rows := b.rows + rows, reqs := b.reqs ++ [r] } } := by
  have fits : ¬ b.target < b.rows + rows := by omega
  simp [Ctx.enter, hb, fits, Nat.ne_of_lt h]

theorem enter_exact (hb : x.batch = some b) (h : b.rows + rows = b.target) (hp : x.paused = false) :
    x.enter target window now rows r =
      { x with batches := x.batches ++ [{ b with rows := b.target, reqs := b.reqs ++ [r] }], batch := none } := by
  simp only [Ctx.enter, hb, h, Nat.lt_irrefl, if_false, if_true]
  exact dispatch_running rfl hp

theorem enter_beyond (hb : x.batch = some b) (h : b.target < b.rows + rows) :
    x.enter target window now rows r = x.dispatch.openBatch target window now rows r := by
  simp [Ctx.enter, hb, h]

theorem opensBatch_of_fits (hb : x.batch = some b) (h : b.rows + rows ≤ b.target) : x.opensBatch rows = false := by
  simpa [Ctx.opensBatch, hb] using h

end

/-! ## The batches of a context change -/

theorem placeBatch_changes (s : State) (c : CtxId) : OnlyChanges [.cores] s (s.placeBatch c) := by
  unfold State.placeBatch
  split
  · exact onlyChanges_refl _ s
  · exact placeStep_changes s c 0

section
variable (s : State) (c : CtxId) (f : Ctx → Ctx)

/-- Beside the context itself, a change of its batches touches cores alone. -/
theorem batchChange_after : OnlyChanges [.cores] (s.updCtx c f) (s.batchChange c f) := by
  unfold State.batchChange
  dsimp only
  split
  · exact placeBatch_changes _ c
  · exact onlyChanges_refl _ _

theorem batchChange_changes : OnlyChanges [.ctxs, .cores] s (s.batchChange c f) :=
  onlyChanges_then (onlyChanges_mono (updCtx_changes s c f) (by simp)) (batchChange_after s c f) (by simp)

theorem batchChange_ctx : (s.batchChange c f).ctx c = f (s.ctx c) := by
  rw [ctx_of_changes (batchChange_after s c f) (by simp), State.ctx_updCtx_same]

theorem batchChange_otherCtxs : OtherCtxs c s (s.batchChange c f) :=
  otherCtxs_trans (updCtx_otherCtxs s c f) (otherCtxs_of_changes (batchChange_after s c f) (by simp) c)

end

/-! ## Requests (R104, R105) -/

/-- The state in which a request has taken effect and, where it opens a batch, the batching register has its pending value (R104). -/
def State.acceptRequest (s : State) (c : CtxId) (q : QDesc) : State :=
  let t := s.takeEffect c .step q
  if (t.ctx c).opensBatch (dRows q.bytes) && !t.behindProfile .coreRbatch then t.applyUnit .coreRbatch c.val else t

/-- A context that a request has entered under a value of the batching register. -/
def Ctx.takeRequest (x : Ctx) (reg now : Nat) (q : QDesc) : Ctx :=
  x.enter (bitsOf reg 12 0) (bitsOf reg 31 16) now (dRows q.bytes) (q.index, dOutputAddr q.bytes, dRows q.bytes)

section
variable {c : CtxId} {q : QDesc} {s : State}

theorem execGenerate_data (inp : List Byte) (hq : s.headOf c .step .generate = some q) :
    exec (.generate c (.data inp)) s = .next ((s.acceptRequest c q).batchChange c (fun x =>
      x.takeRequest ((s.acceptRequest c q).reg (aRbatch c.val)) (s.acceptRequest c q).now q)) := by
  show execGenerate c (.data inp) s = _
  simp only [execGenerate, hq]
  rfl

/-- A request that opens no batch, or meets no pending commit, leaves the registers as they stand. -/
theorem acceptRequest_settled
    (h : (s.ctx c).opensBatch (dRows q.bytes) = false ∨ (s.regs.bank .coreRbatch).pending = none) :
    s.acceptRequest c q = s.takeEffect c .step q := by
  have frame := takeEffect_changes s c .step q
  unfold State.acceptRequest
  dsimp only
  rw [ctx_of_changes frame (by simp)]
  obtain joins | none := h
  · simp [joins]
  · rw [applyUnit_of_none _ (by rw [regs_of_changes frame (by simp), none]), ite_self]

/-- What a request leaves of its context and its ring with the registers as they stand, and what it leaves unchanged (R105). -/
theorem completes_request (inp : List Byte) (hq : s.headOf c .step .generate = some q)
    (h : (s.ctx c).opensBatch (dRows q.bytes) = false ∨ (s.regs.bank .coreRbatch).pending = none) :
    Completes (exec (.generate c (.data inp)) s) (fun t =>
      t.ctx c = (s.ctx c).takeRequest (s.reg (aRbatch c.val)) s.now q ∧
      (t.ring (setOf c)).step.consumer = (s.ring (setOf c)).step.consumer + 1 ∧ OtherCtxs c s t ∧
      OtherRings (setOf c) s t ∧ OnlyChanges [.ctxs, .rings, .cores, .hub] s t) := by
  have effect := takeEffect_changes s c .step q
  have done := execGenerate_data inp hq
  rw [acceptRequest_settled h, takeEffect_reg, takeEffect_now] at done
  have entry := batchChange_changes (s.takeEffect c .step q) c (fun x => x.takeRequest (s.reg (aRbatch c.val)) s.now q)
  refine ⟨_, done, ?_, ?_, ?_, ?_, ?_⟩
  · rw [batchChange_ctx, ctx_of_changes effect (by simp)]
  · rw [ring_of_changes entry (by simp), takeEffect_consumer]
  · exact otherCtxs_trans (otherCtxs_of_changes effect (by simp) c) (batchChange_otherCtxs _ c _)
  · exact otherRings_trans (takeEffect_otherRings s c .step q) (otherRings_of_changes entry (by simp) _)
  · exact onlyChanges_then (onlyChanges_mono effect (by simp)) entry (by simp)

/-- The staged register of a context's batching belongs to the context's unit (R456, R461). -/
theorem regInfo_aRbatch (c : CtxId) : (regInfo (aRbatch c.val)).map (·.unit) = some c.val := by
  revert c
  decide

/-- A request that opens a batch is the safe point of a pending commit: the batching register takes its value (R104). -/
theorem acceptRequest_pending {w : Word} (hb : (s.ctx c).batch = none)
    (hp : (s.regs.bank .coreRbatch).pending = some ([(aRbatch c.val, w)], [c.val])) (hf : s.behindProfile .coreRbatch = false) :
    (s.acceptRequest c q).regs.val (aRbatch c.val) = w ∧ (s.acceptRequest c q).ctx c = s.ctx c := by
  have effect := takeEffect_changes s c .step q
  have regs := regs_of_changes effect (by simp)
  have opens : ((s.takeEffect c .step q).ctx c).opensBatch (dRows q.bytes) = true := by
    rw [ctx_of_changes effect (by simp), Ctx.opensBatch, hb]
  have front : (s.takeEffect c .step q).behindProfile .coreRbatch = false := by
    rw [State.behindProfile, regs, effect .mss (by simp)]
    exact hf
  have accepted : s.acceptRequest c q = (s.takeEffect c .step q).applyUnit .coreRbatch c.val := by
    simp [State.acceptRequest, opens, front]
  obtain ⟨values, frame⟩ := applyUnit_last (s := s.takeEffect c .step q) (b := .coreRbatch) (regs.symm ▸ hp)
    ⟨nofun, nofun⟩ rfl
  rw [accepted, values, takeUnit_val _ _ _ _ (by simp), if_pos (regInfo_aRbatch c),
    ctx_of_changes frame (by decide), ctx_of_changes effect (by simp)]
  simp [AL.get]

end

/-! ## Windows that elapse (R105) -/

section
variable {c : CtxId} {b : RBatch} {s : State} (hb : (s.ctx c).batch = some b)
include hb

theorem execBatchingWindowElapse_early (h : s.now < b.opened + b.window) : exec (.batchingWindowElapse c) s = .next s := by
  show execBatchingWindowElapse c s = _
  simp only [execBatchingWindowElapse, hb, if_neg (Nat.not_le.mpr h)]

/-- A window that has elapsed dispatches the open batch. -/
theorem completes_window (h : b.opened + b.window ≤ s.now) :
    Completes (exec (.batchingWindowElapse c) s) (fun t =>
      t.ctx c = (s.ctx c).dispatch ∧ OtherCtxs c s t ∧ OnlyChanges [.ctxs, .cores] s t) := by
  refine ⟨s.batchChange c Ctx.dispatch, ?_, batchChange_ctx s c _, batchChange_otherCtxs s c _, batchChange_changes s c _⟩
  show execBatchingWindowElapse c s = _
  simp only [execBatchingWindowElapse, hb, if_pos h]

end

/-! ## Completions leave (R218, R370, R372) -/

/-- How many entries a ring the module writes has been given: those posted, by the index of the next, and those that wait (R364,
R372). -/
def WRing.count {α : Type} (w : WRing α) : Nat := w.next + w.held.length

theorem WRing.count_add {α : Type} (w : WRing α) (x : α) : (w.add x).count = w.count + 1 := by
  simp [WRing.count, WRing.add, Nat.add_assoc]

theorem WRing.count_flushN {α : Type} (size n : Nat) (w : WRing α) : (w.flushN size n).count = w.count := by
  induction n generalizing w with
  | zero => rfl
  | succ n ih =>
    unfold WRing.flushN
    split
    · rfl
    next x xs held =>
      split
      · rw [ih]
        simp only [WRing.count, held, List.length_cons]
        omega
      · rfl

/-- Posting what there is room for makes no entry and loses none. -/
theorem WRing.count_flush {α : Type} (size : Nat) (w : WRing α) : (w.flush size).count = w.count := w.count_flushN size _

@[simp] theorem inFlight_ring (s : State) (i : SetId) (k a n : Nat) (j : SetId) : (s.inFlight i k a n).ring j = s.ring j :=
  ring_of_changes (inFlight_changes s i k a n) (by simp) j

theorem flushSet_step (s : State) (i : SetId) : ((s.flushSet i).ring i).step = (s.ring i).step := by
  simp [State.flushSet]

theorem flushSet_cpl2 (s : State) (i : SetId) : ((s.flushSet i).ring i).cpl2 = (s.ring i).cpl2.flush (s.room i 2) := by
  simp [State.flushSet]

theorem flushSet_otherRings (s : State) (i : SetId) : OtherRings i s (s.flushSet i) := by
  intro j hj
  simp [State.flushSet, Ne.symm hj]

/-- The one descriptor in effect, finished: its completion is queued and none is in effect. -/
theorem release_single {r : RingSet} {f : Flow} {x : Completion} (hf : r.step.flow = [f]) (hx : f.done = some x) :
    r.release .step = { r with step := { r.step with flow := [] }, cpl2 := r.cpl2.add x } := by
  simp [RingSet.release, RingSet.sub, RingSet.updSub, RingSet.addCpl, takeDone, hf, hx]

section
variable {c : CtxId} {f : Flow} {ix : BitVec 32} {s : State}

theorem finish_otherRings (x : Completion) : OtherRings (setOf c) s (s.finish c .step ix x) :=
  otherRings_trans (updRing_otherRings s (setOf c) _) (flushSet_otherRings _ _)

variable (hf : (s.ring (setOf c)).step.flow = [f]) (hi : f.index = ix)
include hf hi

theorem finish_single_flow (x : Completion) : ((s.finish c .step ix x).ring (setOf c)).step.flow = [] := by
  rw [State.finish, flushSet_step, State.ring_updRing_same, release_single (f := { f with done := some x })]
  · simp [RingSet.updSub, hf, hi]
  · rfl

theorem finish_single_count (x : Completion) :
    ((s.finish c .step ix x).ring (setOf c)).cpl2.count = (s.ring (setOf c)).cpl2.count + 1 := by
  rw [State.finish, flushSet_cpl2, WRing.count_flush, State.ring_updRing_same, release_single (f := { f with done := some x })]
  · exact WRing.count_add _ x
  · simp [RingSet.updSub, hf, hi]
  · rfl

end

/-! ## The outputs of a batch (R371) -/

theorem hostWrite_changes (s : State) (c : CtxId) (n addr len : Nat) : OnlyChanges [.cxl, .out] s (s.hostWrite c n addr len) := by
  refine onlyChanges_then (onlyChanges_mono (hostAccess_changes s c addr) (by simp)) (ps := [.out]) ?_ (by simp)
  intro p hp
  cases p with
  | out => simp at hp
  | _ => rfl

theorem hostWrite_hostData (s : State) (c : CtxId) (n addr len : Nat) :
    (s.hostWrite c n addr len).out.hostData = (c, n, addr, len) :: s.out.hostData := by
  rw [State.hostWrite, hostAccess_changes s c addr .out (by simp)]

/-- The outputs of one request, whose translation holds, are written and DONE follows (R371). -/
theorem generateOne_written {s : State} {c : CtxId} {r : BitVec 32 × Nat × Nat} {f : Flow} (out : List Byte)
    (hf : (s.ring (setOf c)).step.flow = [f]) (hi : f.index = r.1) :
    ((s.generateOne c r out false).ring (setOf c)).step.flow = [] ∧
    ((s.generateOne c r out false).ring (setOf c)).cpl2.count = (s.ring (setOf c)).cpl2.count + 1 ∧
    (s.generateOne c r out false).out.hostData = (c, r.1.toNat, r.2.1, out.length) :: s.out.hostData ∧
    OtherRings (setOf c) s (s.generateOne c r out false) ∧ OnlyChanges [.rings, .cxl, .out] s (s.generateOne c r out false) := by
  have write := hostWrite_changes s c r.1.toNat r.2.1 out.length
  have rings := ring_of_changes write (by simp) (setOf c)
  have flow : ((s.hostWrite c r.1.toNat r.2.1 out.length).ring (setOf c)).step.flow = [f] := by rw [rings, hf]
  unfold State.generateOne
  simp only [Bool.false_eq_true, if_false]
  refine ⟨?_, ?_, ?_, ?_, ?_⟩
  · rw [State.finishDone, finish_single_flow flow hi]
  · rw [State.finishDone, finish_single_count flow hi, rings]
  · rw [finishDone_changes _ c .step _ _ _ _ _ .out (by simp), hostWrite_hostData]
  · exact otherRings_trans (otherRings_of_changes write (by simp) _) (finish_otherRings _)
  · exact onlyChanges_then (onlyChanges_mono write (by simp)) (finishDone_changes _ c .step _ _ _ _ _) (by simp)

/-- The state in which the batch dispatched first has left its context (R371). -/
def State.leaveBatch (s : State) (c : CtxId) : State := s.updCtx c (fun x => { x with batches := x.batches.drop 1 })

theorem execGenerateOutputWrite_single {s : State} {c : CtxId} {b : RBatch} {bs : List RBatch} {r : BitVec 32 × Nat × Nat}
    (out : List Byte) (hs : (s.ctx c).batches = b :: bs) (hr : b.reqs = [r]) (hp : s.batchPassed c = true) :
    exec (.generateOutputWrite c [out] [false]) s = .next (((s.leaveBatch c).generateOne c r out false).placeBatch c) := by
  show execGenerateOutputWrite c [out] [false] s = _
  simp [execGenerateOutputWrite, hs, hr, hp, State.leaveBatch]

/-- The outputs of a batch of one request, every check passed, are written and the request completes (R371). -/
theorem completes_outputs {c : CtxId} {b : RBatch} {bs : List RBatch} {r : BitVec 32 × Nat × Nat} {f : Flow} {s : State}
    (out : List Byte) (hs : (s.ctx c).batches = b :: bs) (hr : b.reqs = [r]) (hp : s.batchPassed c = true)
    (hf : (s.ring (setOf c)).step.flow = [f]) (hi : f.index = r.1) :
    Completes (exec (.generateOutputWrite c [out] [false]) s) (fun t => (t.ctx c).batches = bs ∧
      t.out.hostData = (c, r.1.toNat, r.2.1, out.length) :: s.out.hostData ∧ (t.ring (setOf c)).step.flow = [] ∧
      (t.ring (setOf c)).cpl2.next + (t.ring (setOf c)).cpl2.held.length =
        (s.ring (setOf c)).cpl2.next + (s.ring (setOf c)).cpl2.held.length + 1 ∧
      OtherCtxs c s t ∧ OtherRings (setOf c) s t ∧ OnlyChanges [.ctxs, .rings, .cxl, .cores, .out] s t) := by
  obtain ⟨flow, count, data, rings, write⟩ := generateOne_written (s := s.leaveBatch c) out hf hi
  have place := placeBatch_changes ((s.leaveBatch c).generateOne c r out false) c
  have leave := updCtx_changes s c (fun x => { x with batches := x.batches.drop 1 })
  have left : ((s.leaveBatch c).ctx c).batches = bs := by
    rw [State.leaveBatch, State.ctx_updCtx_same, hs]
    rfl
  refine ⟨_, execGenerateOutputWrite_single out hs hr hp, ?_, ?_, ?_, ?_, ?_, ?_, ?_⟩
  · rw [ctx_of_changes place (by simp), ctx_of_changes write (by simp), left]
  · rw [place .out (by simp), data]
    rfl
  · rw [ring_of_changes place (by simp), flow]
  · rw [ring_of_changes place (by simp)]
    exact count
  · exact otherCtxs_trans (otherCtxs_trans (updCtx_otherCtxs s c _) (otherCtxs_of_changes write (by simp) c))
      (otherCtxs_of_changes place (by simp) c)
  · exact otherRings_trans rings (otherRings_of_changes place (by simp) _)
  · exact onlyChanges_then (onlyChanges_then (onlyChanges_mono leave (by simp)) write (by simp)) place (by simp)

/-! ## The statement -/

/-- Settles O18: a request changes its context as `Ctx.takeRequest` says, an elapsed window as `Ctx.dispatch` says, and the outputs of
a batch leave with the completion of its request. -/
theorem rolloutBatches : Obligations.RolloutBatches := by
  refine ⟨fun c q inp s hq hb hn ht hw => ?_, fun c q inp b s hq hb h => ?_, fun c q inp b s hq hb h hp => ?_,
    fun c q inp b s hq hb h hp hn ht hw => ?_, fun c b s hb h hp => ?_, fun c b s hb h hp => ?_,
    fun c q inp w s hq hb hp hf ht hw => ?_, fun _ _ _ hb h => execBatchingWindowElapse_early hb h,
    fun _ _ _ _ _ out _ hs hr hp hf hi => completes_outputs out hs hr hp hf hi⟩
  · obtain ⟨t, done, ctx, frame⟩ := completes_request inp hq (.inr hn)
    rw [Ctx.takeRequest, enter_empty hb, openBatch_waits ht hw] at ctx
    exact ⟨t, done, by rw [ctx], by rw [ctx], frame⟩
  · obtain ⟨t, done, ctx, -, ctxs, -, frame⟩ := completes_request inp hq (.inl (opensBatch_of_fits hb (Nat.le_of_lt h)))
    rw [Ctx.takeRequest, enter_below hb h] at ctx
    exact ⟨t, done, by rw [ctx], by rw [ctx], ctxs, frame⟩
  · obtain ⟨t, done, ctx, -, ctxs, -, frame⟩ := completes_request inp hq (.inl (opensBatch_of_fits hb (Nat.le_of_eq h)))
    rw [Ctx.takeRequest, enter_exact hb h hp] at ctx
    exact ⟨t, done, by rw [ctx], by rw [ctx], ctxs, frame⟩
  · obtain ⟨t, done, ctx, -, ctxs, -, frame⟩ := completes_request inp hq (.inr hn)
    rw [Ctx.takeRequest, enter_beyond hb h, dispatch_running hb hp, openBatch_waits ht hw] at ctx
    exact ⟨t, done, by rw [ctx], by rw [ctx]; rfl, ctxs, frame⟩
  · obtain ⟨t, done, ctx, frame⟩ := completes_window hb h
    rw [dispatch_running hb hp] at ctx
    exact ⟨t, done, by rw [ctx], by rw [ctx], frame⟩
  · obtain ⟨t, done, ctx, frame⟩ := completes_window hb h
    rw [dispatch_paused hb hp] at ctx
    exact ⟨t, done, by rw [ctx], by rw [ctx], by rw [ctx], frame⟩
  · obtain ⟨value, ctx⟩ := acceptRequest_pending (q := q) hb hp hf
    refine ⟨_, execGenerate_data inp hq, ?_, ?_⟩
    · rw [regs_of_changes (batchChange_changes _ c _) (by simp), value]
    · rw [batchChange_ctx, ctx, State.reg, value, Ctx.takeRequest, enter_empty hb, openBatch_waits ht hw]
      rfl

end Sys2Proof.Machine
end

section
/-! SUPPORT. What an operation of one core's unit may change, and the blocks it puts; what a fill of the core DMA leaves and how its
fault of translation stops a step (R123, R185, R187, R200); with them the statement O25. -/

namespace Sys2Proof.Machine

/-! ## A unit of one core working for one context -/

theorem updStep_otherCtxs (s : State) (c : CtxId) (n : Nat) (f : Step → Step) : OtherCtxs c s (s.updStep c n f) :=
  updCtx_otherCtxs s c _

theorem core_of_changes {ps : List Part} {s t : State} (h : OnlyChanges ps s t) (hp : Part.cores ∉ ps) (k : CoreId) :
    t.core k = s.core k :=
  congrArg (fun x : Cores => AL.get ({} : CoreSt) k x.tbl) (h .cores hp)

@[simp] theorem core_updStep (s : State) (c : CtxId) (n : Nat) (f : Step → Step) (k : CoreId) :
    (s.updStep c n f).core k = s.core k := rfl

/-- A core that counts one more operation (R239). -/
def CoreSt.countOp (x : CoreSt) : CoreSt := { x with ops := x.ops + 1 }

@[simp] theorem core_countOp (s : State) (k : CoreId) : (s.countOp k).core k = (s.core k).countOp :=
  State.core_updCore_same s k _

/-- What an operation of a unit may change: its core and its context. -/
def WorksWithin (k : CoreId) (c : CtxId) (s t : State) : Prop :=
  OtherCores k s t ∧ OtherCtxs c s t ∧ OnlyChanges [.cores, .ctxs] s t

section
variable {k : CoreId} {c : CtxId} {s t : State}

theorem worksWithin_refl (k : CoreId) (c : CtxId) (s : State) : WorksWithin k c s s :=
  ⟨fun _ _ => rfl, fun _ _ => rfl, onlyChanges_refl _ s⟩

theorem WorksWithin.updCore (h : WorksWithin k c s t) (f : CoreSt → CoreSt) : WorksWithin k c s (t.updCore k f) := by
  obtain ⟨cores, ctxs, parts⟩ := h
  exact ⟨fun l hl => (updCore_otherCores t k f l hl).trans (cores l hl), ctxs,
    onlyChanges_then parts (updCore_changes t k f) (by simp)⟩

theorem WorksWithin.updStep (h : WorksWithin k c s t) (n : Nat) (f : Step → Step) : WorksWithin k c s (t.updStep c n f) := by
  obtain ⟨cores, ctxs, parts⟩ := h
  exact ⟨cores, otherCtxs_trans ctxs (updStep_otherCtxs t c n f), onlyChanges_then parts (updStep_changes t c n f) (by simp)⟩

end

/-! ## Blocks put into a scratchpad (R121–R123) -/

@[simp] theorem block_putBlocks_same (x : CoreSt) (b : Fin 2048) (y : SpadBlock) : (x.putBlocks [(b, y)]).block b = y :=
  AL_get_set_same blankBlock b y x.blocks

theorem block_putBlocks_other (x : CoreSt) {b d : Fin 2048} (h : d ≠ b) (y : SpadBlock) :
    (x.putBlocks [(b, y)]).block d = x.block d :=
  AL_get_set_other blankBlock (Ne.symm h) y x.blocks

/-! ## Fills by the core DMA (R123, R185, R187) -/

/-- The step a fill belongs to: the one its version names, if it is provisional, else the one the context computes (R152). -/
def State.fillStep (s : State) (c : CtxId) (v : Version) : Nat :=
  if ((s.ctx c).stepNo v.step).isSome then v.step else s.workNo c

/-- The block a fill from a DPA leaves where no word fails parity (R123, R124). -/
def State.filledBlock (s : State) (c : CtxId) (a : Nat) (dst : FillRef) : SpadBlock :=
  { tag := tileTag dst.ref.ident dst.version, tagOk := true, dataOk := true, badWord := 0, whole := true, ident := dst.ref.ident
    version := dst.version, writer := some (c, s.stepNow c (s.fillStep c dst.version)), bytes := s.hbmGet a 2048, halves := [0, 1]
    source := some dst.source }

theorem charge_repairs (s : State) (a n : Nat) : (s.charge a n).mem.repairs = s.mem.repairs := by
  unfold State.charge
  split <;> rfl

theorem charge_hbm (s : State) (a n : Nat) : (s.charge a n).mem.hbm = s.mem.hbm := by
  unfold State.charge
  split <;> rfl

section
variable {k : CoreId} {c : CtxId} {s : State} (hk : (s.core k).status = .active) (hi : s.inReset (.core k) = false)
  (hl : (s.ctx c).loaded = true) (hp : (s.ctx c).paused = false)
include hk hi hl hp

theorem execCoreDmaFill_reached {dva a : Nat} (dst : FillRef) (hr : s.reach c dva .read = some a) :
    exec (.coreDmaFill k c dva dst none none) s =
      .next ((s.charge a 2048).updCore k (fun x => x.putBlocks [(dst.ref.block, s.filledBlock c a dst)])) := by
  show execCoreDmaFill k c dva dst none none s = _
  simp [execCoreDmaFill, hk, hi, hl, hp, hr, charge_repairs, State.filledBlock, State.fillStep]

theorem execCoreDmaFill_unreached {dva : Nat} (dst : FillRef) (hr : s.reach c dva .read = none) :
    exec (.coreDmaFill k c dva dst none none) s = .next (s.devFault c (s.fillStep c dst.version) dva .read) := by
  show execCoreDmaFill k c dva dst none none s = _
  simp [execCoreDmaFill, hk, hi, hl, hp, hr, State.fillStep]

end

/-! ## A step that votes STOP (R200) -/

/-- What a vote leaves of a step: its number, its state and its cause. -/
def Step.standing (t : Step) : Nat × StepState × Option Status := (t.number, t.state, t.stopCause)

/-- Votes that go out leave each step its number, its state and its cause (R200). -/
theorem castIn_standing (c : CtxId) (ts : List Step) : (castIn c ts).1.map Step.standing = ts.map Step.standing := by
  induction ts with
  | nil => rfl
  | cons t ts ih =>
    unfold castIn
    split
    · exact congrArg (t.standing :: ·) ih
    · split
      · exact congrArg (t.standing :: ·) ih
      · rfl

theorem castVotes_standing (s : State) (c : CtxId) :
    ((s.castVotes c).ctx c).steps.map Step.standing = (s.ctx c).steps.map Step.standing := by
  unfold State.castVotes
  dsimp only
  split
  · rfl
  · rw [ctx_of_changes (sendAll_changes _ _) (by simp), State.ctx_updCtx_same]
    exact castIn_standing c _

theorem castVotes_otherCtxs (s : State) (c : CtxId) : OtherCtxs c s (s.castVotes c) := by
  unfold State.castVotes
  dsimp only
  split
  · exact fun _ _ => rfl
  · exact otherCtxs_trans (updCtx_otherCtxs s c _) (otherCtxs_of_changes (sendAll_changes _ _) (by simp) c)

theorem stopStep_otherCtxs (s : State) (c : CtxId) (n : Nat) (st : Status) : OtherCtxs c s (s.stopStep c n st) :=
  otherCtxs_trans (updStep_otherCtxs s c n _) (castVotes_otherCtxs _ c)

section
variable {s : State} {c : CtxId} {u : Step} (hu : (s.ctx c).steps = [u]) (hf : u.state = .forward)
include hu hf

/-- The one step of a context, in FORWARD and without its vote, votes STOP for a cause (R200, R210). -/
theorem stopStep_single (hv : u.voted = none) (st : Status) :
    ((s.stopStep c u.number st).ctx c).steps.map Step.standing = [(u.number, .voting, some st)] := by
  rw [State.stopStep, castVotes_standing, State.updStep, State.ctx_updCtx_same, updStep_steps_single hu rfl]
  simp [hv, hf, Step.standing]

theorem workNo_single : s.workNo c = u.number := by
  simp [State.workNo, Ctx.working, hu, hf]

/-- A fill for a context of one step, in FORWARD, belongs to that step. -/
theorem stepNo_fillStep_single (v : Version) : (s.ctx c).stepNo (s.fillStep c v) = some u := by
  unfold State.fillStep
  rw [workNo_single hu hf]
  by_cases h : u.number = v.step <;> simp [Ctx.stepNo, hu, h]

end

/-- A fault of translation in a provisional step is posted and stops the step (R187). -/
theorem devFault_of_step {s : State} {c : CtxId} {n : Nat} {u : Step} (h : (s.ctx c).stepNo n = some u) (dva : Nat) (op : Access) :
    s.devFault c n dva op =
      (s.event (setOf c) .devTranslationFault (.access dva op)).stopStep c u.number .devTranslationFault := by
  unfold State.devFault
  simp only [ctx_of_changes (event_changes s (setOf c) .devTranslationFault (.access dva op)) (by simp) c, h]

/-- Settles O25: a fill that reaches its DPA puts one block, one that does not stops the step through `State.devFault`. -/
theorem coreDmaFills : Obligations.CoreDmaFills := by
  refine ⟨fun k c dva a dst s hk hi hl hp hr => ⟨_, execCoreDmaFill_reached hk hi hl hp dst hr, ?_⟩,
    fun k c dva dst u s hk hi hl hp hr hu hf hv => ⟨_, execCoreDmaFill_unreached hk hi hl hp dst hr, ?_⟩⟩
  · have charge := charge_changes s a 2048
    have core (l : CoreId) : (s.charge a 2048).core l = s.core l := core_of_changes charge (by simp) l
    dsimp only
    rw [State.core_updCore_same, core, block_putBlocks_same]
    exact ⟨by rw [State.filledBlock], rfl, rfl, rfl, rfl, rfl, rfl, fun b hb => block_putBlocks_other _ hb _, rfl,
      fun l hl => (updCore_otherCores _ k _ l hl).trans (core l), charge_hbm s a 2048,
      onlyChanges_then (onlyChanges_mono charge (by simp)) (updCore_changes _ k _) (by simp)⟩
  · rw [devFault_of_step (stepNo_fillStep_single hu hf dst.version)]
    have post := event_changes s (setOf c) .devTranslationFault (.access dva .read)
    have stop := stopStep_changes (s.event (setOf c) .devTranslationFault (.access dva .read)) c u.number .devTranslationFault
    have both : OnlyChanges [.ctxs, .rings, .cxl, .mss, .hub, .out] s _ :=
      onlyChanges_then (onlyChanges_mono post (by simp)) stop (by simp)
    exact ⟨both .cores (by simp), both .mem (by simp),
      stopStep_single ((congrArg Ctx.steps (ctx_of_changes post (by simp) c)).trans hu) hf hv _,
      otherCtxs_trans (otherCtxs_of_changes post (by simp) c) (stopStep_otherCtxs _ c _ _), both⟩

end Sys2Proof.Machine
end

section
/-! SUPPORT. What an instruction of the vector unit computes, writes and leaves unchanged (R107, R113, R122, R123); with it the
statement O23. -/

namespace Sys2Proof.Machine

/-! ## Lanes of an instruction (R107) -/

theorem lanesInt_getElem? (f : BitVec 32 → BitVec 32 → BitVec 32 → Nat) (a b c : List Nat) {l : Nat} (hl : l < 256) :
    (lanesInt f a b c)[l]? = some (f (BitVec.ofNat 32 (a.getD l 0)) (BitVec.ofNat 32 (b.getD l 0)) (BitVec.ofNat 32 (c.getD l 0)) %
      2 ^ 32, {}) := by
  simp [lanesInt, hl]

section
variable (v : VxEnv) (a b c old : List Nat) {l : Nat} (hl : l < 256)
include hl

theorem vxLanes_iadd : (vxLanes .iadd v a b c old)[l]? = some ((a.getD l 0 + b.getD l 0) % 2 ^ 32, {}) := by
  refine (lanesInt_getElem? (fun x y _ => (x + y).toNat) a b c hl).trans ?_
  rw [BitVec.toNat_add, BitVec.toNat_ofNat, BitVec.toNat_ofNat, ← Nat.add_mod, Nat.mod_mod]

theorem vxLanes_iand :
    (vxLanes .iand v a b c old)[l]? = some (((a.getD l 0) % 2 ^ 32) &&& ((b.getD l 0) % 2 ^ 32), {}) := by
  refine (lanesInt_getElem? (fun x y _ => (x &&& y).toNat) a b c hl).trans ?_
  rw [Nat.mod_eq_of_lt (BitVec.isLt _), BitVec.toNat_and, BitVec.toNat_ofNat, BitVec.toNat_ofNat]

/-- A shift by less than the width of a lane. -/
theorem vxLanes_ishl (hb : b.getD l 0 < 32) : (vxLanes .ishl v a b c old)[l]? = some ((a.getD l 0 * 2 ^ b.getD l 0) % 2 ^ 32, {}) := by
  have width : (BitVec.ofNat 32 (b.getD l 0)).toNat = b.getD l 0 := by
    rw [BitVec.toNat_ofNat]
    omega
  refine (lanesInt_getElem? (fun x y _ => if y.toNat < 32 then (x <<< y.toNat).toNat else (Config.vxShiftOver x y).toNat) a b c
    hl).trans ?_
  rw [width, if_pos hb, BitVec.toNat_shiftLeft, BitVec.toNat_ofNat, Nat.shiftLeft_eq, Nat.mod_mul_mod, Nat.mod_mod]

end

/-! ## The half of a block that an instruction writes (R122, R123) -/

section
variable (s : State) (k : CoreId) (c : CtxId) (n : Nat) (d : VecRef) (ws : List Nat)

theorem vecBlock_tag : (s.vecBlock k c n d ws).2.tag = tileTag d.ref.ident (s.versionOf c n d.ref.ident) := rfl

/-- The half that follows another written under the same tag (R122). -/
def State.continuesBlock : Bool :=
  let old := (s.core k).block d.ref.block
  !old.whole && decide (old.tag = tileTag d.ref.ident (s.versionOf c n d.ref.ident)) && decide (old.ident = d.ref.ident)

theorem vecBlock_whole : (s.vecBlock k c n d ws).2.whole =
    ((d.half :: (if s.continuesBlock k c n d then ((s.core k).block d.ref.block).halves.erase d.half else [])).length == 2) := rfl

variable {s k d}

/-- A whole block that an instruction writes into is partly written then (R122). -/
theorem vecBlock_partly (h : ((s.core k).block d.ref.block).whole = true) : (s.vecBlock k c n d ws).2.whole = false := by
  simp [vecBlock_whole, State.continuesBlock, h]

/-- A block whose other half was written under the same tag is whole then (R122). -/
theorem vecBlock_completed (hw : ((s.core k).block d.ref.block).whole = false)
    (hh : ((s.core k).block d.ref.block).halves = [1 - d.half])
    (ht : ((s.core k).block d.ref.block).tag = tileTag d.ref.ident (s.versionOf c n d.ref.ident))
    (hi : ((s.core k).block d.ref.block).ident = d.ref.ident) : (s.vecBlock k c n d ws).2.whole = true := by
  have continues : s.continuesBlock k c n d = true := by simp [State.continuesBlock, hw, ht, hi]
  have other : 1 - d.half ≠ d.half := by
    generalize d.half = h
    revert h
    decide
  rw [vecBlock_whole, continues, hh, if_pos rfl, List.erase_of_not_mem (by simpa using other.symm)]
  rfl

end

/-! ## Vector instructions (R107, R113) -/

/-- The block an instruction takes its source tensor from: that of its first source, else its destination (R107). -/
def vxSource (srcs : List VecRef) (dst : VecRef) : BlockIdent := ((srcs[0]?).map (fun v => v.ref.ident)).getD dst.ref.ident

/-- What an instruction on the vectors of a core takes beside them (R49, R107). -/
def State.vxTakes (s : State) (srcs : List VecRef) (dst : VecRef) (c : CtxId) (n key : Nat) : VxEnv :=
  s.vxEnv c n key (vxSource srcs dst) dst.ref.ident

/-- The lanes of an instruction on the vectors of a core (R107). -/
def State.vxGood (s : State) (k : CoreId) (op : VxOp) (srcs : List VecRef) (dst : VecRef) (c : CtxId) (n key : Nat) : List LaneOut :=
  vxLanes op (s.vxTakes srcs dst c n key) ((s.core k).vecWords srcs[0]?) ((s.core k).vecWords srcs[1]?)
    ((s.core k).vecWords srcs[2]?) ((s.core k).vecWords (some dst))

/-- A core that has written the block of an instruction's lanes, its checker lanes at a next group (R113). -/
def CoreSt.takeVx (x : CoreSt) (b : Fin 2048 × SpadBlock) (lane : Nat) : CoreSt :=
  { x.putBlocks [b] with laneCtr := lane, stalled := none }

/-- The state in which a core has taken an instruction's block and the step its lanes. -/
def State.vxDone (s : State) (k : CoreId) (op : VxOp) (srcs : List VecRef) (dst : VecRef) (c : CtxId) (n key : Nat) : State :=
  ((s.countOp k).updCore k (fun x => x.takeVx (s.vecBlock k c n dst ((s.vxGood k op srcs dst c n key).map (fun e => e.1)))
    (((s.core k).laneCtr + 1) % 16))).updStep c n (fun t => t.takeVector op (vxSource srcs dst) dst.ref.ident (vecKey dst)
      (s.vxTakes srcs dst c n key) ((s.core k).vecWords srcs[0]?) (s.vxGood k op srcs dst c n key))

section
variable (s : State) (k : CoreId) (op : VxOp) (srcs : List VecRef) (dst : VecRef) (c : CtxId) (key : Nat)

/-- Lanes without a fault pass the checker lanes (R113). -/
theorem vxRun_faultFree (n : Nat) : s.vxRun k op srcs dst c n key none = s.vxDone k op srcs dst c n key := by
  unfold State.vxRun
  extract_lets x src env a good seen g words right s1 s2 inGroup
  have agree : inGroup.find? (fun l => decide (good[l]? ≠ seen[l]?)) = none :=
    List.find?_eq_none.mpr fun l _ differs => of_decide_eq_true differs rfl
  rw [agree]
  rfl

theorem vxDone_core (n : Nat) : (s.vxDone k op srcs dst c n key).core k = (s.core k).countOp.takeVx
    (s.vecBlock k c n dst ((s.vxGood k op srcs dst c n key).map (fun e => e.1))) (((s.core k).laneCtr + 1) % 16) := by
  simp [State.vxDone]

theorem vxDone_within (n : Nat) : WorksWithin k c s (s.vxDone k op srcs dst c n key) :=
  (((worksWithin_refl k c s).updCore _).updCore _).updStep n _

variable {s k op srcs dst c key}

theorem execVxInstruction_faultFree
    (hm : s.mayVector k c (s.vxStep k c op srcs) dst.ref.ident.tensor (vxPattern op) (.vx op srcs dst key) = true)
    (hd : s.drawOk c op = true)
    (hr : s.readsBad k c (s.vxStep k c op srcs) ⟨dst.ref.ident.tensor, .vec (.vx op srcs dst key)⟩ true
      (srcs.map (fun v => v.ref)) = none) :
    exec (.vxInstruction k op srcs dst c key none none) s = .next (s.vxDone k op srcs dst c (s.vxStep k c op srcs) key) := by
  show execVxInstruction k op srcs dst c key none none s = _
  unfold execVxInstruction
  dsimp only
  rw [hm, hd, if_neg (by decide), ← vxRun_faultFree]
  cases srcs[0]? with
  | none => dsimp only; rw [hr]
  | some v => dsimp only; rw [hr]

end

/-- Settles O23: an instruction without a fault passes its checker lanes, so its core holds the block `State.vecBlock` and its step the
lanes. -/
theorem vectorInstruction : Obligations.VectorInstruction := by
  refine ⟨fun k op srcs dst c key s hm hd hr => ⟨_, execVxInstruction_faultFree hm hd hr, ?_⟩,
    fun v a b c old l hl => ⟨vxLanes_iadd v a b c old hl, vxLanes_iand v a b c old hl⟩,
    fun v a b c old l hl hb => vxLanes_ishl v a b c old hl hb⟩
  dsimp only
  rw [vxDone_core]
  have written (x : CoreSt) (y : SpadBlock) (g : Nat) : (x.takeVx (dst.ref.block, y) g).block dst.ref.block = y :=
    block_putBlocks_same x _ y
  refine ⟨written _ _ _, ?_, fun h => ?_, fun hw hh ht hi => ?_, fun b hb => block_putBlocks_other _ hb _, rfl, rfl, rfl, rfl, rfl,
    rfl, vxDone_within s k op srcs dst c key _⟩
  · exact (congrArg SpadBlock.tag (written _ _ _)).trans (vecBlock_tag s k c _ dst _)
  · exact (congrArg SpadBlock.whole (written _ _ _)).trans (vecBlock_partly c _ _ h)
  · exact (congrArg SpadBlock.whole (written _ _ _)).trans (vecBlock_completed c _ _ hw hh ht hi)

end Sys2Proof.Machine
end

section
/-! SUPPORT. What a rake operation and a scan operation leave where no fault is injected, for every check of theirs passes then
(R115–R120, R226); with them the statement O24. -/

namespace Sys2Proof.Machine

/-! ## Slots written by a unit (R115, R122, R123) -/

section
variable {f : Step → Step} (hn : ∀ t, (f t).number = t.number) (hr : ∀ t, (f t).records = t.records)
include hn hr

theorem newBlock_updStep (s : State) (c : CtxId) (m n : Nat) (r : BlockRef) (bytes : List Byte) :
    (s.updStep c m f).newBlock c n r bytes = s.newBlock c n r bytes := by
  simp only [State.newBlock, versionOf_updStep hn hr, stepNow_updStep hn]

theorem partBlock_updStep (s : State) (k : CoreId) (c : CtxId) (m n : Nat) (d : SlotRef) (bytes : List Byte) :
    (s.updStep c m f).partBlock k c n d bytes = s.partBlock k c n d bytes := by
  rw [State.partBlock, core_updStep, newBlock_updStep hn hr]
  rfl

/-- A note of the step does not change the block a slot is written in (R124). -/
theorem slotBlock_updStep (s : State) (k : CoreId) (c : CtxId) (m n : Nat) (d : SlotRef) (bytes : List Byte) :
    (s.updStep c m f).slotBlock k c n d bytes = s.slotBlock k c n d bytes := by
  rw [State.slotBlock, core_updStep, partBlock_updStep hn hr]
  rfl

end

/-- A change of a core that keeps its blocks does not change the block a slot is written in. -/
theorem slotBlock_updCore {g : CoreSt → CoreSt} (hg : ∀ x, (g x).blocks = x.blocks) (s : State) (k : CoreId) (c : CtxId) (n : Nat)
    (d : SlotRef) (bytes : List Byte) : (s.updCore k g).slotBlock k c n d bytes = s.slotBlock k c n d bytes := by
  have block (b : Fin 2048) : ((s.updCore k g).core k).block b = (s.core k).block b := by
    rw [State.core_updCore_same, CoreSt.block, hg, CoreSt.block]
  simp only [State.slotBlock, State.partBlock, block]
  rfl

theorem takeRake_number (tensor inst : Nat) (es : List (XV × Nat × Flags × Bool)) (t : Step) :
    (t.takeRake tensor inst es).number = t.number := by
  refine foldl_keeps (g := Step.number) ?_ es t
  exact fun _ _ => rfl

theorem takeRake_records (tensor inst : Nat) (es : List (XV × Nat × Flags × Bool)) (t : Step) :
    (t.takeRake tensor inst es).records = t.records := by
  refine foldl_keeps (g := Step.records) ?_ es t
  exact fun _ _ => rfl

/-! ## The checks of a rake operation without a fault (R117) -/

theorem rakeChecked_none (op : RakeOp) (g chunks : Nat) (good seen : RakeAcc) : rakeChecked op .none g chunks good seen = false := by
  cases op <;> rfl

/-- An exact sum is the sum of its inputs formed apart (R117). -/
def RakeAcc.Balanced (a : RakeAcc) : Prop := a.exact = a.right

theorem addChunks_balanced {a : RakeAcc} (h : a.Balanced) (cs : List (BitVec 32)) : (a.addChunks cs).Balanced := by
  unfold RakeAcc.addChunks
  split <;> exact h

theorem addExact_balanced {a : RakeAcc} (h : a.Balanced) (square : Bool) (codes : List Nat) :
    (a.addExact square codes 0).Balanced := by
  unfold RakeAcc.Balanced at h
  simp [RakeAcc.addExact, RakeAcc.Balanced, h]

/-- A vector without a fault keeps an exact sum the sum of its inputs (R117). -/
theorem step_balanced {a : RakeAcc} (h : a.Balanced) (op : RakeOp) (f : Fmt) (r : ScaleRec) (ws : List Nat) (lanes index : Nat) :
    (a.step op f r ws lanes index .none).Balanced := by
  cases op with
  | sum | sumSq | chunks => exact addChunks_balanced (by exact h) _
  | exactSum | exactSumSq => exact addExact_balanced (by exact h) _ _
  | max | min | argmax | range => exact h

theorem rakeResidueBad_balanced {a : RakeAcc} (h : a.Balanced) (op : RakeOp) : rakeResidueBad op a = false := by
  unfold RakeAcc.Balanced at h
  cases op <;> simp [rakeResidueBad, h]

/-! ## Rake operations without a fault (R115) -/

section
variable (s : State) (k : CoreId) (op : RakeOp) (f : Fmt) (src : VecRef) (lanes index : Nat) (c : CtxId) (n : Nat) (e : TensorRef)

/-- The record of the elements a rake operation adds: for FXR64 that of their tensor, else that of the tensor they enter (R45,
R115). -/
def State.rakeRec : ScaleRec :=
  if f = .fxr64 then s.outRec c n src.ref.ident.tensor src.ref.ident.inst else s.outRec c n e.tensor e.inst

/-- The accumulators a rake operation starts from: those of its context and step, else empty ones (R115). -/
def State.rakeStart : RakeAcc := if (s.core k).rakeOf = some (c, n) then (s.core k).rake else {}

/-- The accumulators after a rake operation without a fault (R115). -/
def State.rakeAfter : RakeAcc :=
  (s.rakeStart k c n).step op f (s.rakeRec f src c n e) (halfWords ((s.core k).block src.ref.block) src.half)
    (min lanes 256) index .none

theorem rakeAfter_balanced (h : (s.core k).rake.exact = (s.core k).rake.right) :
    (s.rakeAfter k op f src lanes index c n e).Balanced := by
  refine step_balanced ?_ op f _ _ _ _
  unfold State.rakeStart
  split
  · exact h
  · rfl

/-- The state in which a rake operation has counted and its step has noted the entries (R45, R112, R239). -/
def State.rakeNotes : State :=
  ((s.countOp k).updCore k (fun y => { y with stalled := none })).updStep c n (fun t => t.takeRake e.tensor e.inst
    (rakeNoted op f (s.rakeRec f src c n e) (halfWords ((s.core k).block src.ref.block) src.half) (min lanes 256)))

theorem rakeNotes_core : (s.rakeNotes k op f src lanes c n e).core k = { (s.core k).countOp with stalled := none } := by
  simp [State.rakeNotes]

theorem rakeNotes_within : WorksWithin k c s (s.rakeNotes k op f src lanes c n e) :=
  (((worksWithin_refl k c s).updCore _).updCore _).updStep n _

theorem slotBlock_rakeNotes (d : SlotRef) (bytes : List Byte) :
    (s.rakeNotes k op f src lanes c n e).slotBlock k c n d bytes = s.slotBlock k c n d bytes := by
  rw [State.rakeNotes, slotBlock_updStep (takeRake_number _ _ _) (takeRake_records _ _ _), slotBlock_updCore,
    State.countOp, slotBlock_updCore]
  · exact fun _ => rfl
  · exact fun _ => rfl

/-- A core whose rake holds accumulators of a context's step (R115). -/
def CoreSt.holdRake (x : CoreSt) (a : RakeAcc) (c : CtxId) (n : Nat) : CoreSt := { x with rake := a, rakeOf := some (c, n) }

/-- A core whose rake has given a result in a block and is empty (R115). -/
def CoreSt.giveRake (x : CoreSt) (b : Fin 2048 × SpadBlock) (o : XV × Int × Nat) : CoreSt :=
  { x.putBlocks [b] with rake := {}, rakeOf := none, rakeOut := some o }

theorem rakeRun_more : s.rakeRun k op f src lanes index c n e.tensor e.inst .more .none =
    (s.rakeNotes k op f src lanes c n e).updCore k (fun x => x.holdRake (s.rakeAfter k op f src lanes index c n e) c n) := by
  unfold State.rakeRun
  simp only [rakeChecked_none, Bool.false_eq_true, if_false]
  rfl

/-- The bytes a rake operation without a fault leaves in its slot (R115). -/
def State.rakeSlotBytes : List Byte := rakeBytes op f (rakeResult (s.rakeAfter k op f src lanes index c n e) op)

/-- The state in which the step has taken the result of a rake operation without a fault (R112). -/
def State.rakeNotesResult (d : SlotRef) : State :=
  (s.rakeNotes k op f src lanes c n e).updStep c n (fun t => t.takeResult d 0xA
    (rakeCodes (s.rakeSlotBytes k op f src lanes index c n e) (.slot d)).2 (s.rakeAfter k op f src lanes index c n e).flags)

/-- The last vector: a balanced sum passes the residue check, so the result goes to its slot (R115, R117). -/
theorem rakeRun_slot (d : SlotRef) (h : (s.core k).rake.exact = (s.core k).rake.right) :
    s.rakeRun k op f src lanes index c n e.tensor e.inst (.slot d) .none =
      (s.rakeNotesResult k op f src lanes index c n e d).updCore k (fun x => x.giveRake
        (d.ref.block, s.slotBlock k c n d (s.rakeSlotBytes k op f src lanes index c n e))
        (rakeResult (s.rakeAfter k op f src lanes index c n e) op)) := by
  have balanced : rakeResidueBad op (s.rakeAfter k op f src lanes index c n e) = false :=
    rakeResidueBad_balanced (rakeAfter_balanced s k op f src lanes index c n e h) op
  rw [← slotBlock_rakeNotes s k op f src lanes c n e]
  unfold State.rakeAfter State.rakeStart State.rakeRec at balanced
  unfold State.rakeRun
  simp only [rakeChecked_none, balanced, Bool.or_self, Bool.false_eq_true, if_false]
  rfl

theorem rakeNotesResult_core (d : SlotRef) : (s.rakeNotesResult k op f src lanes index c n e d).core k =
    { (s.core k).countOp with stalled := none } := rakeNotes_core s k op f src lanes c n e

theorem rakeNotesResult_within (d : SlotRef) : WorksWithin k c s (s.rakeNotesResult k op f src lanes index c n e d) :=
  (rakeNotes_within s k op f src lanes c n e).updStep n _

end

/-- A rake operation that may run, its read good and no arbitration of the rake outstanding (R115–R117, R125). -/
theorem execRakeReduction_runs {s : State} {k : CoreId} {op : RakeOp} {f : Fmt} {src : VecRef} {lanes index : Nat} {c : CtxId}
    {e : TensorRef} {dest : RakeDest} (fault : RakeFault)
    (hm : s.mayVector k c (s.opStep k c [src.ref]) (rakeTensor e dest) (vecPattern 9 f.code)
      (.rake op f src lanes index e dest) = true) (hd : (s.core k).rakeInDoubt = false)
    (hr : s.readsBad k c (s.opStep k c [src.ref]) ⟨rakeTensor e dest, .vec (.rake op f src lanes index e dest)⟩ true [src.ref] =
      none) :
    exec (.rakeReduction k op f src lanes index c e dest fault) s =
      .next (s.rakeRun k op f src lanes index c (s.opStep k c [src.ref]) e.tensor e.inst dest fault) := by
  show execRakeReduction k op f src lanes index c e dest fault s = _
  unfold execRakeReduction
  dsimp only
  rw [hm, hd, if_neg (by decide), hr]

/-! ## Running sums (R119, R120) -/

theorem length_scanSums (inclusive : Bool) (acc : Int) (l : List (Int × Bool)) : (scanSums inclusive acc l).length = l.length := by
  induction l generalizing acc with
  | nil => rfl
  | cons e l ih => exact congrArg (· + 1) (ih _)

theorem scanCarry_append (acc : Int) (l m : List (Int × Bool)) : scanCarry acc (l ++ m) = scanCarry (scanCarry acc l) m := by
  induction l generalizing acc with
  | nil => rfl
  | cons e l ih => exact ih _

/-- The sums of a sequence in two parts: the second starts from what the first carries (R120). -/
theorem scanSums_append (inclusive : Bool) (acc : Int) (l m : List (Int × Bool)) :
    scanSums inclusive acc (l ++ m) = scanSums inclusive acc l ++ scanSums inclusive (scanCarry acc l) m := by
  induction l generalizing acc with
  | nil => rfl
  | cons e l ih => exact congrArg (_ :: ·) (ih _)

/-- Without heads the keys' sum is carried. -/
theorem scanCarry_headless (acc : Int) (keys : List Int) :
    scanCarry acc (keys.map (fun x => (x, false))) = acc + keys.foldl (· + ·) 0 := by
  rw [← List.sum_eq_foldl]
  induction keys generalizing acc with
  | nil => simp [scanCarry]
  | cons x keys ih =>
    rw [List.map_cons, scanCarry, ih, List.sum_cons]
    simp only [Bool.false_eq_true, if_false]
    omega

theorem exists_append_singleton {α : Type} {l : List α} (h : l ≠ []) : ∃ m a, l = m ++ [a] := by
  obtain ⟨m, a, e⟩ := (List.eq_nil_or_concat l).resolve_left h
  exact ⟨m, a, e.trans List.concat_eq_append⟩

/-- The last running sum, inclusive, or exclusive with its key, is what is carried (R120, R226). -/
theorem scanSums_last (inclusive : Bool) (acc : Int) {l : List (Int × Bool)} (h : l ≠ []) :
    (scanSums inclusive acc l).getLast?.getD 0 + (if inclusive then 0 else (l.map (fun e => e.1)).getLast?.getD 0) =
      scanCarry acc l := by
  obtain ⟨m, ⟨x, head⟩, rfl⟩ := exists_append_singleton h
  rw [scanSums_append, scanCarry_append]
  cases inclusive <;> simp [scanSums, scanCarry]

/-- Behind a head that comes last its own key is carried. -/
theorem scanCarry_head (acc : Int) {keys : List Int} {heads : List Bool} (hk : keys ≠ []) (hl : heads.length = keys.length)
    (hh : heads.getLast?.getD false = true) : scanCarry acc (keys.zip heads) = keys.getLast?.getD 0 := by
  obtain ⟨ks, x, rfl⟩ := exists_append_singleton hk
  obtain ⟨hs, head, rfl⟩ := exists_append_singleton (l := heads) (by
    rintro rfl
    rw [List.length_append, List.length_nil, List.length_singleton] at hl
    omega)
  have same : ks.length = hs.length := by simpa using hl.symm
  have last : head = true := by simpa using hh
  rw [List.zip_append same, scanCarry_append]
  simp [scanCarry, last]

/-! ## The cross-check of a scan operation without a fault (R226) -/

/-- The cross-check of an output by its totals: what the input gives is what the output shows (R226). -/
def TotalsAgree (op : ScanOp) (start keys : List Int) (heads : List Bool) (out : List Int) : Prop :=
  (scanTotals op start keys heads out).1 = (scanTotals op start keys heads out).2

theorem scanBad_of_totals {op : ScanOp} {start keys : List Int} {heads : List Bool} {out : List Int} (hop : ∀ n, op ≠ .rank n)
    (h : TotalsAgree op start keys heads out) : scanBad op start keys heads out = false := by
  unfold scanBad
  split
  · exact absurd rfl (hop _)
  · exact decide_eq_false (not_not_intro h)

section
variable (inclusive : Bool) (first : Nat) (start : List Int) {keys : List Int} {heads : List Bool} (hk : keys ≠ [])
include hk

theorem totalsAgree_prefixSum :
    TotalsAgree (.prefixSum inclusive) start keys heads (scanResult (.prefixSum inclusive) first start keys heads) := by
  have last := scanSums_last inclusive (start.headD 0) (l := keys.map (fun x => (x, false))) (by simpa using hk)
  have firsts : (keys.map (fun x => (x, false))).map (fun e => e.1) = keys := by
    rw [List.map_map]
    exact List.map_id keys
  rw [scanCarry_headless, firsts] at last
  exact last.symm

theorem totalsAgree_segmented (hs : List BlockRef) (hl : heads.length = keys.length) :
    TotalsAgree (.segmented inclusive hs) start keys heads (scanResult (.segmented inclusive hs) first start keys heads) := by
  have pairs : keys.zip heads ≠ [] := by
    rw [Ne, ← List.length_eq_zero_iff, List.length_zip, hl, Nat.min_self, List.length_eq_zero_iff]
    exact hk
  have last := scanSums_last inclusive (start.headD 0) pairs
  have firsts : (keys.zip heads).map (fun e => e.1) = keys := List.map_fst_zip (Nat.le_of_eq hl.symm)
  rw [firsts] at last
  unfold TotalsAgree
  cases inclusive with
  | true => exact last.symm
  | false =>
    simp only [scanTotals, Bool.false_eq_true, if_false]
    split
    next hh => exact scanCarry_head _ hk hl hh
    next => exact last.symm

end

/-- The keys from 0 below a bound. -/
def keysBelow (n : Nat) (keys : List Int) : List Int := keys.filter (fun k => decide (0 ≤ k) && decide (k < (n : Int)))

theorem length_keysBelow_succ (n : Nat) (keys : List Int) :
    (keysBelow (n + 1) keys).length = (keysBelow n keys).length + (keys.filter (fun k => k == (n : Int))).length := by
  simp only [keysBelow, ← List.countP_eq_length_filter]
  induction keys with
  | nil => rfl
  | cons x keys ih =>
    have one : (if (decide (0 ≤ x) && decide (x < ((n + 1 : Nat) : Int))) = true then 1 else 0) =
        (if (decide (0 ≤ x) && decide (x < (n : Int))) = true then 1 else 0) + if (x == (n : Int)) = true then 1 else 0 := by
      simp only [Bool.and_eq_true, decide_eq_true_eq, beq_iff_eq]
      by_cases below : 0 ≤ x ∧ x < (n : Int)
      · rw [if_pos (by omega), if_pos below, if_neg (by omega)]
      · by_cases top : x = (n : Int)
        · rw [if_pos (by omega), if_neg below, if_pos top]
        · rw [if_neg (by omega), if_neg below, if_neg top]
    simp only [List.countP_cons, ih, one]
    omega

/-- The counts of a histogram are the keys below its bound (R226). -/
theorem sum_scanHist (n : Nat) (keys : List Int) : (scanHist n keys).sum = Int.ofNat (keysBelow n keys).length := by
  induction n with
  | zero =>
    have empty : keysBelow 0 keys = [] := List.filter_eq_nil_iff.mpr fun x _ below => by
      simp only [Bool.and_eq_true, decide_eq_true_eq] at below
      omega
    rw [empty]
    rfl
  | succ n ih =>
    rw [length_keysBelow_succ, scanHist, List.range_succ, List.map_append, List.sum_append]
    exact congrArg (· + _) ih

theorem totalsAgree_histogram (n first : Nat) (start keys : List Int) (heads : List Bool) :
    TotalsAgree (.histogram n) start keys heads (scanResult (.histogram n) first start keys heads) := by
  show _ = (scanHist n keys).foldl (· + ·) 0
  rw [← List.sum_eq_foldl, sum_scanHist]
  rfl

theorem totalsAgree_compact (first : Nat) (start keys : List Int) (heads : List Bool) :
    TotalsAgree .compact start keys heads (scanResult .compact first start keys heads) := by
  have flags : (keys.zipIdx.filter (fun e => e.1 != 0)).map Prod.fst = keys.filter (fun k => k != 0) := by
    have keyed := List.filter_map (f := Prod.fst) (p := fun k : Int => k != 0) (l := keys.zipIdx)
    rw [List.zipIdx_map_fst] at keyed
    exact keyed.symm
  simp only [TotalsAgree, scanTotals, scanResult, ← flags, List.length_map]

/-! ## Ranks (R119, R226) -/

theorem length_scanRanks (n : Nat) (start keys : List Int) : (scanRanks n start keys).length = keys.length := by
  simp [scanRanks]

/-- One more element ranks behind the earlier ones with its key (R119). -/
theorem scanRanks_append (n : Nat) (start keys : List Int) (x : Int) : scanRanks n start (keys ++ [x]) = scanRanks n start keys ++
    [if 0 ≤ x ∧ x < (n : Int) then start.getD x.toNat 0 + Int.ofNat (keys.filter (fun k => k == x)).length else 0xFFFFFFFF] := by
  unfold scanRanks
  rw [List.zipIdx_append, List.map_append]
  congr 1
  · refine List.map_congr_left fun e he => ?_
    rw [List.take_append_of_le_length (Nat.le_of_lt (by simpa using List.snd_lt_of_mem_zipIdx he))]
  · simp

/-- The elements with a key beside their ranks. -/
def ranksOf (n : Nat) (start keys : List Int) (k : Nat) : List (Int × Int) :=
  (keys.zip (scanRanks n start keys)).filter (fun e => e.1 == (k : Int))

/-- The ranks of the elements with a key below the bound count up from the key's starting rank (R119). -/
theorem ranksOf_ranks {n k : Nat} (hk : k < n) (start keys : List Int) : (ranksOf n start keys k).map (fun e => e.2) =
    (List.range (keys.filter (fun x => x == (k : Int))).length).map (fun (j : Nat) => start.getD k 0 + Int.ofNat j) := by
  induction keys using append_singleton_induction with
  | nil => rfl
  | append_singleton keys x ih =>
    unfold ranksOf at ih ⊢
    rw [scanRanks_append, List.zip_append (length_scanRanks n start keys).symm, List.filter_append, List.filter_append,
      List.map_append, ih]
    by_cases h : x = k
    · subst h
      simp [hk, List.range_succ]
    · simp [h]

theorem foldl_max_range (a : Int) (m : Nat) : ((List.range (m + 1)).map (fun (j : Nat) => a + Int.ofNat j)).foldl max a = a + m := by
  induction m with
  | zero => simp
  | succ m ih =>
    rw [List.range_succ, List.map_append, List.foldl_append, ih]
    exact Int.max_eq_right (Int.add_le_add_left (Int.ofNat_le.mpr (Nat.le_succ m)) a)

/-- The largest rank of a key that occurs is its starting rank and its count less 1 (R226). -/
theorem ranksOf_max {n k : Nat} (hk : k < n) (start keys : List Int) (h : ranksOf n start keys k ≠ []) :
    ((ranksOf n start keys k).map (fun e => e.2)).foldl max ((ranksOf n start keys k).headD (0, 0)).2 =
      start.getD k 0 + Int.ofNat (ranksOf n start keys k).length - 1 := by
  have ranks := ranksOf_ranks hk start keys
  have count := congrArg List.length ranks
  rw [List.length_map, List.length_map, List.length_range] at count
  generalize ranksOf n start keys k = mine at h ranks count ⊢
  obtain ⟨e, es, rfl⟩ := List.exists_cons_of_ne_nil h
  rw [← count, List.length_cons] at ranks
  have head : e.2 = start.getD k 0 := by
    rw [List.range_succ_eq_map] at ranks
    simpa using congrArg (fun l => l.headD 0) ranks
  rw [ranks, List.headD_cons, head, foldl_max_range, List.length_cons, Int.ofNat_eq_natCast]
  push_cast
  omega

theorem scanBad_rank (n first : Nat) (start keys : List Int) (heads : List Bool) :
    scanBad (.rank n) start keys heads (scanResult (.rank n) first start keys heads) = false := by
  refine List.any_eq_false.mpr fun k hk bad => ?_
  rw [Bool.and_eq_true, decide_eq_true_eq] at bad
  obtain ⟨(occurs : (!(ranksOf n start keys k).isEmpty) = true), differs⟩ := bad
  exact differs (ranksOf_max (List.mem_range.mp hk) start keys (by simpa using occurs))

/-- The cross-check of a scan operation passes its output (R226). -/
theorem scanBad_faultFree (op : ScanOp) (first : Nat) (start : List Int) {keys : List Int} {heads : List Bool} (hk : keys ≠ [])
    (hl : heads.length = keys.length) : scanBad op start keys heads (scanResult op first start keys heads) = false := by
  cases op with
  | prefixSum inclusive => exact scanBad_of_totals (by simp) (totalsAgree_prefixSum inclusive first start hk)
  | segmented inclusive hs => exact scanBad_of_totals (by simp) (totalsAgree_segmented inclusive first start hk hs hl)
  | histogram n => exact scanBad_of_totals (by simp) (totalsAgree_histogram n first start keys heads)
  | rank n => exact scanBad_rank n first start keys heads
  | compact => exact scanBad_of_totals (by simp) (totalsAgree_compact first start keys heads)

/-! ## Scan operations without a fault (R118–R120) -/

theorem length_scanInput (x : CoreSt) (op : ScanOp) (src : List BlockRef) (count : Nat) :
    (x.scanInput op src count).length = count := by
  cases op <;> simp [CoreSt.scanInput, CoreSt.spadElems]

theorem length_scanHeads (x : CoreSt) (op : ScanOp) (count first : Nat) : (x.scanHeads op count first).length = count := by
  cases op <;> simp [CoreSt.scanHeads, CoreSt.spadElems]

section
variable (x : CoreSt) (op : ScanOp) (part : ScanPart)

/-- The output of a scan operation on a part that a core holds (R119, R120). -/
def CoreSt.scanOutput : List Int :=
  scanResult op part.first (x.scanStart op part.earlier part.parts) (x.scanInput op part.src part.count)
    (x.scanHeads op part.count part.first)

/-- The total that part passes on (R120). -/
def CoreSt.scanPasses : Int :=
  scanTotal op (x.scanStart op part.earlier part.parts) (x.scanInput op part.src part.count) (x.scanHeads op part.count part.first)

theorem scanBad_scanOutput (hc : part.count ≠ 0) : scanBad op (x.scanStart op part.earlier part.parts)
    (x.scanInput op part.src part.count) (x.scanHeads op part.count part.first) (x.scanOutput op part) = false :=
  scanBad_faultFree op _ _ (by rwa [Ne, ← List.length_eq_zero_iff, length_scanInput]) (by rw [length_scanHeads, length_scanInput])

/-- A core that has written a scan operation's output (R119). -/
def CoreSt.takeScan (bs : List (Fin 2048 × SpadBlock)) (out : List Int) (total : Int) : CoreSt :=
  { x.putBlocks bs with scanOut := out, scanSum := total, stalled := none }

end

section
variable (s : State) (k : CoreId) (op : ScanOp) (part : ScanPart) (dst : List BlockRef) (c : CtxId) (n tensor : Nat)

/-- The state in which a core and its step have taken a scan operation's output (R112, R119). -/
def State.scanDone : State :=
  let out := (s.core k).scanOutput op part
  let codes := out.map (ofSigned (scanBits op))
  ((s.countOp k).updCore k (fun x => x.takeScan (s.runBlocks c n dst (packCodes (scanBits op) codes)) out
    ((s.core k).scanPasses op part))).updStep c n (fun t => t.takeScan tensor part.first (scanBits op)
      (scanClamps op ((s.core k).scanInput op part.src part.count)) codes)

/-- A part that is not empty passes the cross-check where there is no fault (R226). -/
theorem scanRun_faultFree (hc : part.count ≠ 0) : s.scanRun k op part dst c n tensor none = s.scanDone k op part dst c n tensor := by
  have passed := scanBad_scanOutput (s.core k) op part hc
  unfold CoreSt.scanOutput at passed
  unfold State.scanRun
  simp only [faultScan, passed, Bool.false_eq_true, if_false]
  rfl

theorem scanDone_core : (s.scanDone k op part dst c n tensor).core k = (s.core k).countOp.takeScan
    (s.runBlocks c n dst (packCodes (scanBits op) (((s.core k).scanOutput op part).map (ofSigned (scanBits op)))))
    ((s.core k).scanOutput op part) ((s.core k).scanPasses op part) := by
  simp [State.scanDone]

theorem scanDone_within : WorksWithin k c s (s.scanDone k op part dst c n tensor) :=
  (((worksWithin_refl k c s).updCore _).updCore _).updStep n _

end

section
variable {s : State} {k : CoreId} {op : ScanOp} {part : ScanPart} (dst : List BlockRef) {c : CtxId} (tensor : Nat)
  (f : Option (Nat × Int))

theorem execScanOperation_empty (h : part.count = 0) : exec (.scanOperation k op part dst c tensor f) s = .next s := by
  show execScanOperation k op part dst c tensor f s = _
  simp [execScanOperation, h]

/-- A core that is not scan-capable does nothing (R118). -/
theorem execScanOperation_incapable (h : Config.scanCapable k.num.val = false) :
    exec (.scanOperation k op part dst c tensor f) s = .next s := by
  show execScanOperation k op part dst c tensor f s = _
  simp [execScanOperation, h]

variable {dst tensor}

/-- A scan-capable core that may run a scan operation of a part that is not empty, its reads good, runs it (R118, R125). -/
theorem execScanOperation_runs (hs : Config.scanCapable k.num.val = true)
    (hm : s.mayVector k c (s.opStep k c (scanReads op part.src part.earlier)) tensor (vecPattern 10 0)
      (.scan op part dst tensor) = true)
    (hc : part.count ≠ 0)
    (hr : s.readsBad k c (s.opStep k c (scanReads op part.src part.earlier)) ⟨tensor, .vec (.scan op part dst tensor)⟩ true
      (scanReads op part.src part.earlier) = none) :
    exec (.scanOperation k op part dst c tensor f) s =
      .next (s.scanRun k op part dst c (s.opStep k c (scanReads op part.src part.earlier)) tensor f) := by
  show execScanOperation k op part dst c tensor f s = _
  unfold execScanOperation
  dsimp only
  rw [hm, hs, beq_false_of_ne hc, if_neg (by decide), hr]

end

/-! ## The clauses on whole sequences (R119, R120) -/

theorem prefixSum_getLast? (first : Nat) (start : List Int) {keys : List Int} (heads : List Bool) (h : keys ≠ []) :
    (scanResult (.prefixSum true) first start keys heads).getLast? = some (start.headD 0 + keys.foldl (· + ·) 0) := by
  have sums : scanSums true (start.headD 0) (keys.map (fun x => (x, false))) ≠ [] := by
    rwa [Ne, ← List.length_eq_zero_iff, length_scanSums, List.length_map, List.length_eq_zero_iff]
  have last := scanSums_last true (start.headD 0) (l := keys.map (fun x => (x, false))) (by simpa using h)
  rw [scanCarry_headless, List.getLast?_eq_some_getLast sums] at last
  rw [← last, scanResult, List.getLast?_eq_some_getLast sums]
  simp

theorem length_prefixSum (inclusive : Bool) (first : Nat) (start keys : List Int) (heads : List Bool) :
    (scanResult (.prefixSum inclusive) first start keys heads).length = keys.length := by
  rw [scanResult, length_scanSums, List.length_map]

/-- A sequence scanned in two parts gives what it gives whole (R120). -/
theorem prefixSum_append (inclusive : Bool) (xs ys : List Int) : scanResult (.prefixSum inclusive) 0 [0] (xs ++ ys) [] =
    scanResult (.prefixSum inclusive) 0 [0] xs [] ++
      scanResult (.prefixSum inclusive) xs.length [scanTotal (.prefixSum inclusive) [0] xs []] ys [] := by
  simp only [scanResult, scanTotal, List.headD_cons, List.map_append, scanSums_append, scanCarry_headless, Int.zero_add]

/-! ## The statement -/

/-- Settles O24: without a fault a rake operation leaves `State.rakeAfter` or its result, and a part of a scan its output, for every
check passes. -/
theorem rakeAndScan : Obligations.RakeAndScan := by
  refine ⟨fun k op f src lanes index c e s hm hd hr => ?_, fun k op f src lanes index c e d s hm hd hb hr => ?_,
    fun k op part dst c tensor s hm hc hr => ?_, fun k op part dst c tensor f s h => execScanOperation_empty dst tensor f h,
    fun first start keys heads h => ⟨prefixSum_getLast? first start heads h, length_prefixSum true first start keys heads⟩,
    prefixSum_append⟩
  · have runs := execRakeReduction_runs (dest := .more) .none hm hd hr
    rw [rakeRun_more] at runs
    refine ⟨_, runs, ?_⟩
    dsimp only
    rw [State.core_updCore_same, rakeNotes_core]
    exact ⟨rfl, rfl, rfl, rfl, rfl, (rakeNotes_within s k op f src lanes c _ e).updCore _⟩
  · have runs := execRakeReduction_runs (dest := .slot d) .none hm hd hr
    rw [rakeRun_slot s k op f src lanes index c _ e d hb] at runs
    refine ⟨_, runs, ?_⟩
    dsimp only
    rw [State.core_updCore_same, rakeNotesResult_core]
    exact ⟨rfl, rfl, rfl, block_putBlocks_same _ _ _, fun b other => block_putBlocks_other _ other _,
      (rakeNotesResult_within s k op f src lanes index c _ e d).updCore _⟩
  · cases hs : Config.scanCapable k.num.val with
    | true =>
      have runs := execScanOperation_runs none hs hm hc hr
      rw [scanRun_faultFree s k op part dst c _ tensor hc] at runs
      refine ⟨_, runs, ?_⟩
      dsimp only
      rw [scanDone_core]
      exact ⟨(if_pos rfl).symm, fun _ => rfl, fun h => absurd h (by decide), scanDone_within s k op part dst c _ tensor⟩
    | false =>
      exact ⟨s, execScanOperation_incapable dst tensor none hs, rfl, fun h => absurd h (by decide), fun _ => rfl,
        worksWithin_refl k c s⟩

end Sys2Proof.Machine
end
